-- ==== Sys2Proof/Word.lean ====
section
/-! DEFINITION. The word types of the GX4 model: every register is 64 bits wide (R9), memory is addressed by bytes and
multi-byte fields are little-endian (R8). -/

namespace Sys2Proof

/-- One byte of memory. -/
abbrev Byte := BitVec 8

/-- A 32-bit word: a Cusojo instruction, an FP32 or INT32 element, a tile slot. -/
abbrev W32 := BitVec 32

/-- A 64-bit word: the width of every register (R9). -/
abbrev W64 := BitVec 64

/-- A 512-bit block: a command packet (R77), a cache line (R363), an HBM block (R296), a Twill register (R340). -/
abbrev W512 := BitVec 512

end Sys2Proof
end

