-- ==== Sys2Proof/Syntax.lean ====
section
/-! DEFINITION. The commands and events of the GX4: one constructor per row of spec/opcode_table.json, with the operands
that the row's rule gives it, and the small types those operands are made of. -/

namespace Sys2Proof

/-- Who performs a control-window access (R34): the PCI Express host, the I3C target port (R532), a user core, or the
Shuttle and the memory commands. -/
inductive Requester where
  | host
  | i3c
  | core (c : Nat)
  | shuttle
  deriving DecidableEq, Repr

/-- The three engines of a tile that hold a queue (R129): the matrix arrays, the vector engine, the Shuttle. -/
inductive Engine where
  | m
  | v
  | x
  deriving DecidableEq, Repr

/-- The 24-byte header of a fabric transaction packet, R393, with the two checks the receiver makes of it (R396). -/
structure FabHdr where
  op : BitVec 8
  size : BitVec 3
  oclass : BitVec 2
  resp : Bool
  dst : BitVec 16
  src : BitVec 16
  engine : BitVec 12
  part : BitVec 4
  slot : BitVec 12
  hops : BitVec 4
  gen : BitVec 24
  addr : BitVec 48
  /-- the end-to-end CRC-32 of bytes 20-23 matches the header and data -/
  crcOk : Bool
  deriving DecidableEq, Repr

/-- A link flit of R389, with the outcome of the receiver's two checks of R390. -/
structure Flit where
  seq : BitVec 24
  ack : BitVec 24
  kind : BitVec 8
  creditClass : BitVec 8
  credits : BitVec 32
  payload : BitVec 1920
  /-- FEC decode succeeded -/
  fecOk : Bool
  /-- the FEC decode corrected something -/
  fecCorrected : Bool
  /-- the link CRC-32 matches -/
  crcOk : Bool
  deriving DecidableEq, Repr

/-- The content of a beacon flit, R49, with the two local timestamps of R50; times are in units of 2^-16 ns. -/
structure BeaconMsg where
  t1 : Int
  t2 : Int
  t3 : Int
  t4 : Int
  quality : BitVec 2
  rootRank : BitVec 8
  /-- package ID of the elected root as the neighbour reports it, for the tie-break of R45 -/
  rootPkg : BitVec 16
  hops : BitVec 4
  peerPkg : BitVec 16
  /-- the sender has a usable source from 2 to 5, R45 -/
  rootLive : Bool
  /-- the link is an uplink and the beacon an optical one, R44 -/
  optical : Bool
  /-- a step the root schedules (R58): boundary furrow and signed number of furrows -/
  step : Option (Nat × Int)
  deriving DecidableEq, Repr

/-- What training of a link reports, R387 and R513. -/
structure TrainReport where
  peerPkg : BitVec 16
  peerChassis : BitVec 16
  peerLink : BitVec 6
  /-- the peer reports "Ferdaelle-signed firmware running" -/
  bootOk : Bool
  /-- narrowest PAM4 eye of each of the five lanes, steps of 1/64 UI -/
  eyes : List Nat
  /-- path delays in units of 2^-6 ns: local transmit, local receive, remote transmit, remote receive -/
  txLocal : Int
  rxLocal : Int
  txRemote : Int
  rxRemote : Int
  deriving DecidableEq, Repr

/-- The set-up summary of a collective, R416. -/
structure Summary where
  op : BitVec 4
  alg : BitVec 2
  redop : BitVec 2
  etype : BitVec 3
  count : BitVec 40
  root : BitVec 14
  n : BitVec 15
  s : BitVec 8
  digest : BitVec 256
  deriving DecidableEq, Repr

/-- One journal entry of a lost package as op 0x36 carries it (R455, R459). -/
structure JXfer where
  queue : Nat
  seq : Nat
  pkt : W512
  retired : Bool
  deriving DecidableEq, Repr

/-- What the power and thermal controller senses in one tick, R491, R494, R501: milliwatts. -/
structure PowerSample where
  tileMw : Nat
  nontileMw : Nat
  /-- measured tile power per running tile of each partition, mW -/
  partTileMw : List (Nat × Nat)
  /-- measured power per running user core of each partition, mW -/
  partCoreMw : List (Nat × Nat)
  deriving DecidableEq, Repr

/-- What the phases of a cold boot find, R512: self-test, margining, straps are sampled by PWROK_RISE. -/
structure BootReport where
  /-- a steward pair that fails self-test (0 or 1) -/
  pairFail : List Nat
  /-- rd_eye, wr_eye and vref_eye of pseudo-channel 32 s + n, R311; unlisted pseudo-channels pass with full eyes -/
  margins : List (Nat × (Nat × Nat × Nat))
  /-- length of the boot in microseconds -/
  us : Nat
  /-- what the board has written into the QSPI flash since the last boot (R516): offset and bytes -/
  flash : List (Nat × List Byte)
  /-- what the buddy holds of this package's journal (R120): anchored_through of each queue, none without a buddy, and the entries -/
  anchored : List (Nat × Nat)
  journal : List JXfer
  deriving DecidableEq, Repr

/-- One partition's traffic over a 1 ms window, R488: link (0-63) or stack (64 + s), percent received, whether traffic
waited for the whole window, the guarantee that held, and the partition that it held for. -/
structure ShareObs where
  part : Nat
  resource : Nat
  percent : Nat
  waiting : Bool
  /-- cause of R487: 2, 4 or 5 -/
  cause : Nat
  holder : Nat
  deriving DecidableEq, Repr

/-- The fields of a Twill instruction in format VR, R347. -/
structure VRFields where
  vd : BitVec 5
  va : BitVec 5
  vb : BitVec 5
  mask : BitVec 2
  mz : Bool
  fn : BitVec 8
  deriving DecidableEq, Repr

/-- The fields of a Twill memory instruction in format VM, R347: [25:21], [20:15], [14:9], [8:7], [6], [5], [4:3],
[2:0]. -/
structure VMFields where
  vd : BitVec 5
  ra : BitVec 6
  rb : BitVec 6
  mask : BitVec 2
  mz : Bool
  ff : Bool
  scale : BitVec 2
  low : BitVec 3
  deriving DecidableEq, Repr

/-- One command or event of the GX4: a row of spec/opcode_table.json. -/
inductive Instr where
  /-- DMWR_INTAKE (R81): A 64-byte Deferrable Memory Write to a BAR2 queue slot is judged and either accepted into both journal copies or answered with Unsupported Request, retry or duplicate success. -/
  | dmwrIntake (vf : Option Nat) (off len : Nat) (pkt : BitVec 512)
  /-- POSTED_WRITE_BAR2 (R85): A posted Memory Write to BAR2 is discarded and sets non_dmwr_write. -/
  | postedWriteBar2 (off len : Nat)
  /-- COMMAND_DATAGRAM (R85): A command packet in a UDP datagram to port 4720 on management Ethernet is judged under R81 and answered with a 16-byte datagram. -/
  | commandDatagram (len : Nat) (pkt : BitVec 512)
  /-- LAB_CMD (R86): Update-DR of the LAB_CMD test-port register enters a command packet into a lab queue and latches the answer. -/
  | labCmd (dr : BitVec 528)
  /-- LAB_MEM (R86): Update-DR of the LAB_MEM test-port register reads or writes 8 bytes at a local address, uncached. -/
  | labMem (dr : BitVec 128)
  /-- IDCODE (R534): The IDCODE test-port instruction returns the device identification 0x1000_48CB. -/
  | idcode
  /-- BYPASS (R86): The BYPASS test-port instruction selects the bypass register; lab codes select it once the lab fuse is blown. -/
  | bypass (code : BitVec 8)
  /-- EXTEST (R86): The EXTEST test-port instruction drives and captures the boundary scan cells. -/
  | extest (cells : List Bool)
  /-- SAMPLE_PRELOAD (R86): The SAMPLE/PRELOAD test-port instruction samples or preloads the boundary scan cells. -/
  | samplePreload (sampled preload : List Bool)
  /-- HOST_BAR4_ACCESS (R542): A host read or write through BAR4 completes with data, zero data and host_unpop, or a poisoned completion. -/
  | hostBar4Access (wr : Bool) (addr len : Nat) (data : List Byte)
  /-- REGISTER_WRITE (R11): A write to a register without a row of its own sets, clears or refuses its fields per access code and the block's write rules. -/
  | registerWrite (who : Requester) (off size : Nat) (val : W64)
  /-- TIME_NOW_READ (R41): A read of TIME_NOW returns the counter and latches the fraction and quality into TIME_LATCH. -/
  | timeNowRead
  /-- PKG_ADDR_WRITE (R35): A write to DEV_PKG_ADDR sets package_id and chassis_id, or is discarded with dev_write_refused while any link is trained. -/
  | pkgAddrWrite (val : W64)
  /-- GLOBAL_DET_WRITE (R36): A write to DEV_MODE that changes global_det takes effect before the next command or is discarded while a long operation is in progress. -/
  | globalDetWrite (val : W64)
  /-- FURROW_CFG_WRITE (R66): A write to TIME_FURROW_CFG sets log2_len or clears epoch_set, or is refused under R66. -/
  | furrowCfgWrite (val : W64)
  /-- FURROW_EPOCH_WRITE (R66): A write to TIME_FURROW_EPOCH sets the furrow epoch and epoch_set, or is refused under R66. -/
  | furrowEpochWrite (val : W64)
  /-- QUEUE_ENABLE (R543): A write to INTK_Q_CFG that changes enable from 0 to 1 restarts both rings of the queue at slot 0 with phase 1. -/
  | queueEnable (q : Nat) (val : W64)
  /-- CQ_HEAD_WRITE (R94): A write to INTK_Q_CQ_HEAD frees completion-ring slots, letting held records be written and held commands start. -/
  | cqHeadWrite (q : Nat) (val : W64)
  /-- CORE_START (R314): CPU_CORE_CTL action start begins a halted user core at CPU_CORE_ENTRY in supervisor privilege with cleared state. -/
  | coreStart (c : Nat)
  /-- CORE_HALT (R314): CPU_CORE_CTL action halt stops the core at the next instruction boundary with its registers kept. -/
  | coreHalt (c : Nat)
  /-- INVALIDATE_ALL (R367): CACHE_CTL action 1 invalidates every instance of the named cache level. -/
  | invalidateAll (level : Nat)
  /-- CLEAN_AND_INVALIDATE_ALL (R368): CACHE_CTL action 2 cleans and invalidates every instance of the named cache level. -/
  | cleanAndInvalidateAll (level : Nat)
  /-- INVALIDATE_ALL_DONE (R367): An invalidate-all completes, clearing busy and setting the level's clean flag. -/
  | invalidateAllDone
  /-- CACHE_MODE_WRITE (R367): A write to CACHE_MODE changes index modes or enables a level only when that level is clean, else sets bad_mode. -/
  | cacheModeWrite (val : W64)
  /-- BOOT_RESET_WARM (R509): BOOT_RESET action 1 starts a warm reset. -/
  | bootResetWarm
  /-- BOOT_RESET_COLD (R509): BOOT_RESET action 2 starts a cold reset. -/
  | bootResetCold
  /-- LINK_RESET (R509): Writing FAB_LINK_CFG enable 0 then 1 resets one link, losing its flits in flight. -/
  | linkReset (n : Nat)
  /-- NOP (R103): NOP completes with SUCCESS and the furrow in which it started. -/
  | nop (q : Nat)
  /-- FLUSH (R113): FLUSH flushes waiting commands of a queue, partition or package and suspends or completes their started operations. -/
  | flush (q : Nat)
  /-- SUSPEND (R99): SUSPEND moves a running long operation toward SUSPENDED at its next safe point. -/
  | suspend (q : Nat)
  /-- RESUME (R99): RESUME returns a suspended operation to RUNNING at the next furrow boundary or withdraws a pending suspension. -/
  | resume (q : Nat)
  /-- CANCEL (R99): CANCEL moves a long operation to CANCELLING, committing nothing. -/
  | cancel (q : Nat)
  /-- QUERY_HANDLE (R103): QUERY_HANDLE returns the state, partition, creating opcode and last-change furrow of a handle. -/
  | queryHandle (q : Nat)
  /-- TIME_SET (R104): TIME_SET supplies the PTP time of the next PPS_IN edge as an offset measurement. -/
  | timeSet (q : Nat)
  /-- TIME_SET_TIMEOUT (R104): A TIME_SET whose PPS_IN edge does not arrive within 1.5 s completes with INTK_BAD_PARAM. -/
  | timeSetTimeout
  /-- FURROW_SET (R105): FURROW_SET writes furrow length and epoch together and sets epoch_set, or clears epoch_set. -/
  | furrowSet (q : Nat)
  /-- BARRIER (R106): BARRIER posts this member's arrival for a run of a barrier collective. -/
  | barrier (q : Nat)
  /-- BARRIER_ARRIVAL (R106): A barrier arrival message from a member is recorded once per run. -/
  | barrierArrival (cs rank run furrow : Nat)
  /-- PART_CREATE (R107): PART_CREATE writes TILE_PART for a partition and clears its tiles to IDLE. -/
  | partCreate (q : Nat)
  /-- PART_RESET (R108): PART_RESET at its furrow cancels the partition's work, halts its cores and starts clearing its tiles. -/
  | partReset (q : Nat)
  /-- PARTITION_CLEAR_DONE (R108): The clearing of a partition's tile state ends and the PART_RESET final record is written. -/
  | partitionClearDone (p : Nat)
  /-- PART_DELETE (R109): PART_DELETE removes an idle partition, clearing and gating its tiles and discarding its image. -/
  | partDelete (q : Nat)
  /-- MEM_COPY (R110): MEM_COPY copies a global range as Shuttle transfers of the partition. -/
  | memCopy (q : Nat)
  /-- MEM_FILL (R110): MEM_FILL writes an 8-byte pattern repeatedly over a global range. -/
  | memFill (q : Nat)
  /-- PROG_LOAD (R111): PROG_LOAD checks a program image and copies it to every tile of a partition and to retention copy B. -/
  | progLoad (q : Nat)
  /-- PROG_RUN (R112): PROG_RUN starts every tile of a partition at the image's entry index. -/
  | progRun (q : Nat)
  /-- TRAIN_STEP (R112): TRAIN_STEP runs as PROG_RUN after checking the step image it follows. -/
  | trainStep (q : Nat)
  /-- PROGRAM_HALTED (R131): A tile that executed HALT ends its program once every queue is empty; the final record follows when all tiles halt. -/
  | programHalted (t : Nat)
  /-- SOLVE_BATCH (R265): SOLVE_BATCH starts a batch of Q64 linear solves described by a 72-byte descriptor. -/
  | solveBatch (q : Nat)
  /-- PROBLEM_STOP (R283): A Thresher problem reaches its outcome and its solution and status word go to scratch. -/
  | problemStop (h i : Nat)
  /-- COLL_SETUP (R414): COLL_SETUP checks a collective descriptor and sends its summary to rank 0. -/
  | collSetup (q : Nat)
  /-- SETUP_SUMMARY (R416): Rank 0 receives a member's set-up summary and compares it. -/
  | setupSummary (cs rank : Nat) (sum : Summary)
  /-- SETUP_VERDICT (R416): A member receives rank 0's verdict and starts or refuses the collective. -/
  | setupVerdict (cs : Nat) (status : BitVec 16) (detail : W64)
  /-- SUMMARY_TIMEOUT (R416): A summary missing 100 ms after the first refuses the set-up with FAB_POISON. -/
  | summaryTimeout (cs : Nat)
  /-- COLL_STEP (R421): COLL_STEP schedules one run of a collective from its at_furrow. -/
  | collStep (q : Nat)
  /-- DONE_NOTICE (R422): A member receives another member's done notice for a step. -/
  | doneNotice (cs rank run step : Nat)
  /-- SLIP (R422): A member receives SLIP(k) naming the lowest late rank. -/
  | slip (cs rank run step : Nat)
  /-- READY_WORD_REPORT (R427): The HBM controller reports a write to a ready word and the engine sends the newly ready chunks. -/
  | readyWordReport (cs slice : Nat) (val : W64)
  /-- COLL_TEARDOWN (R426): COLL_TEARDOWN ends any run and releases the collective, writing both final records. -/
  | collTeardown (q : Nat)
  /-- SNAPSHOT (R450): SNAPSHOT at its furrow captures a partition's step image into a slot. -/
  | snapshot (q : Nat)
  /-- SNAPSHOT_CAPTURE_DONE (R446): The local capture of a step image completes and mirroring and any host copy begin. -/
  | snapshotCaptureDone (h : Nat)
  /-- HOST_COPY_DONE (R451): The DMA of an image to host memory completes. -/
  | hostCopyDone (h : Nat)
  /-- RESTORE (R461): RESTORE at its furrow rolls a partition back and copies an image into its regions and state. -/
  | restore (q : Nat)
  /-- MIRROR_CFG (R453): MIRROR_CFG reserves a mirror area for the buddy's images. -/
  | mirrorCfg (q : Nat)
  /-- MIRROR_DELTA (R457): MIRROR_DELTA from the partner resynchronises the sealed image a buddy holds for a partition. -/
  | mirrorDelta (q : Nat)
  /-- TAKEOVER (R459): TAKEOVER makes a spare rebuild a lost package's partitions from the buddy's images and journal. -/
  | takeover (q : Nat)
  /-- TAKEOVER_TIMEOUT (R458): A spare that does not answer TAKEOVER within 100 ms is passed over for the next entry. -/
  | takeoverTimeout
  /-- CAP_SET (R492): CAP_SET sets the average-power cap and window and resets the window history. -/
  | capSet (q : Nat)
  /-- PHASE_TABLE (R502): PHASE_TABLE replaces a partition's power phase table. -/
  | phaseTable (q : Nat)
  /-- FW_STAGE (R518): FW_STAGE writes, copies, verifies and loads a firmware image into the standby pair. -/
  | fwStage (q : Nat)
  /-- FW_ACTIVATE (R519): FW_ACTIVATE switches to the staged firmware at a quiescent furrow. -/
  | fwActivate (q : Nat)
  /-- HEALTH_READ (R114): HEALTH_READ writes a 256-byte health record to a given address. -/
  | healthRead (q : Nat)
  /-- ERRLOG_READ (R484): ERRLOG_READ writes a range of error records to host memory. -/
  | errlogRead (q : Nat)
  /-- REPAIR (R485): REPAIR retires a tile or pseudo-channel, moves a lane, switches cache mode or fails over the steward pair. -/
  | repair (q : Nat)
  /-- DET_SET (R430): DET_SET sets or clears global_det under R36. -/
  | detSet (q : Nat)
  /-- DIGEST_READ (R442): DIGEST_READ writes the 192-byte digest record of a handle. -/
  | digestRead (q : Nat)
  /-- REMOTE_OP (R399): REMOTE_OP performs one fabric operation for the host. -/
  | remoteOp (q : Nat)
  /-- IMAGE_RELAY (R520): IMAGE_RELAY has rank 0 read an image from host and relay it by burst writes to the chassis members. -/
  | imageRelay (q : Nat)
  /-- RELAY_TIMEOUT (R520): A member whose relay chunks stop for 2 ms ends IMAGE_RELAY with FAB_POISON. -/
  | relayTimeout (h : Nat)
  /-- DEBUG_HALT (R115): DEBUG_HALT halts or releases a partition's tiles and cores at the next furrow. -/
  | debugHalt (q : Nat)
  /-- SCAN (R116): SCAN runs the self-test of an unused tile and writes a result record. -/
  | scan (q : Nat)
  /-- SCAN_DONE (R116): The tile self-test of SCAN finishes and the result record is written. -/
  | scanDone (q : Nat) (pass : Bool) (fails : BitVec 16) (row : W64)
  /-- ANCHOR_CONFIRM (R87): The buddy's confirmation that a journal entry is stored anchors it and advances anchored_through. -/
  | anchorConfirm (q seq : Nat) (retire : Bool)
  /-- RECEIPT_WRITE (R90): A receipt carrying the latest anchored_through is written to the receipt ring, at most once per queue per microsecond. -/
  | receiptWrite (q : Nat)
  /-- MSIX_HOLD_EXPIRY (R95): At the end of msix_hold_ns the queue's MSI-X vector is raised for the records written. -/
  | msixHoldExpiry (q : Nat)
  /-- JOURNAL_ENTRY (R455): The buddy receives a mirrored journal entry, op 0x30, stores it and confirms. -/
  | journalEntry (q seq : Nat) (pkt : BitVec 512)
  /-- RETIRE_MARK (R455): The buddy receives a retire mark, op 0x31. -/
  | retireMark (q seq : Nat)
  /-- HEARTBEAT_SEND (R455): Every 100 µs the package sends a heartbeat to its buddy. -/
  | heartbeatSend
  /-- HEARTBEAT (R456): The buddy receives a heartbeat, op 0x32, with or without the warm-reset notice. -/
  | heartbeat (notice : Bool)
  /-- BUDDY_LOSS_DECLARE (R456): When loss_confirm_us or warm_grace_ms expires, the buddy declares its partner lost and sends TAKEOVER. -/
  | buddyLossDeclare
  /-- IMAGE_CHUNK (R454): The buddy receives an image chunk, op 0x33, into its log. -/
  | imageChunk (p idx : Nat) (data : BitVec 32768)
  /-- SEAL (R454): The buddy receives a seal, op 0x34, checks the count and starts copying the log into the copy area. -/
  | seal (p image count : Nat) (digest : BitVec 256)
  /-- SEAL_ANSWER (R454): The partner receives the buddy's answer that an image is sealed. -/
  | sealAnswer (p image : Nat)
  /-- TAKEOVER_CHUNK (R455): The spare receives a takeover chunk, op 0x35. -/
  | takeoverChunk (p idx : Nat) (data : BitVec 32768)
  /-- JOURNAL_TRANSFER (R459): The spare receives the lost package's journal, op 0x36, and applies R120. -/
  | journalTransfer (anchored : List (Nat × Nat)) (entries : List JXfer)
  /-- FURROW_BOUNDARY (R72): At the start of each furrow the package runs that furrow's scheduled events in fixed order. -/
  | furrowBoundary
  /-- BALER_RELEASE (R174): The Baler releases a batch on reaching batch_max rows or at its release furrow. -/
  | balerRelease (t : Nat)
  /-- BALER_ROW_ARRIVAL (R173): A Baler-append row arrives at a tile and joins the unassigned set or is held. -/
  | balerRowArrival (t : Nat) (row : BitVec 1024) (tag : W64)
  /-- BEACON_SEND (R49): Every 16,384 ns each trained link sends a beacon flit. -/
  | beaconSend
  /-- BEACON (R50): A received beacon flit gives a delay and offset sample and root-election data. -/
  | beacon (n : Nat) (msg : BeaconMsg)
  /-- PTP_SYNC (R47): A PTP Sync message is timestamped and used as a sample. -/
  | ptpSync (port : Nat) (t1 t2 : Int)
  /-- PTP_ANNOUNCE (R46): A PTP Announce message refreshes the port's source. -/
  | ptpAnnounce (port : Nat)
  /-- PTP_DELAY_REQ (R47): At its interval the port sends a Delay_Req. -/
  | ptpDelayReq (port : Nat)
  /-- PTP_DELAY_RESP (R47): A Delay_Resp completes the delay measurement. -/
  | ptpDelayResp (port : Nat) (t4 : Int)
  /-- PEER_DELAY_MESSAGE (R48): A received peer-delay message is discarded and counted. -/
  | peerDelayMessage (port : Nat)
  /-- PPS_IN_EDGE (R538): A PPS_IN rising edge is timestamped and, when usable, assigned a second and used as a sample. -/
  | ppsInEdge (ptpTime : Option Int)
  /-- SOURCE_LOSS (R46): A time source is declared lost on missed beacons, announce timeout or 1.5 s without PPS edge. -/
  | sourceLoss (src : Nat)
  /-- HOLDOVER_LIMIT (R43): HOLDOVER beyond holdover_limit_s turns the quality to FREE. -/
  | holdoverLimit
  /-- SLEW_COMPLETE (R54): A slew finishes removing its offset and slew_active clears. -/
  | slewComplete
  /-- PPS_OUT_PULSE (R61): PPS_OUT rises when the counter crosses a whole second. -/
  | ppsOutPulse
  /-- PPS_OUT_PULSE_END (R61): PPS_OUT falls after width_ns. -/
  | ppsOutPulseEnd
  /-- BUNDLE_ISSUE (R129): The control core issues one bundle, executing its S slot and queuing its M, V and X slots. -/
  | bundleIssue (t : Nat)
  /-- FWAIT_RELEASE (R139): An FWAIT releases at the furrow edge, or late with furrow_late set. -/
  | fwaitRelease (t : Nat)
  /-- SAFEPOINT_SAVE (R140): Once queues drain at a chosen safe point the tile tests liveness and saves its state to the save area. -/
  | safepointSave (t : Nat)
  /-- SYNC (R132): SYNC completes when every earlier instruction of its engine has completed. -/
  | sync (t : Nat) (eng : Engine)
  /-- ENGINE_COMPLETE (R134): An M, V or X instruction completes and its post token is incremented. -/
  | engineComplete (t : Nat) (eng : Engine)
  /-- BAYLD (R159): BAYLD copies a weight block and its scales into a bay bank. -/
  | bayld (t : Nat)
  /-- MMUL (R154): MMUL streams activation rows through the arrays against the bay block into an accumulator bank. -/
  | mmul (t : Nat)
  /-- MMULT (R160): MMULT multiplies by the transposed bay block. -/
  | mmult (t : Nat)
  /-- CONV (R167): CONV computes one filter tap for one channel block of an implicit convolution. -/
  | conv (t : Nat)
  /-- LIMB (R168): LIMB performs exact limb-plane product passes into diagonal banks. -/
  | limb (t : Nat)
  /-- DRAIN (R163): DRAIN writes an accumulator bank to its destination or the combiner. -/
  | drain (t : Nat)
  /-- FLOAT_ARITHMETIC (R226): A V-slot float arithmetic instruction operates element-wise with RNE. -/
  | floatArithmetic (t : Nat)
  /-- INTEGER_ARITHMETIC (R226): A V-slot integer arithmetic instruction operates element-wise. -/
  | integerArithmetic (t : Nat)
  /-- V_COMPARE (R225): A V-slot compare writes a mask register. -/
  | vCompare (t : Nat)
  /-- MASK_LOGIC (R226): A V-slot mask logic instruction combines or sets mask registers. -/
  | maskLogic (t : Nat)
  /-- REDUCE (R231): A V-slot reduce combines rows or columns in fixed tree order. -/
  | reduce (t : Nat)
  /-- V_CONVERT (R235): A V-slot convert changes format of a span of elements, optionally with group quantisation. -/
  | vConvert (t : Nat)
  /-- SPLIT (R240): Combine split turns FP64 elements into aligned limb planes. -/
  | split (t : Nat)
  /-- FINISH (R241): Combine finish rounds 128-bit combiner sums into Q64 or FP64 results. -/
  | finish (t : Nat)
  /-- V_MOVE (R226): A V-slot move copies, transposes or selects. -/
  | vMove (t : Nat)
  /-- VSET (R224): VSET replaces the vector mode from a scalar register. -/
  | vset (t : Nat)
  /-- VCTL (R226): VCTL sets a Q64 block exponent or clears flag-word bits. -/
  | vctl (t : Nat)
  /-- MOVE (R249): Shuttle MOVE copies a strided block between tile store, registers, global memory or a Baler. -/
  | move (t : Nat)
  /-- GATHER (R255): Shuttle GATHER reads slices selected by an index tensor. -/
  | gather (t : Nat)
  /-- SCATTER (R257): Shuttle SCATTER writes slices by index, optionally accumulating. -/
  | scatter (t : Nat)
  /-- TEDDER (R219): Shuttle TEDDER loads blocks through the Hadamard rotation and smoothing. -/
  | tedder (t : Nat)
  /-- TOKEN_DEADLOCK (R138): 2^stall_log2 tclk without progress raises TOKEN_DEADLOCK. -/
  | tokenDeadlock (t : Nat)
  /-- TILE_EXCEPTION_ENTRY (R144): After started instructions finish or 256 tclk pass, the tile enters EXCEPTION and the operation ends with TILE_EXCEPTION. -/
  | tileExceptionEntry (t : Nat)
  /-- ENTER (R316): ENTER selects the next register window, waiting for or trapping on a spill. -/
  | enter (c : Nat)
  /-- LEAVE (R316): LEAVE selects the previous window, waiting for or trapping on a fill. -/
  | leave (c : Nat)
  /-- LEAVE_J (R316): LEAVE.J returns through n7 and selects the previous window. -/
  | leaveJ (c : Nat)
  /-- FSPILL (R321): FSPILL spills every resident frame but the current one. -/
  | fspill (c : Nat)
  /-- SPILL (R318): The spill engine writes the oldest resident frame to the spill area. -/
  | spill (c : Nat)
  /-- FILL (R318): The spill engine reads a frame back from the spill area. -/
  | fill (c : Nat)
  /-- ADD (R338): ADD adds two registers with signed overflow flag. -/
  | add (c : Nat) (rd ra rb : BitVec 6) (w32 : Bool)
  /-- ADDU (R338): ADDU adds two registers unsigned. -/
  | addu (c : Nat) (rd ra rb : BitVec 6) (w32 : Bool)
  /-- SUB (R338): SUB subtracts with signed overflow flag. -/
  | sub (c : Nat) (rd ra rb : BitVec 6) (w32 : Bool)
  /-- SUBU (R338): SUBU subtracts unsigned. -/
  | subu (c : Nat) (rd ra rb : BitVec 6) (w32 : Bool)
  /-- AND (R338): AND forms bitwise and. -/
  | and (c : Nat) (rd ra rb : BitVec 6) (w32 : Bool)
  /-- OR (R338): OR forms bitwise or. -/
  | or (c : Nat) (rd ra rb : BitVec 6) (w32 : Bool)
  /-- XOR (R338): XOR forms bitwise exclusive or. -/
  | xor (c : Nat) (rd ra rb : BitVec 6) (w32 : Bool)
  /-- SLT (R338): SLT sets on signed less-than. -/
  | slt (c : Nat) (rd ra rb : BitVec 6) (w32 : Bool)
  /-- SLTU (R338): SLTU sets on unsigned less-than. -/
  | sltu (c : Nat) (rd ra rb : BitVec 6) (w32 : Bool)
  /-- SADD (R338): SADD adds with signed saturation. -/
  | sadd (c : Nat) (rd ra rb : BitVec 6) (w32 : Bool)
  /-- SSUB (R338): SSUB subtracts with signed saturation. -/
  | ssub (c : Nat) (rd ra rb : BitVec 6) (w32 : Bool)
  /-- SADDU (R338): SADDU adds with unsigned saturation. -/
  | saddu (c : Nat) (rd ra rb : BitVec 6) (w32 : Bool)
  /-- SSUBU (R338): SSUBU subtracts with unsigned saturation. -/
  | ssubu (c : Nat) (rd ra rb : BitVec 6) (w32 : Bool)
  /-- NEG (R199): NEG negates. -/
  | neg (c : Nat) (rd ra rb : BitVec 6) (w32 : Bool)
  /-- ABS (R199): ABS takes the absolute value. -/
  | abs (c : Nat) (rd ra rb : BitVec 6) (w32 : Bool)
  /-- CNEG (R201): CNEG negates, trapping on MIN. -/
  | cneg (c : Nat) (rd ra rb : BitVec 6) (w32 : Bool)
  /-- CABS (R201): CABS takes the absolute value, trapping on MIN. -/
  | cabs (c : Nat) (rd ra rb : BitVec 6) (w32 : Bool)
  /-- MIN (R338): MIN takes the signed minimum. -/
  | min (c : Nat) (rd ra rb : BitVec 6) (w32 : Bool)
  /-- MAX (R338): MAX takes the signed maximum. -/
  | max (c : Nat) (rd ra rb : BitVec 6) (w32 : Bool)
  /-- MINU (R338): MINU takes the unsigned minimum. -/
  | minu (c : Nat) (rd ra rb : BitVec 6) (w32 : Bool)
  /-- MAXU (R338): MAXU takes the unsigned maximum. -/
  | maxu (c : Nat) (rd ra rb : BitVec 6) (w32 : Bool)
  /-- SLL (R200): SLL shifts left logically. -/
  | sll (c : Nat) (rd ra rb : BitVec 6) (w32 : Bool)
  /-- SRL (R200): SRL shifts right logically. -/
  | srl (c : Nat) (rd ra rb : BitVec 6) (w32 : Bool)
  /-- SRA (R200): SRA shifts right arithmetically. -/
  | sra (c : Nat) (rd ra rb : BitVec 6) (w32 : Bool)
  /-- ROL (R200): ROL rotates left. -/
  | rol (c : Nat) (rd ra rb : BitVec 6) (w32 : Bool)
  /-- ROR (R200): ROR rotates right. -/
  | ror (c : Nat) (rd ra rb : BitVec 6) (w32 : Bool)
  /-- MUL (R199): MUL forms the low product. -/
  | mul (c : Nat) (rd ra rb : BitVec 6) (w32 : Bool)
  /-- MULH (R338): MULH forms the signed high product. -/
  | mulh (c : Nat) (rd ra rb : BitVec 6) (w32 : Bool)
  /-- MULHU (R338): MULHU forms the unsigned high product. -/
  | mulhu (c : Nat) (rd ra rb : BitVec 6) (w32 : Bool)
  /-- DIV (R199): DIV divides signed. -/
  | div (c : Nat) (rd ra rb : BitVec 6) (w32 : Bool)
  /-- DIVU (R199): DIVU divides unsigned. -/
  | divu (c : Nat) (rd ra rb : BitVec 6) (w32 : Bool)
  /-- REM (R199): REM takes the signed remainder. -/
  | rem (c : Nat) (rd ra rb : BitVec 6) (w32 : Bool)
  /-- REMU (R199): REMU takes the unsigned remainder. -/
  | remu (c : Nat) (rd ra rb : BitVec 6) (w32 : Bool)
  /-- CDIV (R201): CDIV divides signed, trapping on zero or MIN/ -1. -/
  | cdiv (c : Nat) (rd ra rb : BitVec 6) (w32 : Bool)
  /-- CDIVU (R201): CDIVU divides unsigned, trapping on zero. -/
  | cdivu (c : Nat) (rd ra rb : BitVec 6) (w32 : Bool)
  /-- CREM (R201): CREM takes the signed remainder, trapping on zero. -/
  | crem (c : Nat) (rd ra rb : BitVec 6) (w32 : Bool)
  /-- CREMU (R201): CREMU takes the unsigned remainder, trapping on zero. -/
  | cremu (c : Nat) (rd ra rb : BitVec 6) (w32 : Bool)
  /-- ADDI (R338): ADDI adds an immediate and sets V on overflow. -/
  | addi (c : Nat) (rd ra : BitVec 6) (imm : BitVec 14)
  /-- ANDI (R338): ANDI ands an immediate. -/
  | andi (c : Nat) (rd ra : BitVec 6) (imm : BitVec 14)
  /-- ORI (R338): ORI ors an immediate. -/
  | ori (c : Nat) (rd ra : BitVec 6) (imm : BitVec 14)
  /-- XORI (R338): XORI xors an immediate. -/
  | xori (c : Nat) (rd ra : BitVec 6) (imm : BitVec 14)
  /-- LUI (R338): LUI loads an upper immediate. -/
  | lui (c : Nat) (rd : BitVec 6) (imm : BitVec 20)
  /-- AUIPC (R338): AUIPC adds an upper immediate to PC. -/
  | auipc (c : Nat) (rd : BitVec 6) (imm : BitVec 20)
  /-- LB (R338): LB loads a signed byte. -/
  | lb (c : Nat) (rd ra : BitVec 6) (off : BitVec 11)
  /-- LBU (R338): LBU loads an unsigned byte. -/
  | lbu (c : Nat) (rd ra : BitVec 6) (off : BitVec 11)
  /-- LH (R338): LH loads a signed halfword. -/
  | lh (c : Nat) (rd ra : BitVec 6) (off : BitVec 11)
  /-- LHU (R338): LHU loads an unsigned halfword. -/
  | lhu (c : Nat) (rd ra : BitVec 6) (off : BitVec 11)
  /-- LW (R338): LW loads a signed word. -/
  | lw (c : Nat) (rd ra : BitVec 6) (off : BitVec 11)
  /-- LWU (R338): LWU loads an unsigned word. -/
  | lwu (c : Nat) (rd ra : BitVec 6) (off : BitVec 11)
  /-- LD (R338): LD loads a doubleword. -/
  | ld (c : Nat) (rd ra : BitVec 6) (off : BitVec 11)
  /-- LD_AQ (R334): LD.AQ loads with acquire ordering. -/
  | ldAq (c : Nat) (rd ra : BitVec 6) (off : BitVec 11)
  /-- SB (R338): SB stores a byte. -/
  | sb (c : Nat) (rd ra : BitVec 6) (off : BitVec 11)
  /-- SH (R338): SH stores a halfword. -/
  | sh (c : Nat) (rd ra : BitVec 6) (off : BitVec 11)
  /-- SW (R338): SW stores a word. -/
  | sw (c : Nat) (rd ra : BitVec 6) (off : BitVec 11)
  /-- SD (R338): SD stores a doubleword. -/
  | sd (c : Nat) (rd ra : BitVec 6) (off : BitVec 11)
  /-- SW_RL (R334): SW.RL stores a word with release ordering. -/
  | swRl (c : Nat) (rd ra : BitVec 6) (off : BitVec 11)
  /-- SD_RL (R334): SD.RL stores a doubleword with release ordering. -/
  | sdRl (c : Nat) (rd ra : BitVec 6) (off : BitVec 11)
  /-- ATOMIC (R338): An atomic performs add, min, max, swap or CAS with optional acquire and release. -/
  | atomic (c : Nat) (rd ra rb : BitVec 6) (fn : BitVec 8)
  /-- FENCE_ACQ (R334): FENCE.ACQ orders earlier loads before later accesses. -/
  | fenceAcq (c : Nat)
  /-- FENCE_REL (R334): FENCE.REL orders earlier accesses before later stores. -/
  | fenceRel (c : Nat)
  /-- FENCE_FULL (R334): FENCE.FULL orders all accesses and waits for remote acknowledgements. -/
  | fenceFull (c : Nat)
  /-- TLBINV (R333): TLBINV invalidates cached translations by address and ASID or all. -/
  | tlbinv (c : Nat) (ra rb : BitVec 6)
  /-- BRANCH (R338): A conditional branch compares two registers and jumps. -/
  | branch (c : Nat) (ra rb : BitVec 6) (cond : BitVec 3) (off : BitVec 11)
  /-- CALL (R338): CALL jumps and saves the return address in g15. -/
  | call (c : Nat) (off : BitVec 26)
  /-- JMPL (R338): JMPL jumps to register plus offset and links. -/
  | jmpl (c : Nat) (rd ra : BitVec 6) (imm : BitVec 14)
  /-- SYSCALL (R327): SYSCALL traps to the supervisor with a code. -/
  | syscall (c : Nat) (code : BitVec 12)
  /-- BRK (R325): BRK raises the BREAK trap. -/
  | brk (c : Nat)
  /-- XRET (R328): XRET restores state from XSTATE and returns to XPC. -/
  | xret (c : Nat)
  /-- MFSR (R323): MFSR reads a system register. -/
  | mfsr (c : Nat) (rd : BitVec 6) (sr : BitVec 12)
  /-- MTSR (R323): MTSR writes a system register, including ICSEND and spill registers. -/
  | mtsr (c : Nat) (rs : BitVec 6) (sr : BitVec 12)
  /-- WFI (R338): WFI waits until an interrupt is pending. -/
  | wfi (c : Nat)
  /-- SCALAR_FP (R338): A scalar FP instruction computes add, sub, mul, div, sqrt, max, min, abs or neg. -/
  | scalarFp (c : Nat) (fd fa fb : BitVec 6) (fn : BitVec 8)
  /-- FUSED_MULTIPLY_ADD (R338): A fused multiply-add rounds once. -/
  | fusedMultiplyAdd (c : Nat) (fd fa fb fc : BitVec 6) (fp32 neg : Bool)
  /-- CONVERT (R338): A scalar convert changes format with its own rounding code. -/
  | convert (c : Nat) (rd ra : BitVec 6) (src dst : BitVec 4) (rc : BitVec 3) (wrap : Bool) (low : BitVec 2)
  /-- FP_COMPARE (R197): An FP compare writes a quiet comparison result. -/
  | fpCompare (c : Nat) (rd fa fb : BitVec 6) (fn : BitVec 8)
  /-- FURROW_TIMER (R325): FURROW reaching FCMP makes the furrow-timer interrupt pending. -/
  | furrowTimer (c : Nat)
  /-- INTERRUPT_ENTRY (R326): A pending enabled interrupt is taken at an instruction boundary. -/
  | interruptEntry (c : Nat)
  /-- DOUBLE_TRAP_MONITOR (R330): The steward monitor reads the shadows, writes an error record and raises CORE_HALTED. -/
  | doubleTrapMonitor (c : Nat)
  /-- CLEAN_VA (R380): CLEAN.VA writes dirty copies of a line to the system cache. -/
  | cleanVa (c : Nat) (ra : BitVec 6)
  /-- INV_VA (R380): INV.VA discards all copies of a line. -/
  | invVa (c : Nat) (ra : BitVec 6)
  /-- CLINV_VA (R380): CLINV.VA cleans then discards all copies. -/
  | clinvVa (c : Nat) (ra : BitVec 6)
  /-- ZERO_VA (R380): ZERO.VA takes ownership without fetch and allocates a zero line. -/
  | zeroVa (c : Nat) (ra : BitVec 6)
  /-- INVZERO_VA (R380): INVZERO.VA discards copies and writes a zero line to memory. -/
  | invzeroVa (c : Nat) (ra : BitVec 6)
  /-- CLEAN_VA_MEM (R380): CLEAN.VA.MEM cleans a line through to HBM. -/
  | cleanVaMem (c : Nat) (ra : BitVec 6)
  /-- CLINV_VA_MEM (R380): CLINV.VA.MEM cleans to HBM and discards all copies. -/
  | clinvVaMem (c : Nat) (ra : BitVec 6)
  /-- WIN (R384): WIN performs a release or acquire of a cache window. -/
  | win (c : Nat) (ra rb : BitVec 6)
  /-- CLEAN_SW (R380): CLEAN.SW cleans one cache entry by set and way. -/
  | cleanSw (c : Nat) (ra : BitVec 6)
  /-- INV_SW (R380): INV.SW invalidates one cache entry by set and way. -/
  | invSw (c : Nat) (ra : BitVec 6)
  /-- CLINV_SW (R380): CLINV.SW cleans and invalidates one entry by set and way. -/
  | clinvSw (c : Nat) (ra : BitVec 6)
  /-- VCFG (R344): VCFG sets element width, group and granted vector length. -/
  | vcfg (c : Nat) (rd ra : BitVec 6) (wcode glog2 : BitVec 2) (low : BitVec 10)
  /-- TWILL_INTEGER (R349): A Twill integer instruction operates on the active lanes. -/
  | twillInteger (c : Nat) (f : VRFields)
  /-- TWILL_FP (R349): A Twill FP instruction operates on the active lanes. -/
  | twillFp (c : Nat) (f : VRFields)
  /-- TWILL_COMPARE (R348): A Twill compare writes a mask register. -/
  | twillCompare (c : Nat) (f : VRFields)
  /-- WMUL (R350): WMUL forms widened signed products. -/
  | wmul (c : Nat) (f : VRFields)
  /-- WMULU (R350): WMULU forms widened unsigned products. -/
  | wmulu (c : Nat) (f : VRFields)
  /-- WMACC (R350): WMACC accumulates widened signed products. -/
  | wmacc (c : Nat) (f : VRFields)
  /-- WMACCU (R350): WMACCU accumulates widened unsigned products. -/
  | wmaccu (c : Nat) (f : VRFields)
  /-- DOT4 (R351): DOT4 adds four INT8 products into an INT32 lane. -/
  | dot4 (c : Nat) (f : VRFields)
  /-- DOT4U (R351): DOT4U adds four UINT8 products into an INT32 lane. -/
  | dot4u (c : Nat) (f : VRFields)
  /-- DOT2 (R351): DOT2 adds two BF16 products into an FP32 lane with one rounding. -/
  | dot2 (c : Nat) (f : VRFields)
  /-- TWILL_CONVERT (R352): A Twill convert narrows or widens element formats. -/
  | twillConvert (c : Nat) (f : VRFields)
  /-- VLD (R358): VLD loads elements, with first-fault behaviour when ff is set. -/
  | vld (c : Nat) (f : VMFields)
  /-- VST (R357): VST stores elements after translating all of them. -/
  | vst (c : Nat) (f : VMFields)
  /-- VGATHER (R355): VGATHER loads elements by index vector. -/
  | vgather (c : Nat) (f : VMFields)
  /-- VSCATTER (R357): VSCATTER stores elements by index vector. -/
  | vscatter (c : Nat) (f : VMFields)
  /-- TWILL_MOVE (R348): A Twill move copies, broadcasts or transfers between vectors, masks, ff and integer registers. -/
  | twillMove (c : Nat) (f : VRFields)
  /-- TWILL_REDUCE (R353): A Twill reduce combines enabled elements in ascending order. -/
  | twillReduce (c : Nat) (f : VRFields)
  /-- READ_SHARED (R374): A read-shared request is served by the line's home slice. -/
  | readShared (req line : Nat)
  /-- READ_UNIQUE (R374): A read-unique request is served by the home, invalidating other holders. -/
  | readUnique (req line : Nat)
  /-- UPGRADE (R379): An upgrade request invalidates other holders or is treated as read unique. -/
  | upgrade (req line : Nat)
  /-- CLEAN_EVICTION_NOTICE (R371): A clean eviction notice is accepted or declined by the home. -/
  | cleanEvictionNotice (holder line : Nat) (data : BitVec 512)
  /-- WRITEBACK (R377): A writeback header reaches the home, which keeps the holder owner until data lands. -/
  | writeback (holder line : Nat)
  /-- WRITEBACK_DATA (R377): Writeback data lands at the home and is forwarded to the first waiting request. -/
  | writebackData (holder line : Nat) (data : BitVec 512)
  /-- SNOOP (R378): A snoop reaches a cluster and is answered from a cache or the evict-pending buffer. -/
  | snoop (cluster line : Nat) (inv : Bool)
  /-- EVICT_ACK (R372): The home acknowledges an eviction and the evict-pending entry frees. -/
  | evictAck (owner line : Nat)
  /-- REFILL_CHUNK (R369): A 16-byte refill chunk arrives and waiting accesses restart. -/
  | refillChunk (c line chunk : Nat) (data : BitVec 128)
  /-- HOST_CXL_MEM (R382): A host CXL.mem read or write enters the home as requester 98. -/
  | hostCxlMem (wr cached : Bool) (line : Nat) (data : BitVec 512)
  /-- SNPDATA (R383): A host SnpData snoop is answered after snooping internal holders. -/
  | snpdata (line : Nat)
  /-- SNPINV (R383): A host SnpInv snoop is answered after snooping internal holders. -/
  | snpinv (line : Nat)
  /-- SNPCUR (R383): A host SnpCur snoop is answered after snooping internal holders. -/
  | snpcur (line : Nat)
  /-- HBM_READ (R297): A block read is judged by ECC, corrected and written back, or poisoned. -/
  | hbmRead (addr bad : Nat)
  /-- HBM_WRITE (R298): A block write stores data; a whole-block write clears poison, a partial one is discarded. -/
  | hbmWrite (addr : Nat) (data : List Byte)
  /-- NARROW_REQUEST (R302): A narrow read or write enters the coalescer or joins a pending block. -/
  | narrowRequest (wr : Bool) (addr size : Nat) (data : BitVec 256)
  /-- COALESCER_TIMEOUT (R302): After 64 domain-8 cycles the coalesced requests are performed as one block access. -/
  | coalescerTimeout (block : Nat)
  /-- SCRUB_READ (R299): The patrol scrub reads the next block and treats it under R297. -/
  | scrubRead (addr bad : Nat) (written : Bool)
  /-- HBM_TEMP_SAMPLE (R305): Every 1 ms a stack temperature sample sets the throttle step or trips. -/
  | hbmTempSample (stack temp : Nat)
  /-- MIGRATION_COPY (R310): Migration copies the next granule of a retired pseudo-channel. -/
  | migrationCopy (stack : Nat)
  /-- LINK_TRAINED (R387): Training of a link completes UP or REFUSED. -/
  | linkTrained (n : Nat) (rep : TrainReport)
  /-- LINK_TRAIN_RETRY (R387): A refused link retries training every 100 ms. -/
  | linkTrainRetry (n : Nat)
  /-- LANE_FAIL (R388): A lane losing lock or exceeding lane_ber_limit moves to the spare, or a second failure takes the link DOWN. -/
  | laneFail (n lane : Nat)
  /-- FLIT_RECEIVE (R390): A data flit is received, checked and unpacked, or discarded with a nack. -/
  | flitReceive (n : Nat) (flit : Flit)
  /-- NACK (R391): A received nack makes the sender resend from the named sequence. -/
  | nack (n seq : Nat)
  /-- LINK_DOWN (R392): 8 µs without an intact flit or 8 nacks take the link DOWN and re-issue its requests. -/
  | linkDown (n : Nat)
  /-- D2D_MODULE_FAIL (R22): A die-to-die module failing 8 replays is disabled and its connection continues narrower. -/
  | d2dModuleFail (conn module : Nat)
  /-- FABRIC_READ (R396): A remote read, op 0x01, is performed at the target and answered. -/
  | fabricRead (hdr : FabHdr) (data : BitVec 512)
  /-- FABRIC_WRITE (R406): A remote write, op 0x02, is checked in the completion cache, performed and answered. -/
  | fabricWrite (hdr : FabHdr) (data : BitVec 512)
  /-- BURST_WRITE (R394): A 4,096-byte burst write, op 0x03, is performed and answered. -/
  | burstWrite (hdr : FabHdr) (data : BitVec 32768)
  /-- INTEGER_ADD (R394): An integer add atomic, op 0x10, is performed in the atomic unit. -/
  | integerAdd (hdr : FabHdr) (data : BitVec 512)
  /-- SIGNED_MIN_MAX (R394): A signed min or max atomic is performed. -/
  | signedMinMax (hdr : FabHdr) (data : BitVec 512)
  /-- UNSIGNED_MIN_MAX (R394): An unsigned min or max atomic is performed. -/
  | unsignedMinMax (hdr : FabHdr) (data : BitVec 512)
  /-- SWAP (R394): A swap atomic is performed. -/
  | swap (hdr : FabHdr) (data : BitVec 512)
  /-- COMPARE_AND_SWAP (R394): A compare-and-swap writes when the old value matches bit for bit. -/
  | compareAndSwap (hdr : FabHdr) (data : BitVec 512)
  /-- FLOAT_ADD (R394): A float add atomic, op 0x18, is performed with RNE. -/
  | floatAdd (hdr : FabHdr) (data : BitVec 512)
  /-- FLOAT_MAXIMUM_MINIMUM (R394): A float maximum or minimum atomic is performed. -/
  | floatMaximumMinimum (hdr : FabHdr) (data : BitVec 512)
  /-- ORDERED_FLOAT_ADD (R397): An ordered float add, op 0x1C, is placed in the order buffer for the next furrow. -/
  | orderedFloatAdd (hdr : FabHdr) (data : BitVec 512)
  /-- COMMAND_PACKET (R398): A fabric command packet, op 0x20, is entered into a peer or buddy queue and answered. -/
  | commandPacket (n : Nat) (hdr : FabHdr) (pkt : BitVec 512)
  /-- COMMAND_ANSWER (R398): A command answer, op 0x21, reports accepted, retry or malformed to the sender. -/
  | commandAnswer (src slot gen : Nat) (answer : Nat)
  /-- FABRIC_RESPONSE (R405): A response reaches the issuer, frees its completion slot and completes the request. -/
  | fabricResponse (src slot gen : Nat) (tag : Nat) (status : BitVec 16) (data : BitVec 512)
  /-- REISSUE_TIMEOUT (R407): A request unanswered after resp_timeout_us is re-issued over the alternate path. -/
  | reissueTimeout (idx : Nat)
  /-- FAB_POISON_TIMEOUT (R409): A request unanswered 2 ms after first issue completes with FAB_POISON. -/
  | fabPoisonTimeout (idx : Nat)
  /-- SLOT_HOLD_EXPIRY (R409): A poisoned request's completion slot is freed 2 ms later with gen advanced. -/
  | slotHoldExpiry (dst slot : Nat)
  /-- DIGEST_CHUNK_HASH (R441): A digest engine hashes a 4 KiB chunk first read by the operation, releasing held writes. -/
  | digestChunkHash (p chunk : Nat)
  /-- TILE_FAULT (R471): An uncorrectable tile error stops the partition's operation, maps a spare and runs the operation again.
  `corrected`: the error was a corrected one of the tile store, which counts to a threshold first (R467). -/
  | tileFault (t : Nat) (corrected : Bool)
  /-- LOCKSTEP_INJECTION (R479): Every 1 ms the injector inverts one delayed output bit to test the comparator. -/
  | lockstepInjection (reported : Nat)
  /-- STEWARD_MISMATCH (R480): A lockstep mismatch or comparator fault retires the pair and the standby pair takes over. -/
  | stewardMismatch (outcome : Nat)
  /-- POWER_TICK (R494): Each 1 ms tick the controller computes tile grants and learned phase updates. -/
  | powerTick (m : PowerSample)
  /-- VR_ALERT (R503): VR_ALERT_N going low enters the floor state. -/
  | vrAlert
  /-- FLOOR_EXIT (R504): After VR_ALERT_N is high for 100 µs the floor state ends in steps. -/
  | floorExit
  /-- DIE_TEMP_SAMPLE (R505): Every 100 µs the hottest die sets the package thermal step. -/
  | dieTempSample (temp : Nat)
  /-- COLD_BOOT (R512): PERST_N rising with PWROK high runs the cold boot phases to boot_done. -/
  | coldBoot (rep : BootReport)
  /-- PWROK_LOW (R527): PWROK low stops all domains at once. -/
  | pwrokLow
  /-- WARM_RESET (R514): PERST_N low for 1 µs or more with boot_done runs the warm reset to boot_done. -/
  | warmReset
  /-- I3C_READ (R532): An I3C private write of an offset and read of 8 bytes returns an allowed register. -/
  | i3cRead (off : Nat)
  /-- I3C_WRITE (R532): An I3C private write of DEV_PKG_ADDR sets it subject to R35. -/
  | i3cWrite (off : Nat) (val : W64)
  /-- PWROK_RISE (R535): PWROK rising samples the BOARD_SLOT and PKG_SLOT straps and from then on makes VR_ALERT_N honoured. -/
  | pwrokRise (board pkg : Nat)
  /-- VR_ALERT_RELEASE (R504): VR_ALERT_N returning high clears alert and starts the 100 µs high time after which the floor state may end. -/
  | vrAlertRelease
  /-- RESTORE_COPY_DONE (R461): The copy of a RESTORE image into the partition's regions and state completes, chunks are marked and the partition's journaled commands may run. -/
  | restoreCopyDone (h : Nat)
  /-- FW_STAGE_DONE (R518): A FW_STAGE finishes writing, copying, verifying and loading the image, setting staged_valid and stage_done or failing with BOOT_BAD_SIGNATURE. -/
  | fwStageDone
  /-- SEAL_COPY_DONE (R454): At the buddy, the copy of the log into the copy area completes, the image is recorded as sealed and the answer is sent. -/
  | sealCopyDone (p : Nat)
  /-- MEM_COPY_FILL_DONE (R110): The last Shuttle transfer of a MEM_COPY or MEM_FILL is acknowledged and the final record with the bytes written is written. -/
  | memCopyFillDone (h : Nat)
  /-- COMMIT_PHASE_END (R284): The Thresher commit copy and tile clearing finish and the SOLVE_BATCH final record is written, releasing any CANCEL that waited for it. -/
  | commitPhaseEnd (h : Nat)
  /-- WINDOW_OPERATION_DONE (R384): A window release or acquire finishes its directory walk and writebacks, letting the run's first bundle issue or its final record be written. -/
  | windowOperationDone (n : Nat)
  /-- SHARE_WINDOW_END (R488): At the end of each 1 ms window the package judges whether each partition received its link_share and hbm_share and records breaches. -/
  | shareWindowEnd (obs : List ShareObs)
  /-- EXTERNAL_INTERRUPT (R325): A device interrupt routed to a user core makes cause 0x22 EXTERNAL pending. -/
  | externalInterrupt (c : Nat) (source : W64)
  /-- CXL_HOST_RESPONSE (R383): A host response to the package's CXL.cache request or back-invalidation snoop arrives at the home slice and completes the line transaction. -/
  | cxlHostResponse (line : Nat) (unique : Bool) (data : BitVec 512)
  /-- DMA_READ_COMPLETION (R540): Data or an error for a DMA read of host memory arrives, supplying parameters or image data or ending the command with INTK_PARAM_FAULT. -/
  | dmaReadCompletion (q : Nat) (ok : Bool) (data : List Byte)
  /-- DYNAMIC_ADDRESS_ASSIGNMENT (R532): An I3C dynamic address assignment gives the target port a new bus address. -/
  | dynamicAddressAssignment (addr : BitVec 7)
  deriving DecidableEq, Repr

end Sys2Proof
end

