-- ==== Sys2Proof/Config.lean ====
section
/-! DEFINITION. What an implementation of the GX4 fixes and the spec does not state: opaque constants, so that no proof can
see their value. Each is named in an entry of notes/assumptions. -/

namespace Sys2Proof.Config

/-- The stream of free values: what the spec leaves undefined or unstated, one fresh value for each number. -/
opaque freeValue : Nat → Nat

/-- The frequency correction that the discipline loop learns from an offset sample (R53), in units of 2^-16 ns per ns:
previous correction, offset in units of 2^-16 ns. The model clips it to R53's 100 ppm. -/
opaque learnRate : Int → Int → Int

/-- The guard of R70 in whole nanoseconds for PPS_IN (5) and for no source (0), whose accuracy R70 does not state. -/
opaque otherGuard : Nat → Nat

/-- Contents of the boot ROM (R27), which the spec does not list: a byte for each offset. -/
opaque romByte : Nat → BitVec 8

/-- The victim that pseudo-LRU (R364) chooses: level, instance, set, number of ways to choose among. The tree's form is
not stated. -/
opaque plruVictim : Nat → Nat → Nat → Nat → Nat

/-- Whether the ECDSA P-384 signature of a firmware image verifies against the fused key (R517), whose value the spec does
not give: the first 160 bytes of the image, little-endian, and a digest of the rest. -/
opaque signatureValid : Nat → Nat → Bool

/-- What the Thresher computes where the rules fix no sequence of roundings (QR, BiCGSTAB, GMRES): a function of the problem's
inputs alone (R270): alg, sizes, tau, certificate, matrix, right-hand sides, initial guess, tolerance, cap; and which of its results is
asked for. -/
opaque solver : List Nat → Nat → Nat

end Sys2Proof.Config
end

