-- ==== Sys2Proof/Machine/State.lean ====
section
/-! DEFINITION. The state of one Garuvar GX4 package as plain data: the control-window registers, the disciplined time, the
command intake and its journal, the tiles, the user cores, the caches and their directory, the stacked memory, the fabric,
the collectives, the solver batches, the images of the Granary, repair, power, boot and the pins; and the queue of commands
that wait. -/

namespace Sys2Proof.Machine

/-- Sparse data by number, in one canonical form: keys strictly rising, and no entry equal to the default that an unlisted
key reads as. -/
abbrev SMap (α : Type) := List (Nat × α)

/-- Memory: address and byte, unlisted addresses reading zero. -/
abbrev Mem := List Host.Cell

/-! ### Time, R39 to R74 -/

/-- One PTP port of R47: usable under R46, and the times of its last Sync and Delay_Req, in units of 2^-16 ns. -/
structure PtpPort where
  usable : Bool
  sync : Option (Int × Int)
  req : Option Int
  delay : Int
  deriving DecidableEq, Repr

/-- The counter, its discipline, and what waits for a PPS_IN edge. Times are in units of 2^-16 ns unless named ns. -/
structure TimeS where
  /-- nanoseconds of the board reference since reset: the undisciplined clock of R53, R67 -/
  refNs : Nat
  /-- the 64-bit nanosecond count of R39 -/
  ns : Nat
  /-- the 16-bit fraction of R39 -/
  frac : Nat
  /-- the learned frequency correction of R53 -/
  freqCorr : Int
  /-- consecutive samples within the lock threshold, R42 -/
  inBand : Nat
  /-- the offset that slew still has to remove, R54 -/
  slew : Int
  /-- a scheduled step, R58: the furrow at whose boundary it is applied, and k of R56 -/
  step : Option (Nat × Int)
  /-- the last PPS_IN edge that was assigned a time, R538: the assigned time and the counter at it, ns -/
  ppsAssigned : Option (Nat × Nat)
  /-- PPS_IN edges arrive, R46 -/
  ppsLive : Bool
  /-- accepted TIME_SETs that wait for their edge: queue, sequence, value, the furrow that must be over -/
  timeSet : List (Nat × Nat × W64 × Option Nat)
  ptp : SMap PtpPort
  /-- the last beacon received on each link -/
  nbr : SMap BeaconMsg
  /-- transmit time of the last beacon sent on each link, R49 -/
  beaconTx : SMap Int
  /-- this package is the elected time root, R45 -/
  isRoot : Bool
  /-- the package ID that the election names as root -/
  rootPkg : Nat
  /-- peer-delay messages discarded, R48 -/
  peerDelay : Nat
  /-- the counter when HOLDOVER began, R43 -/
  holdSince : Nat
  /-- the latest PPS event record: second, quality, R62 -/
  ppsEvent : Option (Nat × Nat)
  deriving DecidableEq, Repr

/-! ### Intake, R77 to R121 -/

/-- A journal entry's progress: accepted and not started; started and waiting for a DMA read (R540); checked and waiting for
its furrow (R69); started as a long operation or a command that waits for its end; final status reached. -/
inductive Stage where
  | waiting
  | fetching
  | scheduled
  | started
  | done
  deriving DecidableEq, Repr

/-- A status record of R92 before its phase is known. -/
structure Rec where
  status : BitVec 16
  queue : Nat
  port : Nat
  seq : Nat
  opcode : BitVec 16
  handle : BitVec 32
  detail : W64
  furrow : Nat
  quality : BitVec 2
  final : Bool
  restated : Bool
  deriving DecidableEq, Repr

/-- One journal entry that is not released, R91. -/
structure Entry where
  seq : Nat
  pkt : W512
  stage : Stage
  /-- the buddy confirmed the entry, R87 -/
  anchored : Bool
  /-- records of this command carry restated, R118 and R120 -/
  restated : Bool
  /-- handle of the long operation it started, 0 when none -/
  handle : BitVec 32
  /-- the blocks fetched so far under R540, in order -/
  data : List (List Byte)
  /-- the records written for it so far, which a warm reset writes again, R118 -/
  recs : List Rec
  deriving DecidableEq, Repr

/-- An intake queue. Its configuration is in INTK_Q_CFG; next_seq, anchored_through and occupancy have their home here. -/
structure Queue where
  nextSeq : Nat
  anch : Nat
  entries : List Entry
  /-- next completion-ring slot and its phase, R94, R543 -/
  cqPos : Nat
  cqPhase : Bool
  rrPos : Nat
  rrPhase : Bool
  /-- records that wait while the ring is full, R94 -/
  held : List Rec
  /-- anchored_through advanced and its receipt is not written: counter ns and quality then, R90 -/
  receipt : Option (Nat × Nat)
  /-- records written since the last MSI-X, R95 -/
  msixDue : Bool
  deriving DecidableEq, Repr

/-- The states of a long operation, R99. -/
inductive HState where
  | running
  | suspending
  | suspended
  | cancelling
  | done
  | cancelled
  deriving DecidableEq, Repr

/-- The chunk that a MEM_COPY or MEM_FILL works on, R110: bytes read so far by their offset in the chunk, fabric requests without
a response, whether they are writes, and whether an unpopulated address was touched. -/
structure MemJob where
  buf : Mem
  left : Nat
  writing : Bool
  unpop : Bool
  deriving DecidableEq, Repr

/-- A handle slot, R98, and the long operation that holds it. -/
structure HRec where
  gen : Nat
  part : Nat
  state : HState
  opcode : BitVec 16
  /-- furrow of its last change of state -/
  lastFurrow : Nat
  queue : Nat
  seq : Nat
  pkt : W512
  data : List (List Byte)
  startFurrow : Nat
  /-- the tiles that run it -/
  tiles : List Nat
  /-- k of R140 -/
  safeNo : Nat
  suspFurrow : Nat
  /-- a pending RESUME takes effect at this furrow, R99 -/
  resumeAt : Option Nat
  /-- destination chunks that hold final contents, R101 -/
  chunks : Nat
  /-- the end that a fault has fixed, taken at this furrow: status and detail, R144, R263 -/
  ending : Option (Nat × BitVec 16 × W64)
  /-- the operation is in its last phase: commit of SOLVE_BATCH, capture of SNAPSHOT complete, copy of RESTORE -/
  late : Bool
  /-- SNAPSHOT: sealed at the buddy; host copy complete -/
  sealDone : Bool
  hostDone : Bool
  restated : Bool
  /-- blocks of HBM that it has written, as they stood before, by block number: data and poison mark, R101 -/
  undo : SMap (W512 × Bool)
  job : MemJob
  deriving DecidableEq, Repr

/-- The control commands that may wait for an end, R99, R108, R113, R115, R116, R518. -/
inductive CtlKind where
  | suspend
  | resume
  | cancel
  | flush
  | partReset
  | partDelete
  | debugHalt
  | scan
  | stage
  deriving DecidableEq, Repr

/-- A control command that has started and has no final status. -/
structure Ctl where
  kind : CtlKind
  queue : Nat
  seq : Nat
  /-- handle, or partition -/
  subject : Nat
  /-- the operations whose end it waits for -/
  waits : List Nat
  /-- choice byte of FLUSH, byte 16 of DEBUG_HALT -/
  choice : Nat
  /-- commands flushed so far, or the furrow of effect -/
  count : Nat
  /-- the furrow at which it takes effect, when it waits for one -/
  furrow : Option Nat
  deriving DecidableEq, Repr

/-- What a pending furrow event is, R69: a power phase change of a partition, which no command carries, or a command. -/
inductive FKind where
  | phase (p ph : Nat)
  | cmd (q seq : Nat)
  deriving DecidableEq, Repr

/-- A pending furrow event and its row in R72. -/
structure FEvent where
  furrow : Nat
  row : Nat
  kind : FKind
  deriving DecidableEq, Repr

/-- An entry of the record of furrow events that took place, R59 and R74. -/
structure FRec where
  furrow : Nat
  row : Nat
  kind : FKind
  stepped : Bool
  quality : BitVec 2
  deriving DecidableEq, Repr

/-! ### Tiles, R124 to R263 -/

/-- The run state of a tile; GATED and RETIRED are flags beside it. -/
inductive TileRun where
  | idle
  | running
  | suspending
  | suspended
  | halted
  | exception
  deriving DecidableEq, Repr

/-- An entry of an engine queue, R129: the slot's word, its bundle, and the scalar registers it reads, as they stood at
issue (R130). -/
structure QEnt where
  word : W32
  bundle : Nat
  /-- number of its bundle in the order of issue -/
  ord : Nat
  x : W64
  y : W64
  /-- a convert that has started with stochastic rounding: sr_counter advances when it completes, R192 -/
  sr : Bool
  deriving DecidableEq, Repr

/-- A Shuttle instruction that waits for other packages: the bytes read so far, by local address of their package (R253), whether it
has moved its data and waits for acknowledgements only, and the stream posts that are due at its end. -/
structure XJob where
  ent : QEnt
  /-- the words of its layout record, which is read at the start (R248) -/
  lay : List Nat
  buf : Mem
  moved : Bool
  posts : Nat
  deriving DecidableEq, Repr

/-- A furrow wait, R139: none; the bundle is held for a target, which had passed before (or passes while the tile is
gated) when `late`; or the wait is over and the bundle may issue. -/
inductive FWait where
  | free
  | hold (target : Nat) (late : Bool)
  | go
  deriving DecidableEq, Repr

/-- The M engine of a tile: accumulators, weight bay, limb counters and the combiner. -/
structure Mx where
  /-- key bank * 8192 + row * 64 + column; row r of R154 is array r mod 2, row r div 2 -/
  acc : SMap W32
  /-- bay bytes, key bank * 16384 + offset: block, then its 256 scale bytes (R209) -/
  bay : Mem
  /-- products added into each diagonal bank, R169 -/
  limbCount : SMap Nat
  /-- the last LIMB was Q64, R238 -/
  combQ64 : Bool
  /-- rows whose next spill or drain replaces their sums, R239; key row -/
  combFresh : SMap Bool
  /-- key row * 64 + column -/
  comb : SMap (BitVec 128)
  combLive : Bool
  accSat : Bool
  accNonfinite : Bool
  spillCount : Nat
  accLive : BitVec 8
  bayValid : BitVec 2
  deriving DecidableEq, Repr

/-- The vector state of R223 but the combiner. -/
structure Vec where
  mode : BitVec 27
  flags : BitVec 8
  qe : SMap (BitVec 12)
  seed : W64
  sr : W64
  deriving DecidableEq, Repr

/-- A released batch, R172: its number and its slots in arrival order. -/
structure Batch where
  num : Nat
  slots : List Nat
  /-- rows already entered -/
  taken : Nat
  deriving DecidableEq, Repr

/-- The Baler of a tile; its rows, tags and batch records lie in the tile store (R172). -/
structure Baler where
  /-- occupied slots -/
  used : List Nat
  /-- unassigned rows in arrival order: slot and furrow of arrival -/
  waiting : List (Nat × Nat)
  /-- rows held at the mesh interface, R173 -/
  heldRows : List (BitVec 1024 × W64)
  /-- released batches that are not consumed, oldest first -/
  batches : List Batch
  /-- batches that are due and wait for a batch record, R176: their slots -/
  formed : List (List Nat)
  released : Nat
  fullStalls : Nat
  deriving DecidableEq, Repr

/-- The Shuttle's status of a tile. -/
structure Sh where
  poisonSeen : Bool
  unpopSeen : Bool
  realigned : Bool
  idxSkipped : Nat
  collHeld : Nat
  deriving DecidableEq, Repr

/-- What SAFEPT saves, R140. -/
structure Save where
  s : SMap W64
  treg : Mem
  mreg : SMap (BitVec 1024)
  tok : SMap Nat
  pc : Nat
  bias : Nat
  bay : Mem
  bayValid : BitVec 2
  bal : Baler
  vec : Vec
  deriving DecidableEq, Repr

/-- A Seposha tile. -/
structure Tile where
  run : TileRun
  retired : Bool
  /-- power-gated: outside every partition (R147), or without a grant in this furrow (R498) -/
  gated : Bool
  writeRefused : Bool
  furrowLate : Bool
  excMore : Bool
  safeptLast : Nat
  lateCount : Nat
  exc : W64
  pc : Nat
  bias : Nat
  /-- HALT was executed: no bundle issues any more, R131 -/
  stopped : Bool
  /-- an exception arose and EXCEPTION is not yet entered: its place in program order, and the TILE_EXC layout, R144 -/
  excPend : Option (Nat × W64)
  fwait : FWait
  /-- bundles issued since the program started -/
  issued : Nat
  /-- the safe point at which the tile waits for its queues to empty, R140 -/
  atSafe : Bool
  /-- halted by DEBUG_HALT, R115 -/
  debug : Bool
  bundles : SMap (BitVec 128)
  s : SMap W64
  tok : SMap Nat
  /-- tile registers as one 64 KiB space, R246 -/
  treg : Mem
  mreg : SMap (BitVec 1024)
  dsc : SMap W64
  store : Mem
  qm : List QEnt
  qv : List QEnt
  qx : List QEnt
  /-- started and not completed, oldest first -/
  em : List QEnt
  ev : List QEnt
  ex : List QEnt
  jobs : List XJob
  mx : Mx
  vec : Vec
  bal : Baler
  sh : Sh
  save : Option Save
  deriving DecidableEq, Repr

/-- A partition beside its registers: whether an image is loaded (its bytes lie in retention copy B, R111), its length, and
the furrow at which DEBUG_HALT stopped it. -/
structure Part where
  loaded : Bool
  imgLen : Nat
  debugAt : Option Nat
  /-- PART_RESET or PART_DELETE clears its tiles -/
  clearing : Bool
  deriving DecidableEq, Repr

/-! ### Cusojo cores, R313 to R360 -/

/-- The state of a user core; `frozen` is a double trap that the steward monitor has not yet taken up (R329, R330). -/
inductive CoreRun where
  | halted
  | running
  | frozen
  | doubleTrap
  | wfi
  deriving DecidableEq, Repr

/-- A cached translation, R333. -/
structure TlbEnt where
  asid : Nat
  vpn : Nat
  level : Nat
  leaf : W64
  deriving DecidableEq, Repr

/-- A Twill load whose remote elements are on their way: the elements that have arrived, those that ended with poison, and
how many are outstanding. -/
structure VJob where
  gather : Bool
  f : VMFields
  got : SMap W64
  bad : List Nat
  left : Nat
  deriving DecidableEq, Repr

/-- A user core and its thread. -/
structure Cpu where
  run : CoreRun
  /-- power-gated, R495 and R503; halted by DEBUG_HALT, R115 -/
  gated : Bool
  debug : Bool
  pc : W64
  g : SMap W64
  /-- file windows, key 16 * window + i: n0-n7 then q0-q7 -/
  win : SMap W64
  /-- trap window: p0-p7, n0-n7, q0-q7 -/
  trapw : SMap W64
  resident : Nat
  wsel : Nat
  xact : Bool
  tw : Bool
  ie : Bool
  priv : BitVec 2
  flags : BitVec 8
  fpctl : BitVec 3
  /-- refNs when the core started, for CYCLE -/
  startRef : Nat
  xpc : W64
  xstate : W64
  xcause : W64
  xval : W64
  xbase : W64
  ier : BitVec 5
  ip : BitVec 5
  /-- XVAL of each pending interrupt, by i of cause 0x20 + i -/
  ival : SMap W64
  fcmp : BitVec 48
  ptroot : W64
  spbase : W64
  splimit : W64
  spptr : W64
  hi : Nat
  lo : Nat
  vr : SMap W512
  km : SMap W512
  ff : W512
  vcfg : BitVec 14
  shadow : SMap W64
  tlb : List TlbEnt
  unpopSeen : Bool
  storeAbort : Bool
  haltFurrow : Nat
  /-- the core waits for the response to a remote access, R335 -/
  stalled : Bool
  /-- the virtual address and the instruction word of the access it waits for -/
  stallVa : W64
  stallWord : W32
  vjob : Option VJob
  deriving DecidableEq, Repr

/-! ### Caches and coherence, R361 to R385 -/

/-- The states of a held line, R373. -/
inductive Moesi where
  | m
  | o
  | e
  | s
  deriving DecidableEq, Repr

/-- A valid entry of a cache: which line, in which state, its data, the chunks that have arrived (R369), and whether it has
been hit since it was inserted (R371). -/
structure CLine where
  line : Nat
  st : Moesi
  data : W512
  chunks : BitVec 4
  hit : Bool
  deriving DecidableEq, Repr

/-- The states of the directory but U, which is the absence of an entry (R373). -/
inductive DirSt where
  | s
  | e
  | o
  deriving DecidableEq, Repr

/-- A request that waits at the home, R376, R377: requester, and whether it asks for ownership. -/
structure HomeReq where
  req : Nat
  unique : Bool
  /-- nanosecond of its arrival: requests of one nanosecond are ordered by R376 -/
  at_ : Nat
  deriving DecidableEq, Repr

/-- A directory entry: holders are clusters 0-11, steward pairs 12 and 13, the host 14; the owner stands first. -/
structure DirEnt where
  st : DirSt
  holders : List Nat
  /-- a writeback header has arrived and its data has not, R377 -/
  wb : Bool
  waiting : List HomeReq
  deriving DecidableEq, Repr

/-- A line of an evict-pending buffer, R372: the buffer's owner (L2 of core c: c; Gleaner of cluster k: 96 + k; L2 of steward
pair n: 108 + n). -/
structure Evict where
  owner : Nat
  line : Nat
  dirty : Bool
  data : W512
  /-- answered a snoop: given up, R378 -/
  gone : Bool
  /-- the home has taken the notice or the writeback data: its acknowledgement is on the way -/
  acked : Bool
  deriving DecidableEq, Repr

/-- The caches. The key of a line entry is level * 2^40 + instance * 2^24 + set * 2^8 + way. -/
structure CacheS where
  lines : SMap CLine
  dir : SMap DirEnt
  evict : List Evict
  /-- an invalidate-all in progress: level, and whether it cleans -/
  ctl : Option (Nat × Bool)
  /-- window operations in progress, R384: window, acquire -/
  wins : List (Nat × Bool)
  /-- requests that wait for the host's answer, with their line (R382, R383) -/
  cxlWait : List (Nat × HomeReq)
  deriving DecidableEq, Repr

/-! ### Stacked memory, R292 to R312 -/

/-- A request in the coalescer, R302; the data of a read is what it meets at its arrival (R295). -/
structure Narrow where
  wr : Bool
  /-- a read that met poison -/
  bad : Bool
  off : Nat
  size : Nat
  data : BitVec 256
  deriving DecidableEq, Repr

/-- A stack beside its registers: migrations in progress, first one first (retired pseudo-channel, next granule), corrected
errors with their time (pseudo-channel, nanosecond), and whether it has stopped issuing (R306). -/
structure StackS where
  mig : List (Nat × Nat)
  ce : List (Nat × Nat)
  stopped : Bool
  deriving DecidableEq, Repr

structure HbmS where
  mem : Mem
  /-- poisoned 64-byte blocks by block number, R298 -/
  poison : SMap Bool
  coal : SMap (List Narrow)
  stk : SMap StackS
  /-- data of the last block read, R297: address, data or none when poisoned -/
  lastRead : Option (Nat × Option W512)
  deriving DecidableEq, Repr

/-! ### Fabric, R386 to R413 -/

structure LinkS where
  txSeq : BitVec 24
  rxNext : BitVec 24
  /-- replay buffer, R391: sent and not acknowledged -/
  replay : List (BitVec 24 × BitVec 1920)
  nackRun : Nat
  /-- not retrained until the next cold boot, R513 -/
  dead : Bool
  credits : Nat
  deriving DecidableEq, Repr

/-- A completion slot of the issuer, R405. -/
structure SlotS where
  gen : BitVec 24
  busy : Bool
  /-- held after FAB_POISON, R409 -/
  poisoned : Bool
  deriving DecidableEq, Repr

/-- What an outstanding fabric request is for: a request of a Shuttle instruction (tile, and
the instruction's bundle by order of issue), a user core's access (core, register, kind: 0 to 7 a load of
that M-format kind, 8 a store, 16 and 17 an atomic of 4 and 8 bytes), an element of a Twill load, a piece of a MEM_COPY or
MEM_FILL (handle slot, offset in the chunk), REMOTE_OP or another command (queue, sequence), the collective engine, the mirroring engine, or nobody any more. -/
inductive OutFor where
  | tile (t ord : Nat)
  | core (c rd kind : Nat)
  | lane (c i : Nat)
  | mem (slot off : Nat)
  | cmd (q seq : Nat)
  | coll (cs : Nat)
  | mirror
  | nobody
  deriving DecidableEq, Repr

/-- A request that has no response yet. -/
structure Outst where
  idx : Nat
  hdr : FabHdr
  data : W512
  link : Nat
  via : Option Nat
  reissued : Bool
  isFor : OutFor
  deriving DecidableEq, Repr

/-- An entry of the completion cache, R406. -/
structure CCEnt where
  gen : BitVec 24
  fin : Bool
  status : BitVec 16
  data : W64
  deriving DecidableEq, Repr

/-- A buffered ordered float add, R397. -/
structure OrdAdd where
  hdr : FabHdr
  data : W32
  deriving DecidableEq, Repr

structure FabS where
  links : SMap LinkS
  /-- key dst * 4096 + slot -/
  slots : SMap SlotS
  outst : List Outst
  nextIdx : Nat
  /-- key src * 4096 + slot -/
  cc : SMap CCEnt
  order : List OrdAdd
  /-- updates that wait while the order buffer is full, R397 -/
  orderWait : List OrdAdd
  /-- path of each busy stream: engine, dst, oclass; link, peer of a two-hop path -/
  paths : List ((Nat × Nat × Nat) × (Nat × Option Nat))
  /-- disabled die-to-die modules by connection, R22 -/
  d2d : SMap Nat
  deriving DecidableEq, Repr

/-! ### Collectives, R414 to R429 -/

/-- What a collective is doing beside its registers: waiting for the verdict, idle, in a run, suspended. -/
inductive CollRun where
  | setup
  | idle
  | run
  | suspended
  deriving DecidableEq, Repr

structure Coll where
  run : CollRun
  handle : BitVec 32
  part : Nat
  queue : Nat
  seq : Nat
  sum : Summary
  alg : Nat
  /-- descriptor words 0 to 7 -/
  desc : List W64
  members : List Nat
  rank : Nat
  /-- summaries received, at rank 0 -/
  sums : SMap Summary
  /-- number of the next run, runs committed -/
  nextRun : Nat
  commits : Nat
  /-- the run in progress: its command, first furrow of the current step, step, re-issues -/
  cmd : Nat × Nat
  runNo : Nat
  step : Nat
  stepAt : Nat
  reissue : Nat
  slipped : Bool
  /-- this member finished the current step -/
  finished : Bool
  doneFrom : List Nat
  slipRank : Option Nat
  /-- bursts received in the current step: rank, then number of the 4 KiB chunk of that rank's block -/
  got : SMap (SMap (BitVec 32768))
  /-- chunks of its own blocks that this member has sent in the current step: rank, chunk -/
  sent : List (Nat × Nat)
  /-- blocks that this member holds from committed steps of the run, by shard or by rank -/
  held : SMap (List Byte)
  /-- ready words, R427 -/
  ready : SMap W64
  /-- barrier arrivals: key run * 16384 + rank, furrow -/
  arrivals : SMap Nat
  deriving DecidableEq, Repr

/-! ### Thresher, R265 to R291 -/

structure Batched where
  handle : Nat
  part : Nat
  desc : List W64
  /-- stopped problems and whether flagged -/
  stopped : SMap Bool
  /-- tau of the partition when the batch started, R270 -/
  tau : W64
  deriving DecidableEq, Repr

/-! ### Granary, R444 to R465 -/

/-- The partner's image of one partition as the buddy holds it, R454. -/
structure Mirror where
  /-- the sealed image's number, none when no image is sealed -/
  image : Option Nat
  chunks : SMap (BitVec 32768)
  /-- unsealed chunks in order of arrival -/
  log : List (Nat × BitVec 32768)
  /-- a seal whose copy is in progress: image, digest -/
  sealing : Option (Nat × BitVec 256)
  deriving DecidableEq, Repr

structure CkptS where
  mirror : SMap Mirror
  /-- journal of the partner: queue, sequence, packet, retired -/
  partnerJ : List JXfer
  /-- whether the partner's warm-reset notice stands, R456 -/
  notice : Bool
  /-- the partner is declared lost, R456 -/
  lost : Bool
  /-- the CKPT_SPARE entry that TAKEOVER went to, while no spare has accepted it, R458 -/
  trying : Option Nat
  /-- the buddy that the last MIRROR_CFG paired with, 0 none -/
  paired : Nat
  /-- chunks of each partition written since its last sealed image: key p * 2^28 + page -/
  dirty : SMap Bool
  /-- a takeover in progress: lost package, mask, queue, sequence -/
  takeover : Option (Nat × Nat × Nat × Nat)
  /-- the package that the last TAKEOVER packet came from -/
  takeFrom : Nat
  /-- image chunks received so far, key p * 2^28 + chunk -/
  takeChunks : SMap (BitVec 32768)
  /-- partitions whose replayed commands wait for the rollback of R460 -/
  replay : List Nat
  /-- valid local images, R449: key 2 * p + slot, image number + 1 -/
  slots : SMap Nat
  /-- image chunks that a captured image still has to send to the buddy, R454: key p -/
  sending : SMap (List Nat)
  deriving DecidableEq, Repr

/-! ### Determinism, R430 to R443 -/

/-- A digest record of R442 and the handle it belongs to. -/
structure DigRec where
  handle : Nat
  chain : BitVec 256
  comps : List (BitVec 256)
  deriving DecidableEq, Repr

/-- The digest work of an operation in progress, keyed by its handle: its partition, the leaves hashed so far, key 4 KiB
page. -/
structure DigRun where
  part : Nat
  leaves : SMap (BitVec 256)
  deriving DecidableEq, Repr

/-! ### Fault containment, R466 to R489 -/

structure RasS where
  /-- the last 1,024 error records, oldest first: index and 64 bytes -/
  recs : List (Nat × W512)
  /-- logical to physical, key 156 * die + logical -/
  map : SMap Nat
  /-- the repair record: retired tiles (156 * die + physical), retired pseudo-channels (32 * stack + n) in order -/
  badTiles : List Nat
  badPcs : List Nat
  /-- repair record: a steward pair that failed self-test -/
  badPairs : List Nat
  /-- bit position of the next injection, R479 -/
  injectBit : Nat
  /-- corrected tile-store errors of the last 24 hours, R467: tile and board-reference nanosecond -/
  tileCe : List (Nat × Nat)
  deriving DecidableEq, Repr

/-! ### Power, R490 to R508 -/

structure PwrS where
  /-- package power of the ticks since the cap took effect, newest first, in milliwatts: the energies of R491 in microjoules -/
  hist : List Nat
  /-- excess of R496 to subtract, mW -/
  excess : Nat
  /-- a cap and its window, held while the floor state is in force, R504 -/
  heldCap : Option (Nat × Nat)
  /-- tile-clock duty denominator: 1, 2, 4, 8 or 16 -/
  duty : Nat
  /-- user cores and HBM still held by the floor state -/
  floorHold : Bool
  /-- VR_ALERT_N has been low and not high for 100 us since, R504 -/
  alertHold : Bool
  /-- no cause of the floor state is left: it ends in steps at the furrow boundaries, R504 -/
  exiting : Bool
  /-- an HBM thermal trip holds the floor state, R506 -/
  hbmTrip : Bool
  /-- THERM_TRIP_N asserted, R507 -/
  tripped : Bool
  /-- the grant in force of each partition on each die, key 4 * p + d, R497 -/
  grant : SMap Nat
  deriving DecidableEq, Repr

/-! ### Boot, pins and test port, R509 to R546 -/

structure BootS where
  /-- domains other than 17 run -/
  alive : Bool
  /-- active tiles per die by fuse, R3 -/
  active : Nat
  labBlown : Bool
  rollback : Nat
  /-- QSPI flash contents, R516 -/
  flash : Mem
  slot : Nat
  /-- supported opcodes of the running and of the staged image -/
  opcodes : BitVec 256
  stagedOps : BitVec 256
  stagedRollback : Nat
  release : Nat
  stagedRelease : Nat
  stagedValid : Bool
  lastReset : Nat
  phase : Nat
  us : Nat
  /-- a cold boot ended in phase 3 without a valid image, R517 -/
  noFirmware : Bool
  deriving DecidableEq, Repr

structure Pins where
  pwrok : Bool
  perstN : Bool
  vrAlertN : Bool
  thermTripN : Bool
  ppsIn : Bool
  ppsOut : Bool
  boardSlot : Nat
  pkgSlot : Nat
  deriving DecidableEq, Repr

/-- The test port, R86 and R534. -/
structure Jtag where
  ir : BitVec 8
  /-- answer to the last packet of LAB_CMD -/
  labAnswer : BitVec 8
  labData : W64
  cells : List Bool
  deriving DecidableEq, Repr

/-! ### What leaves the package -/

/-- Completions and messages that the package puts out, as the outside sees them. -/
inductive Out where
  /-- DMWr completion: 0 Successful Completion, 1 Unsupported Request, 2 Memory Request Retry Status -/
  | dmwr (answer : Nat)
  /-- a read completion: data, whether the Error Poisoned bit is set -/
  | data (bytes : List Byte) (ep : Bool)
  /-- Completer Abort, R34 -/
  | abort
  /-- an access that is not served -/
  | notServed
  /-- 16-byte datagram: queue, sequence, 0 accepted, 1 retry, 2 malformed -/
  | datagram (q seq answer : Nat)
  /-- value of a test-port data register -/
  | tdo (bits : Nat)
  /-- value of a register read -/
  | reg (val : W64)
  /-- DMA write through the function of a queue -/
  | dma (q : Nat) (addr : Nat) (bytes : List Byte)
  /-- DMA read request -/
  | dmaRead (q : Nat) (addr len : Nat)
  /-- MSI-X vector raised -/
  | msix (vector : Nat)
  /-- a transaction packet on a link -/
  | fab (link : Nat) (via : Option Nat) (hdr : FabHdr) (data : List Byte)
  /-- a flit control answer: link, nack of the expected sequence, or a resend from a sequence -/
  | nack (link : Nat) (seq : Nat)
  | resend (link : Nat) (seq : Nat) (payload : BitVec 1920)
  /-- a beacon on a link: transmit time, receive time of the last beacon, previous transmit time, quality, rank, hops, and a
  step that the root has scheduled (R58) -/
  | beacon (link : Nat) (tx rx prev : Int) (quality rank hops : Nat) (step : Option (Nat × Int))
  /-- a PTP Delay_Req of a port -/
  | delayReq (port : Nat)
  /-- mirroring operations 0x30 to 0x36 of R455 -/
  | mirror (op : Nat) (args : List Nat)
  /-- collective messages: kind (0 summary, 1 verdict, 2 done, 3 slip, 4 barrier arrival), collective slot, arguments -/
  | coll (kind cs : Nat) (args : List Nat)
  /-- a collective burst: slot, member rank, step, chunk bytes -/
  | burst (cs rank step : Nat) (bytes : List Byte)
  /-- messages to the host over CXL: kind, line, data -/
  | cxl (kind line : Nat) (data : W512)
  /-- a row for a Baler of another package, R260: global address, row, tag -/
  | balerRow (addr : W64) (row : BitVec 1024) (tag : W64)
  /-- I3C read that is not acknowledged -/
  | nackI3c
  deriving DecidableEq, Repr

/-- Why a step can stop the model. -/
inductive Fault where
  /-- raised by no meaning: the GX4's rules describe what the package does in every case. Safe. -/
  | none
  deriving DecidableEq, Repr

/-- Why the model gives a command no meaning. -/
inductive Refusal where
  /-- an arm of exec whose meaning is not written yet. Safe: no claim follows from it. -/
  | notModelled (mnemonic : String)
  deriving DecidableEq, Repr

/-- One GX4 package. -/
structure State where
  /-- commands that wait, first in, first out: the model's own -/
  pending : List Instr
  /-- free values used so far: the model's own, applied to Config.freeValue -/
  free : Nat
  /-- what the package has put out, newest first: the model's own -/
  out : List Out
  /-- control-window registers that are not at their reset value, by offset, R32 -/
  regs : SMap W64
  time : TimeS
  sched : List FEvent
  fired : List FRec
  queues : SMap Queue
  handles : SMap HRec
  ctl : List Ctl
  tiles : SMap Tile
  parts : SMap Part
  cores : SMap Cpu
  cache : CacheS
  hbm : HbmS
  retA : Mem
  retB : Mem
  fab : FabS
  colls : SMap Coll
  batches : SMap Batched
  ckpt : CkptS
  digs : List DigRec
  digRun : SMap DigRun
  ras : RasS
  pwr : PwrS
  boot : BootS
  pins : Pins
  jtag : Jtag
  /-- the I3C target's bus address, R532 -/
  i3cAddr : BitVec 7
  deriving DecidableEq, Repr

/-- The package at time 0 of a cold boot (R509, R512): every register at its reset value, every queue, buffer and table empty,
HBM zero. What the spec gives no reset value for is zero, but for the choices of notes/assumptions 3, 5 and 6. -/
def State.reset : State :=
  { pending := [], free := 0, out := [], regs := []
    time :=
      { refNs := 0, ns := 0, frac := 0, freqCorr := 0, inBand := 0, slew := 0, step := none
        ppsAssigned := none, ppsLive := false, timeSet := [], ptp := [], nbr := [], beaconTx := [], isRoot := false
        rootPkg := 0, peerDelay := 0, holdSince := 0, ppsEvent := none }
    sched := [], fired := [], queues := [], handles := [], ctl := [], tiles := [], parts := [], cores := []
    cache := { lines := [], dir := [], evict := [], ctl := none, wins := [], cxlWait := [] }
    hbm := { mem := [], poison := [], coal := [], stk := [], lastRead := none }
    retA := [], retB := []
    fab := { links := [], slots := [], outst := [], nextIdx := 0, cc := [], order := [], orderWait := [], paths := [], d2d := [] }
    colls := [], batches := []
    ckpt :=
      { mirror := [], partnerJ := [], notice := false, lost := false, trying := none, paired := 0, dirty := []
        takeover := none, takeFrom := 0, takeChunks := [], replay := [], slots := [], sending := [] }
    digs := [], digRun := []
    ras := { recs := [], map := [], badTiles := [], badPcs := [], badPairs := [], injectBit := 0, tileCe := [] }
    pwr :=
      { hist := [], excess := 0, heldCap := none, duty := 1, floorHold := false, alertHold := false, exiting := false
        hbmTrip := false, tripped := false, grant := [] }
    boot :=
      { alive := true, active := 144, labBlown := false, rollback := 0, flash := [], slot := 0, opcodes := 0
        stagedOps := 0, stagedRollback := 0, release := 0, stagedRelease := 0, stagedValid := false, lastReset := 0
        phase := 1, us := 0, noFirmware := false }
    pins :=
      { pwrok := true, perstN := true, vrAlertN := true, thermTripN := true, ppsIn := false, ppsOut := false
        boardSlot := 0, pkgSlot := 0 }
    jtag := { ir := 1, labAnswer := 0, labData := 0, cells := [] }
    i3cAddr := 0x50 }

end Sys2Proof.Machine
end

