-- ==== Sys2Proof/Machine/Bits.lean ====
section
/-! DEFINITION. Sparse data in canonical form, little-endian bytes (R8), and bit fields (R8: [msb:lsb], bit 0 least
significant). -/

namespace Sys2Proof.Machine

/-! ### Sparse data -/

/-- What key `i` holds; `d` where it is not listed. -/
def sget {α : Type} (d : α) : SMap α → Nat → α
  | [], _ => d
  | (k, v) :: m, i => if i = k then v else sget d m i

/-- Remove key `i`. -/
def sdel {α : Type} (m : SMap α) (i : Nat) : SMap α := m.filter fun e => e.1 != i

/-- Insert at its place, in rising order of keys. -/
def sins {α : Type} : SMap α → Nat → α → SMap α
  | [], i, v => [(i, v)]
  | (k, x) :: m, i, v =>
    if i < k then (i, v) :: (k, x) :: m else if i = k then (i, v) :: m else (k, x) :: sins m i v

/-- Set key `i`; the default value is not listed. -/
def sput {α : Type} [DecidableEq α] (d : α) (m : SMap α) (i : Nat) (v : α) : SMap α :=
  if v = d then sdel m i else sins m i v

/-- Change what key `i` holds. -/
def smod {α : Type} [DecidableEq α] (d : α) (m : SMap α) (i : Nat) (f : α → α) : SMap α := sput d m i (f (sget d m i))

/-- The entry of key `i`, if it is listed. -/
def sfind? {α : Type} : SMap α → Nat → Option α
  | [], _ => none
  | (k, v) :: m, i => if i = k then some v else sfind? m i

/-- Forget the keys from `lo` to `lo + n - 1`: they read as the default. -/
def sclear {α : Type} (m : SMap α) (lo n : Nat) : SMap α := m.filter fun e => e.1 < lo || lo + n ≤ e.1

/-- Change every listed entry. -/
def smapv {α β : Type} (m : SMap α) (f : Nat → α → β) : SMap β := m.map fun e => (e.1, f e.1 e.2)

/-- The canonical form: keys strictly rising, no entry equal to the default. -/
def swf {α : Type} [DecidableEq α] (d : α) : SMap α → Bool
  | [] => true
  | [(_, v)] => v != d
  | (k, v) :: (k', v') :: m => v != d && (k < k' && swf d ((k', v') :: m))

/-! ### Memory -/

/-- One byte; what nothing has written reads zero. -/
def mget (m : Mem) (a : Nat) : Byte := sget 0 m a

def mput (m : Mem) (a : Nat) (b : Byte) : Mem := sput 0 m a b

/-- `n` bytes from `a` up. -/
def mread (m : Mem) : Nat → Nat → List Byte
  | _, 0 => []
  | a, n + 1 => mget m a :: mread m (a + 1) n

/-- Store bytes from `a` up. -/
def mwrite : Mem → Nat → List Byte → Mem
  | m, _, [] => m
  | m, a, b :: bs => mwrite (mput m a b) (a + 1) bs

/-- The canonical form of a memory. -/
def Mem.wf (m : Mem) : Bool := swf (0 : Byte) m

/-! ### Bytes and numbers -/

/-- Little-endian value of bytes. -/
def leNat : List Byte → Nat
  | [] => 0
  | b :: bs => b.toNat + 256 * leNat bs

/-- The low `n` bytes of a number, little-endian. -/
def leBytes : Nat → Nat → List Byte
  | 0, _ => []
  | n + 1, v => BitVec.ofNat 8 v :: leBytes n (v / 256)

/-- Little-endian value of `n` bytes of memory at `a`. -/
def mval (m : Mem) (a n : Nat) : Nat := leNat (mread m a n)

/-- Store the low `n` bytes of `v` at `a`. -/
def mstore (m : Mem) (a n v : Nat) : Mem := mwrite m a (leBytes n v)

/-- Bits [hi:lo] of a number. -/
def bits (x hi lo : Nat) : Nat := (x >>> lo) % 2 ^ (hi + 1 - lo)

/-- Bit `i` of a number. -/
def bit (x i : Nat) : Bool := (x >>> i) % 2 == 1

/-- 1 for true. -/
def b2n (b : Bool) : Nat := if b then 1 else 0

/-- `x` with bits [hi:lo] replaced by the low bits of `v`. -/
def setBits (x hi lo v : Nat) : Nat := x - (bits x hi lo) <<< lo + (v % 2 ^ (hi + 1 - lo)) <<< lo

/-- The two's-complement value of the low `w` bits. -/
def sint (w x : Nat) : Int :=
  let y := x % 2 ^ w
  if y < 2 ^ (w - 1) then y else (y : Int) - (2 : Int) ^ w

/-- The low `w` bits of an integer. -/
def wrapInt (w : Nat) (x : Int) : Nat := (x % (2 : Int) ^ w).toNat

/-- Multiply by a power of two, the exponent of either sign: numerator and denominator. -/
def scaleQ (n d : Nat) (k : Int) : Nat × Nat := if 0 ≤ k then (n <<< k.toNat, d) else (n, d <<< (-k).toNat)

/-- Byte `k` of a 512-bit block. -/
def byteOf (p : W512) (k : Nat) : Nat := bits p.toNat (8 * k + 7) (8 * k)

/-- Bytes `k` to `k + n - 1` of a 512-bit block, little-endian. -/
def bytesOf (p : W512) (k n : Nat) : Nat := (p.toNat >>> (8 * k)) % 2 ^ (8 * n)

/-- The XOR of all `w`-bit fields of a number (fold3, fold5 of R294, foldk of R366); `fuel` fields are enough. -/
def foldBits (w : Nat) : Nat → Nat → Nat
  | 0, _ => 0
  | fuel + 1, x => (x % 2 ^ w) ^^^ foldBits w fuel (x / 2 ^ w)

/-- `n` numbers from `a` up. -/
def upFrom : Nat → Nat → List Nat
  | _, 0 => []
  | a, n + 1 => a :: upFrom (a + 1) n

/-- The numbers below `n`, rising. -/
def below (n : Nat) : List Nat := upFrom 0 n

/-- Saturating count in `w` bits, as the RO counters of the registers count. -/
def satAdd (w x y : Nat) : Nat := min (x + y) (2 ^ w - 1)

end Sys2Proof.Machine
end

