-- ==== Sys2Proof/Machine/Regs.lean ====
section
/-! DEFINITION. The registers of the control window (R9 to R13, R32): their offsets, and each field's place, access code and
reset value as the register tables of the chapters give them. A bit in no field is reserved. Values that a fuse, a
strap or the firmware gives stand as 0 here; reading a register takes them from the state. -/

namespace Sys2Proof.Machine

/-- The access codes of R11; a bit of no field is RSV. -/
inductive Acc where
  | rw
  | ro
  | wo
  | w1c
  | rws
  deriving DecidableEq, Repr

/-- A field: bits [hi:lo], its access code and its reset value. -/
structure Fld where
  hi : Nat
  lo : Nat
  acc : Acc
  rst : Nat
  deriving DecidableEq, Repr

/-- A register, or an array of registers at base + i * s1 + j * s2 for i < n1 and j < n2, by its offset in its block. -/
structure RegDesc where
  base : Nat
  n1 : Nat
  s1 : Nat
  n2 : Nat
  s2 : Nat
  flds : List Fld
  deriving DecidableEq, Repr

/-- Whether the offset is one of the array's registers. -/
def RegDesc.covers (d : RegDesc) (o : Nat) : Bool :=
  d.base <= o &&
    (let i := (o - d.base) / d.s1
     let j := (o - d.base) % d.s1 / d.s2
     i < d.n1 && j < d.n2 && d.base + i * d.s1 + j * d.s2 == o)

/-- The value of the register after cold reset. -/
def RegDesc.reset (d : RegDesc) : Nat := d.flds.foldl (fun x f => x ||| f.rst <<< f.lo) 0

/-! ### Offsets, from the base of the control window -/

def aDevId : Nat := 0
def aDevPkgAddr : Nat := 8
def aDevMode : Nat := 0x10
def aTimeNow : Nat := 0x100000
def aTimeLatch : Nat := 0x100008
def aTimeStatus : Nat := 0x100010
def aTimeSource : Nat := 0x100018
def aTimePtpCfg : Nat := 0x100020
def aTimeFurrowCfg : Nat := 0x100028
def aTimeFurrowEpoch : Nat := 0x100030
def aTimeFurrowNow : Nat := 0x100038
def aTimeStepPolicy : Nat := 0x100040
def aTimeOffset : Nat := 0x100048
def aTimePpsCfg : Nat := 0x100050
def aTimePpsInTs : Nat := 0x100058
def aTimeLinkAsym (i : Nat) : Nat := 0x101000 + 8 * i
def aIntkStatus : Nat := 0x200000
def aIntkCfg : Nat := 0x200008
def aIntkPerm (i : Nat) : Nat := 0x200100 + 8 * i
def aIntkPermFn (i j : Nat) : Nat := 0x200200 + 64 * i + 8 * j
def aIntkQCfg (i : Nat) : Nat := 0x210000 + 64 * i
def aIntkQCqBase (i : Nat) : Nat := 0x210008 + 64 * i
def aIntkQRrBase (i : Nat) : Nat := 0x210010 + 64 * i
def aIntkQCqHead (i : Nat) : Nat := 0x210018 + 64 * i
def aIntkQSeq (i : Nat) : Nat := 0x210020 + 64 * i
def aIntkQAnch (i : Nat) : Nat := 0x210028 + 64 * i
def aIntkQDepth (i : Nat) : Nat := 0x210030 + 64 * i
def aTileCfg : Nat := 0x300000
def aTilePart (i j : Nat) : Nat := 0x301000 + 32 * i + 8 * j
def aBayStatus : Nat := 0x400000
def aBayBalerCfg (i : Nat) : Nat := 0x401000 + 8 * i
def aShtlStatus : Nat := 0x500000
def aShtlPartCfg (i : Nat) : Nat := 0x501000 + 8 * i
def aVecStatus : Nat := 0x600000
def aVecPartSeed (i : Nat) : Nat := 0x601000 + 16 * i
def aVecPartBase (i : Nat) : Nat := 0x601008 + 16 * i
def aThrStatus : Nat := 0x700000
def aThrPartTau (i : Nat) : Nat := 0x701000 + 32 * i
def aThrPartCfg (i : Nat) : Nat := 0x701008 + 32 * i
def aThrPartProgress (i : Nat) : Nat := 0x701010 + 32 * i
def aHbmStatus : Nat := 0x800000
def aHbmCfg : Nat := 0x800008
def aHbmStackStatus (i : Nat) : Nat := 0x801000 + 256 * i
def aHbmStackPc (i : Nat) : Nat := 0x801008 + 256 * i
def aHbmStackErr (i : Nat) : Nat := 0x801010 + 256 * i
def aHbmStackPoisonLast (i : Nat) : Nat := 0x801018 + 256 * i
def aHbmMargin (i j : Nat) : Nat := 0x810000 + 256 * i + 8 * j
def aCpuStatus : Nat := 0x900000
def aCpuCoreCfg (i : Nat) : Nat := 0x910000 + 256 * i
def aCpuCoreEntry (i : Nat) : Nat := 0x910008 + 256 * i
def aCpuCoreCtl (i : Nat) : Nat := 0x910010 + 256 * i
def aCpuCoreStatus (i : Nat) : Nat := 0x910018 + 256 * i
def aCpuCoreShadow (i j : Nat) : Nat := 0x910080 + 256 * i + 8 * j
def aCacheStatus : Nat := 0xa00000
def aCacheMode : Nat := 0xa00008
def aCacheCtl : Nat := 0xa00010
def aCacheL2Waymask (i : Nat) : Nat := 0xa01000 + 8 * i
def aCacheWinBase (i : Nat) : Nat := 0xa02000 + 16 * i
def aCacheWinLimit (i : Nat) : Nat := 0xa02008 + 16 * i
def aFabStatus : Nat := 0xb00000
def aFabCfg : Nat := 0xb00008
def aFabCcBase : Nat := 0xb00010
def aFabCcRange : Nat := 0xb00018
def aFabLinkCfg (i : Nat) : Nat := 0xb01000 + 32 * i
def aFabLinkStatus (i : Nat) : Nat := 0xb01008 + 32 * i
def aFabLinkErr (i : Nat) : Nat := 0xb01010 + 32 * i
def aFabKeyA (i : Nat) : Nat := 0xb03000 + 16 * i
def aFabKeyB (i : Nat) : Nat := 0xb03008 + 16 * i
def aFabRoute (i : Nat) : Nat := 0xb04000 + 8 * i
def aCollStatus : Nat := 0xc00000
def aCollCStatus (i : Nat) : Nat := 0xc01000 + 16 * i
def aCollCRun (i : Nat) : Nat := 0xc01008 + 16 * i
def aDetStatus : Nat := 0xd00000
def aDetEmulate : Nat := 0xd00008
def aDetEvent0 (i : Nat) : Nat := 0xd00100 + 16 * i
def aDetEvent1 (i : Nat) : Nat := 0xd00108 + 16 * i
def aDetPartCfg (i : Nat) : Nat := 0xd01000 + 8 * i
def aDetRegionBase (i j : Nat) : Nat := 0xd02000 + 128 * i + 16 * j
def aDetRegionLen (i j : Nat) : Nat := 0xd02008 + 128 * i + 16 * j
def aCkptStatus : Nat := 0xe00000
def aCkptCfg : Nat := 0xe00008
def aCkptSpare (i : Nat) : Nat := 0xe00010 + 8 * i
def aCkptMirror : Nat := 0xe00020
def aCkptMirrorBase : Nat := 0xe00028
def aCkptPartLatest (i : Nat) : Nat := 0xe01000 + 64 * i
def aCkptPartSealed (i : Nat) : Nat := 0xe01008 + 64 * i
def aCkptPartDirty (i : Nat) : Nat := 0xe01010 + 64 * i
def aCkptSlotBase (i j : Nat) : Nat := 0xe01020 + 64 * i + 16 * j
def aCkptSlotLen (i j : Nat) : Nat := 0xe01028 + 64 * i + 16 * j
def aCkptRegionBase (i j : Nat) : Nat := 0xe02000 + 128 * i + 16 * j
def aCkptRegionLen (i j : Nat) : Nat := 0xe02008 + 128 * i + 16 * j
def aRasStatus : Nat := 0xf00000
def aRasCfg : Nat := 0xf00008
def aRasSteward : Nat := 0xf00010
def aRasBreachPtr : Nat := 0xf00018
def aRasDie (i : Nat) : Nat := 0xf00100 + 8 * i
def aRasTileMap (i j : Nat) : Nat := 0xf01000 + 2048 * i + 8 * j
def aRasPartShare (i : Nat) : Nat := 0xf04000 + 8 * i
def aRasBreach0 (i : Nat) : Nat := 0xf08000 + 32 * i
def aRasBreach1 (i : Nat) : Nat := 0xf08008 + 32 * i
def aRasBreach2 (i : Nat) : Nat := 0xf08010 + 32 * i
def aRasBreach3 (i : Nat) : Nat := 0xf08018 + 32 * i
def aPwrStatus : Nat := 0x1000000
def aPwrCap : Nat := 0x1000008
def aPwrMeasure : Nat := 0x1000010
def aPwrCfg : Nat := 0x1000018
def aPwrPart (i : Nat) : Nat := 0x1001000 + 8 * i
def aPwrPhase (i j : Nat) : Nat := 0x1002000 + 128 * i + 8 * j
def aBootStatus : Nat := 0x1100000
def aBootFw : Nat := 0x1100008
def aBootStaged : Nat := 0x1100010
def aBootReset : Nat := 0x1100018

/-! ### Fields, block by block -/

/-- The DEV_ registers. -/
def regsDEV : List RegDesc := [
  -- devId
  ⟨0, 1, 8, 1, 8, [⟨63, 48, .ro, 4⟩, ⟨47, 40, .ro, 0x90⟩, ⟨39, 32, .ro, 0x9c⟩, ⟨31, 28, .ro, 1⟩, ⟨27, 24, .ro, 0⟩, ⟨23, 16, .ro, 1⟩]⟩,
  -- devPkgAddr
  ⟨8, 1, 8, 1, 8, [⟨63, 48, .rws, 0⟩, ⟨20, 18, .ro, 0⟩, ⟨17, 16, .ro, 0⟩, ⟨15, 0, .rws, 0⟩]⟩,
  -- devMode
  ⟨0x10, 1, 8, 1, 8, [⟨63, 63, .w1c, 0⟩, ⟨62, 62, .w1c, 0⟩, ⟨0, 0, .rws, 0⟩]⟩]

/-- The TIME_ registers. -/
def regsTIME : List RegDesc := [
  -- timeNow
  ⟨0, 1, 8, 1, 8, [⟨63, 0, .ro, 0⟩]⟩,
  -- timeLatch
  ⟨8, 1, 8, 1, 8, [⟨63, 48, .ro, 0⟩, ⟨47, 46, .ro, 0⟩]⟩,
  -- timeStatus
  ⟨0x10, 1, 8, 1, 8, [⟨63, 63, .w1c, 0⟩, ⟨62, 62, .w1c, 0⟩, ⟨61, 61, .w1c, 0⟩, ⟨60, 60, .w1c, 0⟩, ⟨59, 59, .w1c, 0⟩, ⟨49, 48, .ro, 0⟩, ⟨47, 40, .ro, 0⟩, ⟨39, 32, .ro, 0xff⟩, ⟨31, 28, .ro, 0xf⟩, ⟨11, 11, .ro, 0⟩, ⟨10, 10, .ro, 0⟩, ⟨9, 7, .ro, 0⟩, ⟨1, 0, .ro, 0⟩]⟩,
  -- timeSource
  ⟨0x18, 1, 8, 1, 8, [⟨63, 56, .rws, 0xff⟩, ⟨5, 5, .rws, 0⟩, ⟨4, 4, .rws, 1⟩, ⟨3, 3, .rws, 1⟩, ⟨2, 2, .rws, 0⟩, ⟨1, 1, .rws, 1⟩]⟩,
  -- timePtpCfg
  ⟨0x20, 1, 8, 1, 8, [⟨63, 56, .rws, 0⟩, ⟨55, 48, .rws, 0⟩, ⟨47, 40, .rws, 0⟩, ⟨39, 32, .rws, 3⟩, ⟨2, 1, .rws, 0⟩]⟩,
  -- timeFurrowCfg
  ⟨0x28, 1, 8, 1, 8, [⟨5, 5, .rws, 0⟩, ⟨4, 0, .rws, 0xc⟩]⟩,
  -- timeFurrowEpoch
  ⟨0x30, 1, 8, 1, 8, [⟨63, 0, .rws, 0⟩]⟩,
  -- timeFurrowNow
  ⟨0x38, 1, 8, 1, 8, [⟨47, 0, .ro, 0⟩]⟩,
  -- timeStepPolicy
  ⟨0x40, 1, 8, 1, 8, [⟨63, 32, .rws, 0x15180⟩, ⟨15, 8, .rws, 0x10⟩, ⟨2, 2, .rws, 0⟩, ⟨1, 0, .rws, 1⟩]⟩,
  -- timeOffset
  ⟨0x48, 1, 8, 1, 8, [⟨63, 0, .ro, 0⟩]⟩,
  -- timePpsCfg
  ⟨0x50, 1, 8, 1, 8, [⟨29, 1, .rws, 0xf4240⟩, ⟨0, 0, .rws, 1⟩]⟩,
  -- timePpsInTs
  ⟨0x58, 1, 8, 1, 8, [⟨63, 0, .ro, 0⟩]⟩,
  -- timeLinkAsym
  ⟨0x1000, 64, 8, 1, 8, [⟨15, 0, .rws, 0⟩]⟩]

/-- The INTK_ registers. -/
def regsINTK : List RegDesc := [
  -- intkStatus
  ⟨0, 1, 8, 1, 8, [⟨63, 63, .w1c, 0⟩, ⟨62, 62, .w1c, 0⟩, ⟨61, 61, .w1c, 0⟩, ⟨60, 45, .ro, 0⟩, ⟨44, 29, .ro, 0⟩, ⟨12, 0, .ro, 0⟩]⟩,
  -- intkCfg
  ⟨8, 1, 8, 1, 8, [⟨44, 13, .rws, 0⟩, ⟨12, 0, .rws, 0x1000⟩]⟩,
  -- intkPerm
  ⟨0x100, 16, 8, 1, 8, [⟨12, 12, .ro, 0⟩, ⟨11, 6, .ro, 0⟩, ⟨5, 0, .ro, 0⟩]⟩,
  -- intkPermFn
  ⟨0x200, 16, 64, 6, 8, [⟨15, 0, .ro, 0⟩]⟩,
  -- intkQCfg
  ⟨0x10000, 64, 64, 1, 8, [⟨63, 63, .rws, 0⟩, ⟨62, 60, .rws, 0⟩, ⟨59, 56, .rws, 0⟩, ⟨55, 45, .rws, 0⟩, ⟨35, 32, .rws, 6⟩, ⟨31, 28, .rws, 6⟩]⟩,
  -- intkQCqBase
  ⟨0x10008, 64, 64, 1, 8, [⟨63, 12, .rws, 0⟩]⟩,
  -- intkQRrBase
  ⟨0x10010, 64, 64, 1, 8, [⟨63, 12, .rws, 0⟩]⟩,
  -- intkQCqHead
  ⟨0x10018, 64, 64, 1, 8, [⟨14, 0, .rws, 0⟩]⟩,
  -- intkQSeq
  ⟨0x10020, 64, 64, 1, 8, [⟨47, 0, .ro, 1⟩]⟩,
  -- intkQAnch
  ⟨0x10028, 64, 64, 1, 8, [⟨47, 0, .ro, 0⟩]⟩,
  -- intkQDepth
  ⟨0x10030, 64, 64, 1, 8, [⟨12, 0, .ro, 0⟩]⟩]

/-- The TILE_ registers. -/
def regsTILE : List RegDesc := [
  -- tileCfg
  ⟨0, 1, 8, 1, 8, [⟨63, 63, .w1c, 0⟩, ⟨4, 0, .rws, 0x18⟩]⟩,
  -- tilePart
  ⟨0x1000, 16, 32, 4, 8, [⟨16, 16, .ro, 0⟩, ⟨15, 8, .ro, 0⟩, ⟨7, 0, .ro, 0⟩]⟩]

/-- The BAY_ registers. -/
def regsBAY : List RegDesc := [
  -- bayStatus
  ⟨0, 1, 8, 1, 8, [⟨63, 63, .w1c, 0⟩]⟩,
  -- bayBalerCfg
  ⟨0x1000, 16, 8, 1, 8, [⟨63, 63, .rw, 0⟩, ⟨55, 48, .rw, 1⟩, ⟨47, 44, .rw, 0⟩, ⟨43, 37, .rw, 0x40⟩, ⟨21, 12, .rw, 0⟩]⟩]

/-- The SHTL_ registers. -/
def regsSHTL : List RegDesc := [
  -- shtlStatus
  ⟨0, 1, 8, 1, 8, [⟨63, 63, .w1c, 0⟩]⟩,
  -- shtlPartCfg
  ⟨0x1000, 16, 8, 1, 8, [⟨16, 16, .rws, 1⟩, ⟨9, 0, .rws, 0x200⟩]⟩]

/-- The VEC_ registers. -/
def regsVEC : List RegDesc := [
  -- vecStatus
  ⟨0, 1, 8, 1, 8, [⟨63, 63, .w1c, 0⟩]⟩,
  -- vecPartSeed
  ⟨0x1000, 16, 16, 1, 8, [⟨63, 0, .rws, 0⟩]⟩,
  -- vecPartBase
  ⟨0x1008, 16, 16, 1, 8, [⟨63, 0, .rws, 0⟩]⟩]

/-- The THR_ registers. -/
def regsTHR : List RegDesc := [
  -- thrStatus
  ⟨0, 1, 8, 1, 8, [⟨63, 63, .w1c, 0⟩]⟩,
  -- thrPartTau
  ⟨0x1000, 16, 32, 1, 8, [⟨63, 0, .rws, 0x3eb0000000000000⟩]⟩,
  -- thrPartCfg
  ⟨0x1008, 16, 32, 1, 8, [⟨11, 8, .rws, 8⟩, ⟨0, 0, .rws, 0⟩]⟩,
  -- thrPartProgress
  ⟨0x1010, 16, 32, 1, 8, [⟨63, 32, .ro, 0⟩, ⟨31, 0, .ro, 0⟩]⟩]

/-- The HBM_ registers. -/
def regsHBM : List RegDesc := [
  -- hbmStatus
  ⟨0, 1, 8, 1, 8, [⟨63, 63, .w1c, 0⟩, ⟨62, 62, .w1c, 0⟩]⟩,
  -- hbmCfg
  ⟨8, 1, 8, 1, 8, [⟨39, 32, .rws, 0x18⟩, ⟨31, 16, .rws, 0x100⟩, ⟨15, 8, .rws, 0x18⟩, ⟨0, 0, .rws, 1⟩]⟩,
  -- hbmStackStatus
  ⟨0x1000, 8, 256, 1, 8, [⟨63, 63, .w1c, 0⟩, ⟨62, 62, .w1c, 0⟩, ⟨47, 40, .ro, 0⟩, ⟨39, 32, .ro, 0⟩, ⟨31, 30, .ro, 0⟩, ⟨29, 28, .ro, 0⟩, ⟨27, 27, .ro, 0⟩]⟩,
  -- hbmStackPc
  ⟨0x1008, 8, 256, 1, 8, [⟨63, 32, .ro, 0⟩, ⟨31, 0, .ro, 0⟩]⟩,
  -- hbmStackErr
  ⟨0x1010, 8, 256, 1, 8, [⟨63, 48, .ro, 0⟩, ⟨47, 32, .ro, 0⟩, ⟨31, 0, .ro, 0⟩]⟩,
  -- hbmStackPoisonLast
  ⟨0x1018, 8, 256, 1, 8, [⟨47, 6, .ro, 0⟩]⟩,
  -- hbmMargin
  ⟨0x10000, 8, 256, 32, 8, [⟨31, 24, .ro, 0⟩, ⟨23, 16, .ro, 0⟩, ⟨15, 8, .ro, 0⟩, ⟨0, 0, .ro, 0⟩]⟩]

/-- The CPU_ registers. -/
def regsCPU : List RegDesc := [
  -- cpuStatus
  ⟨0, 1, 8, 1, 8, [⟨63, 63, .w1c, 0⟩, ⟨62, 62, .w1c, 0⟩]⟩,
  -- cpuCoreCfg
  ⟨0x10000, 96, 256, 1, 8, [⟨3, 0, .rw, 0⟩]⟩,
  -- cpuCoreEntry
  ⟨0x10008, 96, 256, 1, 8, [⟨63, 2, .rw, 0⟩]⟩,
  -- cpuCoreCtl
  ⟨0x10010, 96, 256, 1, 8, [⟨1, 0, .wo, 0⟩]⟩,
  -- cpuCoreStatus
  ⟨0x10018, 96, 256, 1, 8, [⟨63, 63, .w1c, 0⟩, ⟨62, 62, .w1c, 0⟩, ⟨55, 54, .ro, 0⟩, ⟨53, 53, .ro, 0⟩, ⟨52, 51, .ro, 0⟩, ⟨47, 0, .ro, 0⟩]⟩,
  -- cpuCoreShadow
  ⟨0x10080, 96, 256, 16, 8, [⟨63, 0, .ro, 0⟩]⟩]

/-- The CACHE_ registers. -/
def regsCACHE : List RegDesc := [
  -- cacheStatus
  ⟨0, 1, 8, 1, 8, [⟨63, 63, .w1c, 0⟩, ⟨62, 62, .w1c, 0⟩, ⟨61, 57, .ro, 0x1f⟩, ⟨47, 32, .ro, 0⟩, ⟨31, 0, .ro, 0⟩]⟩,
  -- cacheMode
  ⟨8, 1, 8, 1, 8, [⟨7, 7, .rw, 1⟩, ⟨6, 6, .rw, 1⟩, ⟨5, 5, .rw, 0⟩, ⟨4, 4, .rw, 0⟩, ⟨3, 3, .rw, 0⟩, ⟨2, 2, .rw, 0⟩, ⟨1, 1, .rw, 0⟩]⟩,
  -- cacheCtl
  ⟨0x10, 1, 8, 1, 8, [⟨7, 7, .ro, 0⟩, ⟨4, 3, .wo, 0⟩, ⟨2, 0, .wo, 0⟩]⟩,
  -- cacheL2Waymask
  ⟨0x1000, 16, 8, 1, 8, [⟨15, 0, .rws, 0xffff⟩]⟩,
  -- cacheWinBase
  ⟨0x2000, 8, 16, 1, 8, [⟨47, 12, .rws, 0⟩, ⟨0, 0, .rws, 0⟩]⟩,
  -- cacheWinLimit
  ⟨0x2008, 8, 16, 1, 8, [⟨47, 12, .rws, 0⟩, ⟨3, 0, .rws, 0⟩]⟩]

/-- The FAB_ registers. -/
def regsFAB : List RegDesc := [
  -- fabStatus
  ⟨0, 1, 8, 1, 8, [⟨63, 63, .w1c, 0⟩, ⟨62, 62, .w1c, 0⟩, ⟨61, 61, .w1c, 0⟩, ⟨47, 32, .ro, 0⟩, ⟨31, 16, .ro, 0⟩, ⟨15, 0, .ro, 0⟩]⟩,
  -- fabCfg
  ⟨8, 1, 8, 1, 8, [⟨63, 48, .rws, 0⟩, ⟨37, 28, .rws, 0xc8⟩, ⟨27, 16, .rws, 0x100⟩, ⟨15, 8, .rws, 0x14⟩, ⟨0, 0, .rws, 1⟩]⟩,
  -- fabCcBase
  ⟨0x10, 1, 8, 1, 8, [⟨47, 16, .rws, 0⟩]⟩,
  -- fabCcRange
  ⟨0x18, 1, 8, 1, 8, [⟨63, 48, .rws, 0⟩, ⟨47, 32, .rws, 1⟩, ⟨31, 0, .ro, 0⟩]⟩,
  -- fabLinkCfg
  ⟨0x1000, 64, 32, 1, 8, [⟨63, 63, .rws, 0⟩, ⟨2, 0, .rws, 0⟩]⟩,
  -- fabLinkStatus
  ⟨0x1008, 64, 32, 1, 8, [⟨63, 48, .ro, 0⟩, ⟨47, 42, .ro, 0⟩, ⟨10, 8, .ro, 7⟩, ⟨7, 7, .ro, 0⟩, ⟨2, 0, .ro, 0⟩]⟩,
  -- fabLinkErr
  ⟨0x1010, 64, 32, 1, 8, [⟨63, 32, .ro, 0⟩, ⟨31, 16, .ro, 0⟩, ⟨15, 0, .ro, 0⟩]⟩,
  -- fabKeyA
  ⟨0x3000, 64, 16, 1, 8, [⟨63, 63, .rws, 0⟩, ⟨62, 62, .rws, 0⟩, ⟨61, 61, .rws, 0⟩, ⟨60, 60, .rws, 0⟩, ⟨59, 56, .rws, 0⟩, ⟨31, 16, .rws, 0⟩, ⟨15, 0, .rws, 0⟩]⟩,
  -- fabKeyB
  ⟨0x3008, 64, 16, 1, 8, [⟨53, 27, .rws, 0⟩, ⟨26, 0, .rws, 0⟩]⟩,
  -- fabRoute
  ⟨0x4000, 2048, 8, 1, 8, [⟨63, 63, .rws, 0⟩, ⟨59, 54, .rws, 0x3f⟩, ⟨53, 48, .rws, 0x3f⟩, ⟨31, 16, .rws, 0⟩]⟩]

/-- The COLL_ registers. -/
def regsCOLL : List RegDesc := [
  -- collStatus
  ⟨0, 1, 8, 1, 8, [⟨63, 48, .ro, 0⟩, ⟨6, 0, .ro, 0⟩]⟩,
  -- collCStatus
  ⟨0x1000, 64, 16, 1, 8, [⟨63, 48, .ro, 0⟩, ⟨47, 34, .ro, 0⟩, ⟨33, 32, .ro, 0⟩, ⟨31, 16, .ro, 0⟩, ⟨3, 2, .ro, 0⟩, ⟨1, 0, .ro, 0⟩]⟩,
  -- collCRun
  ⟨0x1008, 64, 16, 1, 8, [⟨47, 0, .ro, 0⟩]⟩]

/-- The DET_ registers. -/
def regsDET : List RegDesc := [
  -- detStatus
  ⟨0, 1, 8, 1, 8, [⟨63, 63, .w1c, 0⟩, ⟨62, 62, .w1c, 0⟩, ⟨21, 16, .ro, 0⟩, ⟨15, 0, .ro, 0⟩]⟩,
  -- detEmulate
  ⟨8, 1, 8, 1, 8, [⟨7, 0, .rws, 0⟩]⟩,
  -- detEvent0
  ⟨0x100, 64, 16, 1, 8, [⟨63, 60, .ro, 0⟩, ⟨59, 56, .ro, 0⟩, ⟨55, 55, .ro, 0⟩, ⟨54, 48, .ro, 0⟩, ⟨47, 0, .ro, 0⟩]⟩,
  -- detEvent1
  ⟨0x108, 64, 16, 1, 8, [⟨1, 0, .ro, 0⟩]⟩,
  -- detPartCfg
  ⟨0x1000, 16, 8, 1, 8, [⟨0, 0, .rws, 0⟩]⟩,
  -- detRegionBase
  ⟨0x2000, 16, 128, 8, 16, [⟨47, 12, .rws, 0⟩, ⟨1, 0, .rws, 0⟩]⟩,
  -- detRegionLen
  ⟨0x2008, 16, 128, 8, 16, [⟨27, 0, .rws, 0⟩]⟩]

/-- The CKPT_ registers. -/
def regsCKPT : List RegDesc := [
  -- ckptStatus
  ⟨0, 1, 8, 1, 8, [⟨63, 63, .w1c, 0⟩, ⟨62, 62, .w1c, 0⟩, ⟨61, 61, .w1c, 0⟩, ⟨47, 32, .ro, 0⟩]⟩,
  -- ckptCfg
  ⟨8, 1, 8, 1, 8, [⟨63, 63, .rws, 0⟩, ⟨47, 32, .rws, 0x1f4⟩, ⟨31, 16, .rws, 0x64⟩]⟩,
  -- ckptSpare
  ⟨0x10, 2, 8, 1, 8, [⟨63, 63, .rws, 0⟩, ⟨15, 0, .rws, 0⟩]⟩,
  -- ckptMirror
  ⟨0x20, 1, 8, 1, 8, [⟨63, 63, .ro, 0⟩, ⟨55, 28, .ro, 0⟩, ⟨27, 0, .ro, 0⟩]⟩,
  -- ckptMirrorBase
  ⟨0x28, 1, 8, 1, 8, [⟨47, 12, .ro, 0⟩]⟩,
  -- ckptPartLatest
  ⟨0x1000, 16, 64, 1, 8, [⟨49, 49, .ro, 0⟩, ⟨48, 48, .ro, 0⟩, ⟨47, 0, .ro, 0⟩]⟩,
  -- ckptPartSealed
  ⟨0x1008, 16, 64, 1, 8, [⟨48, 48, .ro, 0⟩, ⟨47, 0, .ro, 0⟩]⟩,
  -- ckptPartDirty
  ⟨0x1010, 16, 64, 1, 8, [⟨24, 0, .ro, 0⟩]⟩,
  -- ckptSlotBase
  ⟨0x1020, 16, 64, 2, 16, [⟨47, 12, .rws, 0⟩]⟩,
  -- ckptSlotLen
  ⟨0x1028, 16, 64, 2, 16, [⟨24, 0, .rws, 0⟩]⟩,
  -- ckptRegionBase
  ⟨0x2000, 16, 128, 8, 16, [⟨47, 12, .rws, 0⟩, ⟨1, 0, .rws, 0⟩]⟩,
  -- ckptRegionLen
  ⟨0x2008, 16, 128, 8, 16, [⟨27, 0, .rws, 0⟩]⟩]

/-- The RAS_ registers. -/
def regsRAS : List RegDesc := [
  -- rasStatus
  ⟨0, 1, 8, 1, 8, [⟨63, 63, .w1c, 0⟩, ⟨62, 62, .w1c, 0⟩, ⟨61, 61, .w1c, 0⟩, ⟨60, 60, .w1c, 0⟩, ⟨31, 0, .ro, 0⟩]⟩,
  -- rasCfg
  ⟨8, 1, 8, 1, 8, [⟨58, 48, .rws, 0⟩, ⟨31, 16, .rws, 0x40⟩, ⟨0, 0, .rws, 1⟩]⟩,
  -- rasSteward
  ⟨0x10, 1, 8, 1, 8, [⟨57, 56, .ro, 0⟩, ⟨55, 54, .ro, 1⟩, ⟨53, 52, .ro, 0⟩, ⟨47, 0, .ro, 0⟩]⟩,
  -- rasBreachPtr
  ⟨0x18, 1, 8, 1, 8, [⟨31, 0, .ro, 0⟩]⟩,
  -- rasDie
  ⟨0x100, 4, 8, 1, 8, [⟨23, 16, .ro, 0⟩, ⟨15, 8, .ro, 0⟩, ⟨7, 0, .ro, 0⟩]⟩,
  -- rasTileMap
  ⟨0x1000, 4, 2048, 156, 8, [⟨63, 63, .ro, 0⟩, ⟨7, 0, .ro, 0⟩]⟩,
  -- rasPartShare
  ⟨0x4000, 16, 8, 1, 8, [⟨15, 8, .rws, 0⟩, ⟨7, 0, .rws, 0⟩]⟩,
  -- rasBreach0
  ⟨0x8000, 256, 32, 1, 8, [⟨59, 56, .ro, 0⟩, ⟨55, 52, .ro, 0⟩, ⟨51, 48, .ro, 0⟩, ⟨47, 0, .ro, 0⟩]⟩,
  -- rasBreach1
  ⟨0x8008, 256, 32, 1, 8, [⟨31, 0, .ro, 0⟩]⟩,
  -- rasBreach2
  ⟨0x8010, 256, 32, 1, 8, [⟨63, 0, .ro, 0⟩]⟩,
  -- rasBreach3
  ⟨0x8018, 256, 32, 1, 8, [⟨9, 8, .ro, 0⟩, ⟨7, 0, .ro, 0⟩]⟩]

/-- The PWR_ registers. -/
def regsPWR : List RegDesc := [
  -- pwrStatus
  ⟨0, 1, 8, 1, 8, [⟨63, 63, .w1c, 0⟩, ⟨62, 62, .w1c, 0⟩, ⟨61, 61, .w1c, 0⟩, ⟨60, 60, .w1c, 0⟩, ⟨51, 50, .ro, 0⟩, ⟨49, 49, .ro, 0⟩, ⟨48, 48, .ro, 0⟩, ⟨47, 40, .ro, 0⟩, ⟨15, 0, .ro, 0⟩]⟩,
  -- pwrCap
  ⟨8, 1, 8, 1, 8, [⟨20, 16, .ro, 1⟩, ⟨11, 0, .ro, 0xe10⟩]⟩,
  -- pwrMeasure
  ⟨0x10, 1, 8, 1, 8, [⟨63, 48, .ro, 0⟩, ⟨47, 32, .ro, 0⟩, ⟨31, 16, .ro, 0⟩, ⟨15, 0, .ro, 0xe10⟩]⟩,
  -- pwrCfg
  ⟨0x18, 1, 8, 1, 8, [⟨16, 16, .rws, 1⟩, ⟨11, 0, .rws, 0x370⟩]⟩,
  -- pwrPart
  ⟨0x1000, 16, 8, 1, 8, [⟨35, 32, .ro, 0⟩, ⟨31, 24, .ro, 0⟩, ⟨23, 16, .ro, 0⟩, ⟨15, 8, .ro, 0⟩, ⟨7, 0, .ro, 0⟩]⟩,
  -- pwrPhase
  ⟨0x2000, 16, 128, 16, 8, [⟨39, 32, .ro, 0⟩, ⟨31, 16, .ro, 0⟩, ⟨15, 0, .ro, 0⟩]⟩]

/-- The BOOT_ registers. -/
def regsBOOT : List RegDesc := [
  -- bootStatus
  ⟨0, 1, 8, 1, 8, [⟨63, 63, .w1c, 0⟩, ⟨62, 62, .w1c, 0⟩, ⟨61, 61, .w1c, 0⟩, ⟨60, 60, .w1c, 0⟩, ⟨56, 56, .ro, 0⟩, ⟨55, 48, .ro, 0⟩, ⟨47, 44, .ro, 1⟩, ⟨31, 0, .ro, 0⟩]⟩,
  -- bootFw
  ⟨8, 1, 8, 1, 8, [⟨63, 32, .ro, 0⟩, ⟨31, 24, .ro, 0⟩, ⟨1, 1, .ro, 0⟩, ⟨0, 0, .ro, 0⟩]⟩,
  -- bootStaged
  ⟨0x10, 1, 8, 1, 8, [⟨63, 32, .ro, 0⟩]⟩,
  -- bootReset
  ⟨0x18, 1, 8, 1, 8, [⟨1, 0, .wo, 0⟩]⟩]

/-- The registers of the block that owns a 1 MiB region (R32). -/
def regBlock : Nat → List RegDesc
  | 0 => regsDEV
  | 1 => regsTIME
  | 2 => regsINTK
  | 3 => regsTILE
  | 4 => regsBAY
  | 5 => regsSHTL
  | 6 => regsVEC
  | 7 => regsTHR
  | 8 => regsHBM
  | 9 => regsCPU
  | 10 => regsCACHE
  | 11 => regsFAB
  | 12 => regsCOLL
  | 13 => regsDET
  | 14 => regsCKPT
  | 15 => regsRAS
  | 16 => regsPWR
  | 17 => regsBOOT
  | _ => []

/-- The register at an offset of the control window, if one is there; other offsets are reserved (R33). -/
def regDesc (o : Nat) : Option RegDesc := (regBlock (o / 0x100000)).find? (fun d => d.covers (o % 0x100000))

/-- The reset value of the register at an offset. -/
def regReset (o : Nat) : Nat :=
  match regDesc o with
  | some d => d.reset
  | none => 0

/-- What a write of `v`, under a byte mask given as a bit mask `m`, leaves in a register that holds `x`, per access code (R11 to R13): RW and
RWS take the new bits, a 1 clears W1C, everything else ignores the write. -/
def RegDesc.write (d : RegDesc) (x v m : Nat) : Nat :=
  d.flds.foldl (fun y f =>
    match f.acc with
    | .rw | .rws => setBits y f.hi f.lo ((bits y f.hi f.lo &&& (2 ^ 64 - 1 - bits m f.hi f.lo)) ||| bits (v &&& m) f.hi f.lo)
    | .w1c => setBits y f.hi f.lo (bits y f.hi f.lo &&& (2 ^ 64 - 1 - bits (v &&& m) f.hi f.lo))
    | .ro | .wo => y) x

/-- What a warm reset leaves (R11): RWS fields, and RO fields where `keepRo`, keep their value; the others take their reset value. -/
def RegDesc.warm (d : RegDesc) (keepRo : Bool) (x : Nat) : Nat :=
  d.flds.foldl (fun y f =>
    match f.acc with
    | .rws => y
    | .ro => if keepRo then y else setBits y f.hi f.lo f.rst
    | _ => setBits y f.hi f.lo f.rst) x

end Sys2Proof.Machine
end

