-- ==== Sys2Proof/Machine/Init.lean ====
section
/-! DEFINITION. What every sparse table of the state reads as where nothing is listed, and the one way in and out of each
table: a tile, a core, a queue, a partition that has not been touched since cold reset. -/

namespace Sys2Proof.Machine

/-! ### Untouched entries -/

/-- An intake queue after cold reset: next_seq 1, anchored_through 0, both rings at slot 0 with phase 1 (R81, R543). -/
def Queue.zero : Queue :=
  { nextSeq := 1, anch := 0, entries := [], cqPos := 0, cqPhase := true, rrPos := 0, rrPhase := true, held := []
    receipt := none, msixDue := false }

def Mx.zero : Mx :=
  { acc := [], bay := [], limbCount := [], combQ64 := false, combFresh := [], comb := [], combLive := false
    accSat := false, accNonfinite := false, spillCount := 0, accLive := 0, bayValid := 0 }

def Vec.zero : Vec := { mode := 0, flags := 0, qe := [], seed := 0, sr := 0 }

def Baler.zero : Baler :=
  { used := [], waiting := [], heldRows := [], batches := [], formed := [], released := 0, fullStalls := 0 }

def Sh.zero : Sh :=
  { poisonSeen := false, unpopSeen := false, realigned := false, idxSkipped := 0, collHeld := 0 }

/-- A tile outside every partition is power-gated (R147); nothing has written it. -/
def Tile.zero : Tile :=
  { run := .idle, retired := false, gated := true, writeRefused := false, furrowLate := false, excMore := false
    safeptLast := 0, lateCount := 0, exc := 0, pc := 0, bias := 0, stopped := false, excPend := none, fwait := .free
    issued := 0, atSafe := false, debug := false, bundles := [], s := [], tok := [], treg := [], mreg := [], dsc := []
    store := [], qm := [], qv := [], qx := [], em := [], ev := [], ex := [], jobs := [], mx := Mx.zero, vec := Vec.zero
    bal := Baler.zero, sh := Sh.zero, save := none }

def Part.zero : Part := { loaded := false, imgLen := 0, debugAt := none, clearing := false }

/-- A user core after reset: halted, with the start values of R314. -/
def Cpu.zero : Cpu :=
  { run := .halted, gated := false, debug := false, pc := 0, g := [], win := [], trapw := [], resident := 1, wsel := 0
    xact := false, tw := false, ie := false, priv := 1, flags := 0, fpctl := 0, startRef := 0, xpc := 0, xstate := 0
    xcause := 0, xval := 0, xbase := 0, ier := 0, ip := 0, ival := [], fcmp := 0, ptroot := 0, spbase := 0
    splimit := 0, spptr := 0, hi := 9, lo := 1, vr := [], km := [], ff := 0, vcfg := 0, shadow := [], tlb := []
    unpopSeen := false, storeAbort := false, haltFurrow := 0, stalled := false, stallVa := 0, stallWord := 0, vjob := none }

def PtpPort.zero : PtpPort := { usable := false, sync := none, req := none, delay := 0 }

def StackS.zero : StackS := { mig := [], ce := [], stopped := false }

def LinkS.zero : LinkS := { txSeq := 0, rxNext := 0, replay := [], nackRun := 0, dead := false, credits := 0 }

def SlotS.zero : SlotS := { gen := 0, busy := false, poisoned := false }

def Mirror.zero : Mirror := { image := none, chunks := [], log := [], sealing := none }

/-! ### Ways in and out -/

def State.queue (s : State) (q : Nat) : Queue := sget Queue.zero s.queues q
def State.setQueue (s : State) (q : Nat) (v : Queue) : State := { s with queues := sput Queue.zero s.queues q v }
def State.modQueue (s : State) (q : Nat) (f : Queue → Queue) : State := s.setQueue q (f (s.queue q))

/-- Tile `k` is 156 * die + physical index. -/
def State.tile (s : State) (k : Nat) : Tile := sget Tile.zero s.tiles k
def State.setTile (s : State) (k : Nat) (v : Tile) : State := { s with tiles := sput Tile.zero s.tiles k v }
def State.modTile (s : State) (k : Nat) (f : Tile → Tile) : State := s.setTile k (f (s.tile k))

def State.part (s : State) (p : Nat) : Part := sget Part.zero s.parts p
def State.setPart (s : State) (p : Nat) (v : Part) : State := { s with parts := sput Part.zero s.parts p v }
def State.modPart (s : State) (p : Nat) (f : Part → Part) : State := s.setPart p (f (s.part p))

def State.core (s : State) (c : Nat) : Cpu := sget Cpu.zero s.cores c
def State.setCore (s : State) (c : Nat) (v : Cpu) : State := { s with cores := sput Cpu.zero s.cores c v }
def State.modCore (s : State) (c : Nat) (f : Cpu → Cpu) : State := s.setCore c (f (s.core c))

/-- A handle slot, if it has ever issued a handle. -/
def State.hslot (s : State) (i : Nat) : Option HRec := sfind? s.handles i
def State.setHslot (s : State) (i : Nat) (v : HRec) : State := { s with handles := sins s.handles i v }

def State.coll (s : State) (c : Nat) : Option Coll := sfind? s.colls c
def State.setColl (s : State) (c : Nat) (v : Coll) : State := { s with colls := sins s.colls c v }
def State.dropColl (s : State) (c : Nat) : State := { s with colls := sdel s.colls c }

def State.stack (s : State) (k : Nat) : StackS := sget StackS.zero s.hbm.stk k
def State.setStack (s : State) (k : Nat) (v : StackS) : State :=
  { s with hbm := { s.hbm with stk := sput StackS.zero s.hbm.stk k v } }

def State.link (s : State) (n : Nat) : LinkS := sget LinkS.zero s.fab.links n
def State.setLink (s : State) (n : Nat) (v : LinkS) : State :=
  { s with fab := { s.fab with links := sput LinkS.zero s.fab.links n v } }

def State.mirror (s : State) (p : Nat) : Mirror := sget Mirror.zero s.ckpt.mirror p
def State.setMirror (s : State) (p : Nat) (v : Mirror) : State :=
  { s with ckpt := { s.ckpt with mirror := sput Mirror.zero s.ckpt.mirror p v } }

/-- Put one thing out of the package. -/
def State.emit (s : State) (o : Out) : State := { s with out := o :: s.out }

/-- The next free value, of which nothing is known. -/
def State.free1 (s : State) : Nat := Config.freeValue s.free

/-- The state after a free value was taken. -/
def State.freed (s : State) : State := { s with free := s.free + 1 }

/-! ### Registers as stored -/

/-- The stored value of the register at an offset. -/
def State.rd (s : State) (o : Nat) : Nat :=
  match sfind? s.regs o with
  | some v => v.toNat
  | none => regReset o

/-- Store a register; one at its reset value is not listed. -/
def State.wr (s : State) (o v : Nat) : State :=
  let w := BitVec.ofNat 64 v
  { s with regs := if w = BitVec.ofNat 64 (regReset o) then sdel s.regs o else sins s.regs o w }

/-- Bits [hi:lo] of a stored register. -/
def State.fld (s : State) (o hi lo : Nat) : Nat := bits (s.rd o) hi lo

/-- Set bits [hi:lo] of a stored register. -/
def State.setFld (s : State) (o hi lo v : Nat) : State := s.wr o (setBits (s.rd o) hi lo v)

/-- Whether bit `i` of a stored register is set. -/
def State.flag (s : State) (o i : Nat) : Bool := bit (s.rd o) i

/-- Set a W1C bit: the event is kept until software clears it (R12). -/
def State.setFlag (s : State) (o i : Nat) : State := s.setFld o i i 1

/-- Count in a saturating read-only field. -/
def State.countFld (s : State) (o hi lo n : Nat) : State := s.setFld o hi lo (satAdd (hi + 1 - lo) (s.fld o hi lo) n)

end Sys2Proof.Machine
end

