-- ==== Sys2Proof/Machine/Clock.lean ====
section
/-! DEFINITION. The time counter as every block reads it: quality, source, furrows and their boundaries (R39, R41, R65), the
guard and the schedule tests (R69 to R71), and the counter's progress at the steered rate (R53, R54). Times finer than a
nanosecond are in units of 2^-16 ns. -/

namespace Sys2Proof.Machine

/-! ### Reading the counter -/

/-- The current time quality, R41: 0 FREE, 1 HOLDOVER, 2 LOCKED. -/
def State.quality (s : State) : Nat := s.fld aTimeStatus 1 0

/-- The selected source, as in TIME_STATUS: 0 none, 1 link beacon, 2 optical beacon, 3 and 4 PTP, 5 PPS_IN. -/
def State.source (s : State) : Nat := s.fld aTimeStatus 9 7

/-- L in nanoseconds, R65. -/
def State.furrowLen (s : State) : Nat := 2 ^ s.fld aTimeFurrowCfg 4 0

/-- E, R65. -/
def State.epoch (s : State) : Nat := s.rd aTimeFurrowEpoch

/-- (T - E) div L before it is cut to 48 bits. -/
def State.furrowZ (s : State) : Int := ((s.time.ns : Int) - s.epoch) / s.furrowLen

/-- The current furrow number F, 48 bits (R65). -/
def State.furrow (s : State) : Nat := wrapInt 48 s.furrowZ

/-- How many furrows `f` lies ahead of `cur`, modulo 2^48. -/
def aheadOf (f cur : Nat) : Nat := (f % 2 ^ 48 + 2 ^ 48 - cur % 2 ^ 48) % 2 ^ 48

/-- `f` plus `k` furrows, 48 bits. -/
def furrowAdd (f k : Nat) : Nat := (f + k) % 2 ^ 48

/-- Whether furrow `f` has been reached, with `cur` the current furrow: it is `cur` or lies behind it. -/
def reached (f cur : Nat) : Bool := aheadOf cur f < 2 ^ 47

/-- The boundary time of furrow `f`: E + f * L, taken at the f that lies at or next after the current furrow. -/
def State.boundary (s : State) (f : Nat) : Int := s.epoch + (s.furrowZ + aheadOf f s.furrow) * s.furrowLen

/-- The guard of R70, 2e in whole nanoseconds, by the current source class; for PPS_IN and for no source the spec states
none. -/
def State.guard (s : State) : Nat :=
  match s.source with
  | 1 => 1
  | 2 => 2
  | 3 => 80
  | 4 => 80
  | src => Config.otherGuard src

/-- The first furrow whose boundary lies at least the guard after now (R108). -/
def State.firstFurrow (s : State) : Nat :=
  let l := s.furrowLen
  let k := (((s.time.ns : Int) + s.guard - s.epoch) + l - 1) / l
  wrapInt 48 (max k (s.furrowZ + 1))

/-- The schedule tests on a target furrow, in the order of R69: late (R70, R71), then the capacity of 1,024 pending events.
The status that refuses, or none. -/
def State.lateOrFull (s : State) (f : Nat) : Option Nat :=
  if 2 ^ 47 ≤ aheadOf f s.furrow then some 0x0202
  else if s.boundary f < s.time.ns + s.guard then some 0x0202
  else if 1024 ≤ s.sched.length then some 0x0201
  else none

/-! ### The counter runs, R53 and R54 -/

/-- Cut to R53's 100 ppm: 6 units of 2^-16 ns in each nanosecond. -/
def clampPpm (x : Int) : Int := max (-6) (min 6 x)

/-- What the slew adds in each nanosecond while an offset is being removed, the whole rate within R53. -/
def slewTerm (corr slew : Int) : Int :=
  let sg : Int := if slew = 0 then 0 else if 0 < slew then 6 else -6
  clampPpm (corr + sg) - corr

/-- What slew removes of an offset in `d` nanoseconds. -/
def slewPart (corr slew : Int) (d : Nat) : Int :=
  let t := slewTerm corr slew * d
  if slew.natAbs ≤ t.natAbs then slew else t

/-- The counter in units of 2^-16 ns. -/
def TimeS.count (t : TimeS) : Int := (t.ns : Int) * 65536 + t.frac

/-- Set the counter, 64 bits of nanoseconds and 16 of fraction (R39). -/
def TimeS.setCount (t : TimeS) (c : Int) : TimeS :=
  let u := wrapInt 80 c
  { t with ns := u / 65536, frac := u % 65536 }

/-- `d` nanoseconds of the board reference pass. -/
def TimeS.run (t : TimeS) (d : Nat) : TimeS :=
  let part := slewPart t.freqCorr t.slew d
  let t' := t.setCount (t.count + (65536 + t.freqCorr) * d + part)
  { t' with refNs := t.refNs + d, slew := t.slew - part }

/-- Nanoseconds of the board reference until the counter has gained `gap` units, rounded up. -/
def TimeS.refFor (t : TimeS) (gap : Int) : Nat :=
  let r := 65536 + t.freqCorr + slewTerm t.freqCorr t.slew
  ((gap + r - 1) / r).toNat

/-- The time passes up to a counter value `c` in units, at which the counter then stands. -/
def TimeS.runTo (t : TimeS) (c : Int) : TimeS :=
  let d := t.refFor (c - t.count)
  let part := slewPart t.freqCorr t.slew d
  { t.setCount c with refNs := t.refNs + d, slew := t.slew - part }

/-- Something is, or may be, waiting for the start of a furrow: a furrow event, a time step, an ordered add, the floor state, a
DEBUG_HALT, a long operation, or any partition with its Balers, grants and furrow waits. -/
def State.furrowDue (s : State) : Bool :=
  !s.sched.isEmpty || s.time.step.isSome || !s.fab.order.isEmpty || s.flag aPwrStatus 49 || !s.ctl.isEmpty
    || s.handles.any (fun e => e.2.state != .done && e.2.state != .cancelled)
    || (below 64).any (fun i => s.flag (aTilePart (i / 4) (i % 4)) 16)

/-- Whether the time may become `t` outside a FURROW_BOUNDARY: it never passes a boundary that something waits for
(notes/assumptions 1). -/
def State.mayPass (s : State) (t : TimeS) : Bool :=
  (t.ns : Int) < s.boundary (furrowAdd s.furrow 1) || (t.ns : Int) ≤ s.time.ns || !s.furrowDue

/-- Nanoseconds in a second. -/
def nsPerSec : Nat := 1000000000

/-- The counter takes a value that it has run to; where it crosses a whole second, PPS_OUT rises, if it is driven (R61, R62). -/
def State.setTime (s : State) (t : TimeS) : State :=
  let s' := { s with time := t }
  if s.time.ns / nsPerSec < t.ns / nsPerSec && s.flag aTimePpsCfg 0 then
    { s' with time := { t with ppsEvent := some (t.ns / nsPerSec, s.quality) }, pins := { s.pins with ppsOut := true } }
  else s'

/-- Time passes up to `t`, unless a furrow boundary stands in between. -/
def State.pass (s : State) (t : TimeS) : State := if s.mayPass t then s.setTime t else s

/-- One nanosecond of the board reference passes: what a step does on an empty queue (notes/assumptions 1). -/
def State.tick (s : State) : State := if s.boot.alive then s.pass (s.time.run 1) else s

end Sys2Proof.Machine
end

