-- ==== Sys2Proof/Machine/Crypto.lean ====
section
/-! DEFINITION. SHA-256 of FIPS 180-4, which the digests of R439 to R448 use, and Philox-4x32-10, which draws the words of
stochastic rounding (R192). All words are 32-bit numbers. -/

namespace Sys2Proof.Machine

/-! ### SHA-256 -/

def m32 (x : Nat) : Nat := x % 2 ^ 32
def rotr32 (x n : Nat) : Nat := m32 ((x >>> n) ||| (x <<< (32 - n)))
def not32 (x : Nat) : Nat := 0xffffffff - m32 x

/-- The round constants: cube roots of the first 64 primes. -/
def shaK : List Nat :=
  [0x428a2f98, 0x71374491, 0xb5c0fbcf, 0xe9b5dba5, 0x3956c25b, 0x59f111f1, 0x923f82a4, 0xab1c5ed5,
   0xd807aa98, 0x12835b01, 0x243185be, 0x550c7dc3, 0x72be5d74, 0x80deb1fe, 0x9bdc06a7, 0xc19bf174,
   0xe49b69c1, 0xefbe4786, 0x0fc19dc6, 0x240ca1cc, 0x2de92c6f, 0x4a7484aa, 0x5cb0a9dc, 0x76f988da,
   0x983e5152, 0xa831c66d, 0xb00327c8, 0xbf597fc7, 0xc6e00bf3, 0xd5a79147, 0x06ca6351, 0x14292967] ++
  [0x27b70a85, 0x2e1b2138, 0x4d2c6dfc, 0x53380d13, 0x650a7354, 0x766a0abb, 0x81c2c92e, 0x92722c85,
   0xa2bfe8a1, 0xa81a664b, 0xc24b8b70, 0xc76c51a3, 0xd192e819, 0xd6990624, 0xf40e3585, 0x106aa070,
   0x19a4c116, 0x1e376c08, 0x2748774c, 0x34b0bcb5, 0x391c0cb3, 0x4ed8aa4a, 0x5b9cca4f, 0x682e6ff3,
   0x748f82ee, 0x78a5636f, 0x84c87814, 0x8cc70208, 0x90befffa, 0xa4506ceb, 0xbef9a3f7, 0xc67178f2]

/-- The initial hash value: square roots of the first 8 primes. -/
def shaInit : List Nat :=
  [0x6a09e667, 0xbb67ae85, 0x3c6ef372, 0xa54ff53a, 0x510e527f, 0x9b05688c, 0x1f83d9ab, 0x5be0cd19]

/-- Extend a schedule, held newest first, by `n` words. -/
def shaExtend : Nat → List Nat → List Nat
  | 0, w => w
  | n + 1, w =>
    let at_ := fun (k : Nat) => w.getD k 0
    let s0 := rotr32 (at_ 14) 7 ^^^ rotr32 (at_ 14) 18 ^^^ (at_ 14 >>> 3)
    let s1 := rotr32 (at_ 1) 17 ^^^ rotr32 (at_ 1) 19 ^^^ (at_ 1 >>> 10)
    shaExtend n (m32 (at_ 15 + s0 + at_ 6 + s1) :: w)

/-- The eight working variables. -/
structure ShaVars where
  a : Nat
  b : Nat
  c : Nat
  d : Nat
  e : Nat
  f : Nat
  g : Nat
  h : Nat
  deriving DecidableEq, Repr

/-- One round. -/
def shaRound (v : ShaVars) (kw : Nat × Nat) : ShaVars :=
  let s1 := rotr32 v.e 6 ^^^ rotr32 v.e 11 ^^^ rotr32 v.e 25
  let ch := (v.e &&& v.f) ^^^ (not32 v.e &&& v.g)
  let t1 := v.h + s1 + ch + kw.1 + kw.2
  let s0 := rotr32 v.a 2 ^^^ rotr32 v.a 13 ^^^ rotr32 v.a 22
  let mj := (v.a &&& v.b) ^^^ (v.a &&& v.c) ^^^ (v.b &&& v.c)
  ⟨m32 (t1 + s0 + mj), v.a, v.b, v.c, m32 (v.d + t1), v.e, v.f, v.g⟩

/-- Big-endian value of bytes. -/
def beNat (bs : List Byte) : Nat := bs.foldl (fun x b => 256 * x + b.toNat) 0

/-- The low `n` bytes of a number, most significant first. -/
def beBytes (n x : Nat) : List Byte := (leBytes n x).reverse

/-- The words of a block, newest first. -/
def shaWords : Nat → List Byte → List Nat → List Nat
  | 0, _, w => w
  | n + 1, bs, w => shaWords n (bs.drop 4) (beNat (bs.take 4) :: w)

/-- One 64-byte block. -/
def shaBlock (h : List Nat) (bs : List Byte) : List Nat :=
  let w := (shaExtend 48 (shaWords 16 bs [])).reverse
  let at_ := fun (k : Nat) => h.getD k 0
  let v := (shaK.zip w).foldl shaRound ⟨at_ 0, at_ 1, at_ 2, at_ 3, at_ 4, at_ 5, at_ 6, at_ 7⟩
  [m32 (at_ 0 + v.a), m32 (at_ 1 + v.b), m32 (at_ 2 + v.c), m32 (at_ 3 + v.d), m32 (at_ 4 + v.e), m32 (at_ 5 + v.f),
   m32 (at_ 6 + v.g), m32 (at_ 7 + v.h)]

/-- The blocks of a padded message; `n` of them. -/
def shaBlocks : Nat → List Byte → List Nat → List Nat
  | 0, _, h => h
  | n + 1, bs, h => shaBlocks n (bs.drop 64) (shaBlock h (bs.take 64))

/-- The padded message. -/
def shaPad (bs : List Byte) : List Byte :=
  bs ++ [0x80] ++ List.replicate ((119 - bs.length % 64) % 64) 0 ++ beBytes 8 (8 * bs.length)

/-- SHA-256 of a byte string, as its 32 bytes in order. -/
def sha256 (bs : List Byte) : List Byte :=
  let p := shaPad bs
  (shaBlocks (p.length / 64) p shaInit).flatMap fun w => beBytes 4 w

/-- A digest as a number whose byte 0 is the digest's first byte. -/
def digestNum (d : List Byte) : BitVec 256 := BitVec.ofNat 256 (leNat d)

/-! ### Philox-4x32-10 -/

/-- A counter of four words and a key of two. -/
def philoxRounds : Nat → Nat × Nat × Nat × Nat → Nat × Nat → Nat × Nat × Nat × Nat
  | 0, c, _ => c
  | n + 1, (c0, c1, c2, c3), (k0, k1) =>
    let p0 := 0xD2511F53 * c0
    let p1 := 0xCD9E8D57 * c2
    philoxRounds n (p1 / 2 ^ 32 ^^^ c1 ^^^ k0, m32 p1, p0 / 2 ^ 32 ^^^ c3 ^^^ k1, m32 p0)
      (m32 (k0 + 0x9E3779B9), m32 (k1 + 0xBB67AE85))

/-- The first output word for a 128-bit counter and a 64-bit key. -/
def philox (ctr key : Nat) : Nat × Nat × Nat × Nat :=
  philoxRounds 10 (m32 ctr, m32 (ctr / 2 ^ 32), m32 (ctr / 2 ^ 64), m32 (ctr / 2 ^ 96)) (m32 key, m32 (key / 2 ^ 32))

end Sys2Proof.Machine
end

