-- ==== Sys2Proof/Machine/TilePage.lean ====
section
/-! DEFINITION. A tile's register page (the fourth MiB of its window, R28): what each register reads as, and what a write to
the page changes. -/

namespace Sys2Proof.Machine

/-- The state code of TILE_STATUS; a tile that DEBUG_HALT holds reads SUSPENDED (R115). -/
def Tile.code (t : Tile) : Nat :=
  if t.retired then 7
  else if t.debug then 3
  else if t.gated then 6
  else
    match t.run with
    | .idle => 0
    | .running => 1
    | .suspending => 2
    | .suspended => 3
    | .halted => 4
    | .exception => 5

/-- The tokens tk`lo` to tk`lo + 7`, 8 bits each (R136). -/
def Tile.tokens (t : Tile) (lo : Nat) : Nat := ((below 8).map fun i => sget 0 t.tok (lo + i) * 2 ^ (8 * i)).sum

/-- A register of the page by its offset, with `busy` the Shuttle's requests in flight; the bundle buffer lies at 0x1_0000. -/
def Tile.pageReg (t : Tile) (busy o : Nat) : Nat :=
  if 0x10000 ≤ o && o < 0x20000 then
    ((sget 0 t.bundles ((o - 0x10000) / 16)).toNat >>> (64 * (o / 8 % 2))) % 2 ^ 64
  else
    match o with
    | 0x00 =>
      b2n t.writeRefused * 2 ^ 63 + b2n t.furrowLate * 2 ^ 62 + b2n t.excMore * 2 ^ 61 + t.safeptLast * 2 ^ 32
        + t.lateCount * 2 ^ 16 + t.code
    | 0x08 => t.exc.toNat
    | 0x10 => t.pc % 4096
    | 0x18 => t.bias
    | 0x20 => t.tokens 0
    | 0x28 => t.tokens 8
    | 0x30 =>
      b2n t.mx.accSat * 2 ^ 63 + b2n t.mx.accNonfinite * 2 ^ 62 + t.mx.spillCount * 2 ^ 32
        + t.mx.accLive.toNat * 2 ^ 16 + t.mx.bayValid.toNat * 2 ^ 8
    | 0x38 => min t.bal.released 65535 * 2 ^ 48 + t.bal.fullStalls * 2 ^ 32 + t.bal.used.length
    | 0x40 => t.vec.mode.toNat
    | 0x48 => b2n t.mx.combLive * 256 + t.vec.flags.toNat
    | 0x50 => ((below 4).map fun i => (sget 0 t.vec.qe i).toNat * 2 ^ (12 * i)).sum
    | 0x58 => t.vec.seed.toNat
    | 0x60 => t.vec.sr.toNat
    | 0x68 =>
      b2n t.sh.poisonSeen * 2 ^ 63 + b2n t.sh.unpopSeen * 2 ^ 62 + b2n t.sh.realigned * 2 ^ 61
        + t.sh.idxSkipped * 2 ^ 32 + t.sh.collHeld * 2 ^ 16 + busy
    | _ => 0

/-- Read inside the page: any naturally aligned 4 or 8 bytes of a register, or bytes of the bundle buffer. -/
def Tile.pageRead (t : Tile) (busy o n : Nat) : List Byte :=
  (below n).map fun i => BitVec.ofNat 8 (t.pageReg busy ((o + i) - (o + i) % 8) >>> (8 * ((o + i) % 8)))

/-- The W1C bits of a page register. -/
def pageW1c (o : Nat) : Nat :=
  match o with
  | 0x00 => 2 ^ 63 + 2 ^ 62 + 2 ^ 61
  | 0x30 => 2 ^ 63 + 2 ^ 62
  | 0x48 => 127
  | 0x68 => 2 ^ 63 + 2 ^ 62 + 2 ^ 61
  | _ => 0

/-- Clear the W1C bits of the register at `o` that are 1 in `x`. -/
def Tile.pageClear (t : Tile) (o x : Nat) : Tile :=
  let y := x &&& pageW1c o
  match o with
  | 0x00 =>
    { t with
      writeRefused := t.writeRefused && !bit y 63, furrowLate := t.furrowLate && !bit y 62
      excMore := t.excMore && !bit y 61 }
  | 0x30 =>
    { t with mx := { t.mx with accSat := t.mx.accSat && !bit y 63, accNonfinite := t.mx.accNonfinite && !bit y 62 } }
  | 0x48 => { t with vec := { t.vec with flags := BitVec.ofNat 8 (t.vec.flags.toNat - (t.vec.flags.toNat &&& y)) } }
  | 0x68 =>
    { t with
      sh :=
        { t.sh with
          poisonSeen := t.sh.poisonSeen && !bit y 63, unpopSeen := t.sh.unpopSeen && !bit y 62
          realigned := t.sh.realigned && !bit y 61 } }
  | _ => t

/-- One byte of a page write that the tile accepts. -/
def Tile.pageByte (t : Tile) (o : Nat) (b : Byte) : Tile :=
  if 0x10000 ≤ o && o < 0x20000 then
    let i := (o - 0x10000) / 16
    let k := 8 * (o % 16)
    { t with bundles := sput 0 t.bundles i (BitVec.ofNat 128 (setBits (sget 0 t.bundles i).toNat (k + 7) k b.toNat)) }
  else t.pageClear (o - o % 8) (b.toNat <<< (8 * (o % 8)))

/-- Whether the tile takes a write to its page: not while RUNNING, SUSPENDING or SUSPENDED, and to the bundle buffer only in
IDLE, HALTED and EXCEPTION. -/
def Tile.pageOpen (t : Tile) (o : Nat) : Bool :=
  if 0x10000 ≤ o && o < 0x20000 then t.code == 0 || t.code == 4 || t.code == 5
  else !(1 ≤ t.code && t.code ≤ 3)

/-- Write bytes from page offset `o` up; a write that the tile does not take is discarded and sets tile_write_refused. -/
def Tile.pageWrite (t : Tile) (o : Nat) (bs : List Byte) : Tile :=
  if t.pageOpen o then (bs.foldl (fun r b => (r.1.pageByte r.2 b, r.2 + 1)) (t, o)).1
  else { t with writeRefused := true }

end Sys2Proof.Machine
end

