-- ==== Sys2Proof/Machine/Ops.lean ====
section
/-! DEFINITION. The operations that every block shares: partitions and the logical tile map, populated memory and poison,
interrupts to user cores, error records, timing events and breaches, status records and the journal, handles. -/

namespace Sys2Proof.Machine

/-- A list index as an option, for lists of any type. -/
def nth {α : Type} : List α → Nat → Option α
  | [], _ => none
  | x :: _, 0 => some x
  | _ :: xs, n + 1 => nth xs n

/-! ### Tiles and partitions -/

/-- The package runs: every domain is up and boot is done. -/
def State.up (s : State) : Bool := s.boot.alive && s.boot.phase == 7

/-- Physical tile that logical tile `n` of die `d` is mapped to, as 156 * die + physical (R468); the map holds 1 more than the
physical index, and 0 where the logical number is unmapped. -/
def State.mapped? (s : State) (d n : Nat) : Option Nat :=
  match sget 0 s.ras.map (156 * d + n) with
  | 0 => none
  | k + 1 => some (156 * d + k)

/-- Whether a physical tile serves some logical number. -/
def State.isMapped (s : State) (k : Nat) : Bool :=
  s.ras.map.any fun e => e.1 / 156 == k / 156 && e.2 == k % 156 + 1

/-- The logical number of a physical tile, if it has one. -/
def State.logical? (s : State) (k : Nat) : Option Nat :=
  (s.ras.map.find? fun e => e.1 / 156 == k / 156 && e.2 == k % 156 + 1).map fun e => e.1 % 156

/-- Partition `p` has tiles on die `d`: first logical number and count of TILE_PART. -/
def State.partRun (s : State) (p d : Nat) : Option (Nat × Nat) :=
  if s.flag (aTilePart p d) 16 then some (s.fld (aTilePart p d) 7 0, s.fld (aTilePart p d) 15 8) else none

/-- Logical tiles of partition `p`, die by die in rising logical number: die and logical number. -/
def State.partLogical (s : State) (p : Nat) : List (Nat × Nat) :=
  (below 4).flatMap fun d =>
    match s.partRun p d with
    | some (f, n) => (upFrom f n).map fun l => (d, l)
    | none => []

/-- Physical tiles of partition `p`. -/
def State.partTiles (s : State) (p : Nat) : List Nat :=
  (s.partLogical p).filterMap fun e => s.mapped? e.1 e.2

/-- Partition `p` exists: a PART_CREATE wrote it and no PART_DELETE cleared it. -/
def State.partExists (s : State) (p : Nat) : Bool := p < 16 && (below 4).any fun d => (s.partRun p d).isSome

/-- The partition of a physical tile, R147. -/
def State.tilePart? (s : State) (k : Nat) : Option Nat :=
  match s.logical? k with
  | none => none
  | some l =>
    (below 16).find? fun p =>
      match s.partRun p (k / 156) with
      | some (f, n) => f ≤ l && l < f + n
      | none => false

/-- Partition of user core `c`. -/
def State.corePart (s : State) (c : Nat) : Nat := s.fld (aCpuCoreCfg c) 3 0

/-- User cores of partition `p`. -/
def State.partCores (s : State) (p : Nat) : List Nat := (below 96).filter fun c => s.corePart c == p

/-- global_det, R430. -/
def State.globalDet (s : State) : Bool := s.flag aDevMode 0

/-- package_id. -/
def State.pkgId (s : State) : Nat := s.fld aDevPkgAddr 15 0

/-- buddy_pkg; 0 none. -/
def State.buddy (s : State) : Nat := s.fld aFabCfg 63 48

/-- Pending, running or suspended: a long operation in progress. -/
def HState.live : HState → Bool
  | .done => false
  | .cancelled => false
  | _ => true

/-- Partition `p` has a long operation in progress. -/
def State.longOp (s : State) (p : Nat) : Bool := s.handles.any fun e => e.2.state.live && e.2.part == p

/-- Any partition has a long operation in progress. -/
def State.anyLongOp (s : State) : Bool := s.handles.any fun e => e.2.state.live

/-! ### Address map, R27 to R29 and R539 -/

/-- What a local address reaches. -/
inductive Region where
  | hbm
  | tileStore (k off : Nat)
  | tilePage (k off : Nat)
  | retA (off : Nat)
  | retB (off : Nat)
  | ctl (off : Nat)
  | rom (off : Nat)
  | flash (off : Nat)
  | none
  deriving DecidableEq, Repr

/-- First address beyond populated HBM, R293. -/
def hbmEnd : Nat := 384000000000

/-- The region of a local address. The window of a spare that is not mapped in, and of a retired tile, is unpopulated (R29). -/
def State.region (s : State) (a : Nat) : Region :=
  if a < hbmEnd then .hbm
  else if 0x8000000000 ≤ a && a < 0x8100000000 then
    let d := (a - 0x8000000000) / 0x40000000
    let w := (a - 0x8000000000) % 0x40000000
    let i := w / 0x400000
    let o := w % 0x400000
    if 156 ≤ i || (s.tile (156 * d + i)).retired || !(s.isMapped (156 * d + i)) then .none
    else if o < 0x300000 then .tileStore (156 * d + i) o
    else .tilePage (156 * d + i) (o - 0x300000)
  else if 0x8100000000 ≤ a && a < 0x8102000000 then .retA (a - 0x8100000000)
  else if 0x8102000000 ≤ a && a < 0x8104000000 then .retB (a - 0x8102000000)
  else if 0x8200000000 ≤ a && a < 0x8204000000 then .ctl (a - 0x8200000000)
  else if 0x8300000000 ≤ a && a < 0x8300040000 then .rom (a - 0x8300000000)
  else if 0x8310000000 ≤ a && a < 0x8320000000 then .flash (a - 0x8310000000)
  else .none

/-- Base of the window of tile `k`, R28. -/
def tileBase (k : Nat) : Nat := 0x8000000000 + (k / 156) * 0x40000000 + (k % 156) * 0x400000

/-- Stack of a populated address, R294. -/
def hbmStack (a : Nat) : Nat := (a / 256 % 8) ^^^ foldBits 3 16 (a / 2048)

/-- Pseudo-channel of a populated address, R294. -/
def hbmPc (a : Nat) : Nat := (a / 2048 % 32) ^^^ foldBits 5 10 (a / 65536)

/-! ### HBM, R297 and R298 -/

/-- Whether the 64-byte block of an address is poisoned. -/
def HbmS.poisoned (h : HbmS) (a : Nat) : Bool := sget false h.poison (a / 64)

/-- Whether any block of [a, a + n) is poisoned. -/
def HbmS.anyPoison (h : HbmS) (a n : Nat) : Bool :=
  n != 0 && h.poison.any fun e => e.2 && a / 64 ≤ e.1 && e.1 ≤ (a + n - 1) / 64

/-- Write within one block: a whole block stores and clears the poison, fewer bytes into a poisoned block are discarded. -/
def HbmS.writeBlock (h : HbmS) (a : Nat) (bs : List Byte) : HbmS :=
  if a % 64 = 0 && bs.length = 64 then { h with mem := mwrite h.mem a bs, poison := sput false h.poison (a / 64) false }
  else if h.poisoned a then h
  else { h with mem := mwrite h.mem a bs }

/-- Cut [a, a + bytes) at 64-byte boundaries; `fuel` pieces are enough. -/
def pieces64 : Nat → Nat → List Byte → List (Nat × List Byte)
  | 0, _, _ => []
  | fuel + 1, a, bs =>
    if bs.isEmpty then []
    else
      let n := 64 - a % 64
      (a, bs.take n) :: pieces64 fuel (a + n) (bs.drop n)

/-- Write bytes to populated HBM, block by block. -/
def HbmS.write (h : HbmS) (a : Nat) (bs : List Byte) : HbmS :=
  (pieces64 (bs.length / 64 + 2) a bs).foldl (fun h p => h.writeBlock p.1 p.2) h

/-- Whether a 4 KiB page lies in a used region of partition `p`, with the registers of CKPT_REGION or of DET_REGION. -/
def State.inRegion (s : State) (base len : Nat → Nat → Nat) (p page : Nat) : Bool :=
  (below 8).any fun n =>
    s.fld (base p n) 1 0 != 0 && s.fld (base p n) 47 12 ≤ page && page < s.fld (base p n) 47 12 + s.fld (len p n) 27 0

/-- SHA-256 of one 4 KiB chunk of HBM: a leaf of R440. -/
def HbmS.leaf (h : HbmS) (page : Nat) : BitVec 256 := digestNum (sha256 (mread h.mem (4096 * page) 4096))

/-- The digest engine hashes a chunk for the operation with handle `w`, unless it has (R441). -/
def State.hashChunk (s : State) (w page : Nat) : State :=
  match sfind? s.digRun w with
  | none => s
  | some d =>
    if s.inRegion aDetRegionBase aDetRegionLen d.part page && (sfind? d.leaves page).isNone then
      { s with digRun := sins s.digRun w { d with leaves := sins d.leaves page (s.hbm.leaf page) } }
    else s

/-- Mark a written page for the next seal of every partition in one of whose regions it lies (R454). -/
def State.markDirty (s : State) (page : Nat) : State :=
  if s.regs.any fun e => 0xe02000 ≤ e.1 && e.1 < 0xe02800 then
    (below 16).foldl
      (fun s p =>
        if s.inRegion aCkptRegionBase aCkptRegionLen p page then
          { s with ckpt := { s.ckpt with dirty := sput false s.ckpt.dirty (p * 2 ^ 28 + page) true } }
        else s) s
  else s

/-- Write bytes to populated HBM: a chunk that a digest still has to hash is hashed first (R441), and a written chunk is
marked for the next seal (R454). -/
def State.hbmPut (s : State) (a : Nat) (bs : List Byte) : State :=
  if bs.isEmpty then s
  else
    let pages := upFrom (a / 4096) ((a + bs.length - 1) / 4096 + 1 - a / 4096)
    let s := s.digRun.foldl (fun s e => pages.foldl (fun s g => s.hashChunk e.1 g) s) s
    let s := { s with hbm := s.hbm.write a bs }
    pages.foldl State.markDirty s

/-! ### Plain memory: everything that answers with bytes and no side effect -/

/-- Bytes of the QSPI flash and the boot ROM. -/
def romRead : Nat → Nat → List Byte
  | _, 0 => []
  | o, n + 1 => Config.romByte o :: romRead (o + 1) n

/-- Outcome of a read: its bytes (zeros where nothing answered), and whether it met unpopulated or poisoned memory. -/
structure LRead where
  data : List Byte
  unpop : Bool
  poison : Bool
  deriving DecidableEq, Repr

def zeros (n : Nat) : List Byte := List.replicate n 0

/-- Requests of a tile's Shuttle that have left for other packages and have no response (R253). -/
def State.tileInFlight (s : State) (k : Nat) : Nat :=
  (s.fab.outst.filter fun o => o.link != 255 && o.hdr.engine.toNat == k).length

/-- Read inside one 64-byte block, registers apart: HBM, tile stores and pages, ROM, flash; a steward or the lab also reads retention
SRAM (`ret`), every other requester finds it unpopulated (R539). -/
def State.readPiece (s : State) (ret : Bool) (a n : Nat) : LRead :=
  match s.region a with
  | .hbm => if s.hbm.poisoned a then ⟨zeros n, false, true⟩ else ⟨mread s.hbm.mem a n, false, false⟩
  | .tileStore k o => ⟨mread (s.tile k).store o n, false, false⟩
  | .tilePage k o => ⟨(s.tile k).pageRead (s.tileInFlight k) o n, false, false⟩
  | .retA o => if ret then ⟨mread s.retA o n, false, false⟩ else ⟨zeros n, true, false⟩
  | .retB o => if ret then ⟨mread s.retB o n, false, false⟩ else ⟨zeros n, true, false⟩
  | .rom o => ⟨romRead o n, false, false⟩
  | .flash o => ⟨mread s.boot.flash o n, false, false⟩
  | _ => ⟨zeros n, true, false⟩

/-- Join two reads. -/
def LRead.join (x y : LRead) : LRead := ⟨x.data ++ y.data, x.unpop || y.unpop, x.poison || y.poison⟩

/-- Cut [a, a + n) at 64-byte boundaries. -/
def spans64 : Nat → Nat → Nat → List (Nat × Nat)
  | 0, _, _ => []
  | fuel + 1, a, n =>
    if n = 0 then []
    else
      let k := min n (64 - a % 64)
      (a, k) :: spans64 fuel (a + k) (n - k)

/-- Read `n` bytes, registers apart. -/
def State.readMem (s : State) (ret : Bool) (a n : Nat) : LRead :=
  (spans64 (n / 64 + 2) a n).foldl (fun r p => r.join (s.readPiece ret p.1 p.2)) ⟨[], false, false⟩

/-- Write inside one 64-byte block, registers apart; the result says whether it reached memory. -/
def State.writePiece (s : State) (a : Nat) (bs : List Byte) : State × Bool :=
  match s.region a with
  | .hbm => (s.hbmPut a bs, true)
  | .tileStore k o => (s.modTile k fun t => { t with store := mwrite t.store o bs }, true)
  | .tilePage k o => (s.modTile k fun t => t.pageWrite o bs, true)
  | _ => (s, false)

/-- Write bytes, registers apart: what does not exist, is read-only, or is retention SRAM discards them (R29, R539). -/
def State.writeMem (s : State) (a : Nat) (bs : List Byte) : State × Bool :=
  (pieces64 (bs.length / 64 + 2) a bs).foldl
    (fun r p => let w := r.1.writePiece p.1 p.2; (w.1, r.2 && w.2)) (s, true)

/-! ### Interrupts to user cores, R325 and R326 -/

/-- Make interrupt cause 0x20 + i pending at core `c`; WFI ends when one is pending (R338). -/
def State.raiseIrq (s : State) (c i val : Nat) : State :=
  s.modCore c fun k =>
    { k with
      ip := BitVec.ofNat 5 (k.ip.toNat ||| 2 ^ i)
      ival := sput 0 k.ival i (BitVec.ofNat 64 val)
      run := if k.run = .wfi then .running else k.run }

/-- A started thread: running, or waiting in WFI. -/
def Cpu.started (k : Cpu) : Bool := k.run == .running || k.run == .wfi

/-- Raise an interrupt at every started core of a partition. -/
def State.raisePart (s : State) (p i val : Nat) : State :=
  ((s.partCores p).filter fun c => (s.core c).started).foldl (fun s c => s.raiseIrq c i val) s

/-! ### Error records, R482 and R483 -/

/-- What an error record says beyond what the package adds itself. -/
structure Err where
  event : Nat
  cls : Nat
  /-- severity, where the rule that raises the record states it -/
  sev : Option Nat
  part : Option Nat
  loc : Nat
  addr : Nat
  data : List Byte
  deriving DecidableEq, Repr

/-- The 64 bytes of a record, R482; a severity that no rule states is a free value. -/
def errBytes (s : State) (idx : Nat) (e : Err) : List Byte :=
  leBytes 1 e.event ++ leBytes 1 e.cls ++ leBytes 1 (e.sev.getD s.free1)
    ++ leBytes 1 (s.quality + 4 * b2n e.part.isSome) ++ leBytes 1 (e.part.getD 0) ++ zeros 3
    ++ leBytes 4 idx ++ leBytes 4 e.loc ++ leBytes 6 s.furrow ++ zeros 2 ++ leBytes 8 s.time.ns
    ++ leBytes 8 e.addr ++ ((e.data ++ zeros 24).take 24)

/-- Write an error record: kept among the last 1,024, err_new set, the MSI-X vector of RAS_CFG raised, ERROR_NOTICE raised at
the running cores of the partition that it names. -/
def State.errRecord (s : State) (e : Err) : State :=
  let idx := s.fld aRasStatus 31 0
  let rec1 := BitVec.ofNat 512 (leNat (errBytes s idx e))
  let s := if e.sev.isNone then s.freed else s
  let all := s.ras.recs ++ [(idx, rec1)]
  let s := { s with ras := { s.ras with recs := all.drop (all.length - 1024) } }
  let s := ((s.setFld aRasStatus 31 0 (idx + 1)).setFlag aRasStatus 62).emit (.msix (s.fld aRasCfg 58 48))
  match e.part with
  | some p => s.raisePart p 4 idx
  | none => s

/-- Location field of a tile. -/
def locTile (s : State) (k : Nat) : Nat := (k / 156) * 2 ^ 24 + (k % 156) * 2 ^ 16 + ((s.logical? k).getD 0) * 2 ^ 8

/-! ### Timing events, R438 -/

/-- Put an entry at ring index `pos`, below those of the same furrow with a higher kind. -/
def detPut : Nat → State → Nat → Nat → Nat → State
  | 0, s, pos, w0, w1 => (s.wr (aDetEvent0 pos) w0).wr (aDetEvent1 pos) w1
  | fuel + 1, s, pos, w0, w1 =>
    let prev := (pos + 63) % 64
    let p0 := s.rd (aDetEvent0 prev)
    if bits p0 63 60 ≠ 0 ∧ bits p0 47 0 = bits w0 47 0 ∧ bits w0 63 60 < bits p0 63 60 then
      detPut fuel ((s.wr (aDetEvent0 pos) p0).wr (aDetEvent1 pos) (s.rd (aDetEvent1 prev))) prev w0 w1
    else (s.wr (aDetEvent0 pos) w0).wr (aDetEvent1 pos) w1

/-- Write a timing event: kind, the partition or all of them, and the stack, link or die. -/
def State.detEvent (s : State) (kind : Nat) (part : Option Nat) (detail : Nat) : State :=
  let w0 := kind * 2 ^ 60 + (part.getD 0) * 2 ^ 56 + b2n part.isNone * 2 ^ 55 + (detail % 128) * 2 ^ 48 + s.furrow
  let pos := s.fld aDetStatus 21 16
  let s := detPut 63 s pos w0 s.quality
  ((s.setFld aDetStatus 21 16 ((pos + 1) % 64)).countFld aDetStatus 15 0 1).setFlag aDetStatus 62

/-! ### Queues, rings and status records, R88 to R95 -/

def State.qEnabled (s : State) (q : Nat) : Bool := q < 64 && s.flag (aIntkQCfg q) 63
def State.qPort (s : State) (q : Nat) : Nat := s.fld (aIntkQCfg q) 62 60
def State.qPart (s : State) (q : Nat) : Nat := s.fld (aIntkQCfg q) 59 56
def State.cqSize (s : State) (q : Nat) : Nat := 2 ^ s.fld (aIntkQCfg q) 35 32
def State.rrSize (s : State) (q : Nat) : Nat := 2 ^ s.fld (aIntkQCfg q) 31 28

/-- R540: whether an address that stands in place of data names host memory (true) or a local address (false); none when it
breaks the table. -/
def dmaKind (port addr : Nat) : Option Bool :=
  if port ≤ 1 then
    if bit addr 63 then (if bits addr 62 48 = 0 then some false else none) else some true
  else if bits addr 63 48 = 0 then some false else none

/-- Write bytes at such an address: a DMA write through the function that owns the queue, or local memory. -/
def State.dmaWrite (s : State) (q addr : Nat) (bs : List Byte) : State :=
  match dmaKind (s.qPort q) addr with
  | some true => s.emit (.dma q addr bs)
  | some false => (s.writeMem (bits addr 47 0) bs).1
  | none => s

/-- The fields of a packet, R77. -/
def pOpcode (p : W512) : Nat := bytesOf p 0 2
def pQueue (p : W512) : Nat := bytesOf p 2 1
def pFlags (p : W512) : Nat := bytesOf p 3 1
def pSeq (p : W512) : Nat := bytesOf p 4 6
def pParamLen (p : W512) : Nat := bytesOf p 10 2
def pTarget (p : W512) : Nat := bytesOf p 12 4
def pFurrow (p : W512) : Nat := bytesOf p 56 6
def pAtFurrow (p : W512) : Bool := bit (pFlags p) 0
def pFence (p : W512) : Bool := bit (pFlags p) 1
def pQuiet (p : W512) : Bool := bit (pFlags p) 2
def pPtr (p : W512) : Bool := bit (pFlags p) 3

/-- The journal entry of a sequence number, if it is not released. -/
def Queue.entry? (v : Queue) (seq : Nat) : Option Entry := v.entries.find? fun e => e.seq == seq

/-- Change the journal entry of a sequence number. -/
def Queue.modEntry (v : Queue) (seq : Nat) (f : Entry → Entry) : Queue :=
  { v with entries := v.entries.map fun e => if e.seq = seq then f e else e }

/-- R88: one less than the lowest sequence number that is neither anchored nor final; a released entry is both. -/
def Queue.anchTo (v : Queue) : Nat :=
  (v.entries.filter fun e => !e.anchored && e.stage != .done).foldl (fun m e => min m (e.seq - 1)) (v.nextSeq - 1)

/-- Recompute anchored_through; when it advances a receipt is due (R90). -/
def State.anchor (s : State) (q : Nat) : State :=
  let v := s.queue q
  let a := max v.anch v.anchTo
  if a = v.anch then s
  else s.setQueue q { v with anch := a, receipt := some (s.time.ns, s.quality) }

/-- A command reached its final status (R88): released at once without a buddy, otherwise its retire mark is sent (R91, op
0x31 of R455). -/
def State.entryFinal (s : State) (q seq : Nat) : State :=
  let v := s.queue q
  match v.entry? seq with
  | none => s
  | some _ =>
    if s.buddy = 0 then
      (s.setQueue q { v with entries := v.entries.filter fun e => e.seq != seq }).anchor q
    else ((s.setQueue q (v.modEntry seq fun e => { e with stage := .done })).emit (.mirror 0x31 [q, seq])).anchor q

/-- Bytes of a status record, R92. -/
def recBytes (r : Rec) (furrow quality : Nat) (phase : Bool) : List Byte :=
  leBytes 2 r.status.toNat ++ leBytes 1 r.queue ++ leBytes 1 r.port ++ leBytes 6 r.seq ++ leBytes 2 r.opcode.toNat
    ++ leBytes 4 r.handle.toNat ++ leBytes 8 r.detail.toNat ++ leBytes 6 furrow ++ leBytes 1 quality
    ++ leBytes 1 (b2n phase + 2 * b2n r.final + 4 * b2n r.restated)

/-- The completion ring holds 2^cq_log2 - 1 unread records (R94). -/
def State.ringFull (s : State) (q : Nat) : Bool :=
  ((s.queue q).cqPos + 1) % s.cqSize q == s.fld (aIntkQCqHead q) 14 0 % s.cqSize q

/-- Write one record at the ring position, step the position, raise or note the MSI-X vector (R95). -/
def State.writeRec (s : State) (r : Rec) : State :=
  let q := r.queue
  let v := s.queue q
  let s := s.dmaWrite q (s.fld (aIntkQCqBase q) 63 12 * 4096 + 32 * v.cqPos) (recBytes r s.furrow s.quality v.cqPhase)
  let pos := (v.cqPos + 1) % s.cqSize q
  let hold := s.fld aIntkCfg 44 13
  let s := s.modQueue q fun v =>
    { v with cqPos := pos, cqPhase := if pos = 0 then !v.cqPhase else v.cqPhase, msixDue := v.msixDue || hold != 0 }
  let s := if hold = 0 then s.emit (.msix (s.fld (aIntkQCfg q) 55 45)) else s
  let s := s.modQueue q fun v => v.modEntry r.seq fun e => { e with recs := e.recs ++ [r] }
  if r.final then s.entryFinal q r.seq else s

/-- A record is written, or held while the ring is full (R94). -/
def State.postRec (s : State) (r : Rec) : State :=
  if (s.queue r.queue).held.isEmpty && !(s.ringFull r.queue) then s.writeRec r
  else s.modQueue r.queue fun v => { v with held := v.held ++ [r] }

/-- Write held records while there is room. -/
def flushHeld : Nat → State → Nat → State
  | 0, s, _ => s
  | fuel + 1, s, q =>
    match (s.queue q).held with
    | [] => s
    | r :: rs => if s.ringFull q then s else flushHeld fuel ((s.modQueue q fun v => { v with held := rs }).writeRec r) q

/-- The record of a command: its queue, port, sequence and opcode with a status, a handle and a detail. -/
def State.mkRec (s : State) (q seq status handle detail : Nat) (final : Bool) : Rec :=
  let e := (s.queue q).entry? seq
  { status := BitVec.ofNat 16 status, queue := q, port := s.qPort q, seq := seq
    opcode := BitVec.ofNat 16 ((e.map fun e => pOpcode e.pkt).getD 0), handle := BitVec.ofNat 32 handle
    detail := BitVec.ofNat 64 detail, furrow := 0, quality := 0, final := final
    restated := (e.map fun e => e.restated).getD false }

/-- The final record of a command; none when it succeeds with quiet set (R78, R84). -/
def State.finish (s : State) (q seq status handle detail : Nat) : State :=
  let quiet := (((s.queue q).entry? seq).map fun e => pQuiet e.pkt).getD false
  let s := s.modQueue q fun v => v.modEntry seq fun e => { e with stage := .started }
  if quiet && status = 0 then s.entryFinal q seq
  else s.postRec (s.mkRec q seq status handle detail true)

/-- Commands accepted and not yet anchored, over all queues (R89). -/
def State.unanchored (s : State) : Nat :=
  (s.queues.map fun e => (e.2.entries.filter fun x => !x.anchored).length).sum

/-! ### Breaches, R487 -/

/-- Words 0 to 3 of a breach entry. -/
def State.breachWord (s : State) (n w : Nat) : Nat := s.rd (aRasBreach0 n + 8 * w)

/-- The entry of this millisecond for a cause and a pair of partitions. -/
def State.breachOf (s : State) (cause lower higher : Nat) : Option Nat :=
  (below 256).find? fun n =>
    let w := s.breachWord n 0
    bits w 59 56 == cause && bits w 55 52 == lower && bits w 51 48 == higher
      && s.time.ns < s.breachWord n 2 + 1000000

/-- A RAS_BREACH record at the lowest-numbered enabled queue of a partition. -/
def State.breachRec (s : State) (p idx : Nat) : State :=
  match (below 64).find? fun q => s.qEnabled q && s.qPart q == p with
  | some q => s.postRec (s.mkRec q 0 0x1001 0 idx true)
  | none => s

/-- A guarantee yielded: an entry and a record for each partition involved, or one more occurrence of the entry of this
millisecond. `place` is the link or stack number, 0xFF when package-wide. -/
def State.breach (s : State) (cause lower higher place : Nat) : State :=
  match s.breachOf cause lower higher with
  | some n => s.countFld (aRasBreach0 n + 8) 31 0 1
  | none =>
    let k := s.fld aRasBreachPtr 31 0
    let n := k % 256
    let a := aRasBreach0 n
    let s := s.wr a (cause * 2 ^ 56 + lower * 2 ^ 52 + higher * 2 ^ 48 + s.furrow)
    let s := s.wr (a + 8) 1
    let s := s.wr (a + 16) s.time.ns
    let s := s.wr (a + 24) (s.quality * 256 + place)
    let s := (s.setFld aRasBreachPtr 31 0 (k + 1)).setFlag aRasStatus 61
    let s := s.breachRec lower n
    if higher = lower then s else s.breachRec higher n

/-! ### Handles, R98 -/

/-- The handle word of a slot. -/
def handleWord (gen part slot : Nat) : Nat := gen * 2 ^ 16 + part * 2 ^ 12 + slot

/-- The lowest-numbered free slot from `i` up, of `fuel` slots. -/
def freeSlot : Nat → State → Nat → Option Nat
  | 0, _, _ => none
  | fuel + 1, s, i =>
    match s.hslot i with
    | none => some i
    | some h => if h.state.live then freeSlot fuel s (i + 1) else some i

/-- The generation that a slot issues next. -/
def nextGen (s : State) (i : Nat) : Nat :=
  match s.hslot i with
  | none => 1
  | some h => if h.gen = 0xFFFF then 1 else h.gen + 1

/-- The slot that a handle names, when it is the most recent handle of its slot (R98). -/
def State.handle? (s : State) (h : Nat) : Option (Nat × HRec) :=
  match s.hslot (h % 4096) with
  | some r => if r.gen = bits h 31 16 && r.part = bits h 15 12 then some (h % 4096, r) else none
  | none => none

/-- A handle's number: 0 RUNNING to 5 CANCELLED (R103). -/
def HState.code : HState → Nat
  | .running => 0
  | .suspending => 1
  | .suspended => 2
  | .cancelling => 3
  | .done => 4
  | .cancelled => 5

def State.modHslot (s : State) (i : Nat) (f : HRec → HRec) : State :=
  match s.hslot i with
  | some h => s.setHslot i (f h)
  | none => s

/-- Move a handle to a state, with the furrow of the change. -/
def State.hmove (s : State) (i : Nat) (st : HState) : State :=
  s.modHslot i fun h => { h with state := st, lastFurrow := s.furrow }

/-- The handle word of slot `i`. -/
def State.hword (s : State) (i : Nat) : Nat :=
  match s.hslot i with
  | some h => handleWord h.gen h.part i
  | none => 0

end Sys2Proof.Machine
end

