-- ==== Sys2Proof/Machine/TileOps.lean ====
section
/-! DEFINITION. What commands do to whole tiles: loading an image, the start values of a program (R124), halting (R142),
clearing (R108), the save area (R140, R141), and raising an exception (R143, R145). -/

namespace Sys2Proof.Machine

/-! ### The loaded image, R111 -/

/-- Where retention copy B keeps the image of partition `p` (R539). -/
def imageBase (p : Nat) : Nat := 0x1000000 + 0x100000 * p

/-- `n` bytes of the image of partition `p`, as a little-endian number. -/
def State.imageVal (s : State) (p off n : Nat) : Nat := mval s.retB (imageBase p + off) n

/-- Bundle count of the loaded image. -/
def State.imageCount (s : State) (p : Nat) : Nat := s.imageVal p 4 2

/-- Entry index of the loaded image. -/
def State.imageEntry (s : State) (p : Nat) : Nat := s.imageVal p 6 2

/-- The power phase that the image's map gives a safe point (R111, R500), if it names the safe point. -/
def State.imagePhase (s : State) (p number : Nat) : Option Nat :=
  let n := min 16 (s.imageVal p 8 2)
  ((below n).find? fun i => s.imageVal p (1088 + 4 * i) 4 % 2 ^ 14 == number).map
    fun i => bits (s.imageVal p (1088 + 4 * i) 4) 19 16

/-- Descriptor words of the image, key 4 * slot + word. -/
def State.imageDsc (s : State) (p : Nat) : SMap W64 :=
  (below 128).foldl (fun m i => sput 0 m i (BitVec.ofNat 64 (s.imageVal p (64 + 8 * i) 8))) []

/-- Bundles of the image. -/
def State.imageBundles (s : State) (p : Nat) : SMap (BitVec 128) :=
  (below (s.imageCount p)).foldl (fun m i => sput 0 m i (BitVec.ofNat 128 (s.imageVal p (1152 + 16 * i) 16))) []

/-- Reload a tile's bundle buffer and descriptor slots from the loaded image (R111, R141, R471). -/
def State.loadTile (s : State) (p k : Nat) : State :=
  s.modTile k fun t => { t with bundles := s.imageBundles p, dsc := s.imageDsc p }

/-! ### Halt and clear -/

/-- Queues and started instructions are discarded, with everything that waits for them. -/
def Tile.discard (t : Tile) : Tile :=
  { t with
    qm := [], qv := [], qx := [], em := [], ev := [], ex := [], jobs := [], excPend := none, fwait := .free
    atSafe := false }

/-- A tile halted with its queued instructions discarded (R142). -/
def Tile.halt (t : Tile) : Tile := { t.discard with run := .halted, stopped := true, save := none }

/-- Tile store, tile registers, accumulators, combiner and save area cleared to zero (R108). -/
def Tile.clear (t : Tile) : Tile :=
  { t with
    store := [], treg := [], save := none
    mx := { t.mx with acc := [], limbCount := [], comb := [], combFresh := [], combLive := false, accLive := 0 } }

/-- A tile that PART_CREATE hands to a partition: IDLE, cleared, powered (R107). -/
def Tile.create (t : Tile) : Tile := { t.discard.clear with run := .idle, stopped := false, gated := false, debug := false }

/-- A tile that leaves its partition: cleared and power-gated (R109, R147). -/
def Tile.release (t : Tile) : Tile := { t.discard.clear with run := .idle, stopped := false, gated := true, debug := false }

/-- A tile that its Thresher drives: RUNNING at pc 0, and it issues no bundle (R286). -/
def Tile.solve (t : Tile) : Tile := { t.discard with run := .running, stopped := true, pc := 0, save := none }

/-- The Thresher clears a tile at the end of a batch (R284): program data, tile registers, accumulators and combiner. -/
def Tile.solved (t : Tile) : Tile :=
  { t.discard with
    run := .idle, stopped := false, store := sclear t.store 0 0x2E0000, treg := []
    mx := { t.mx with acc := [], limbCount := [], comb := [], combFresh := [], combLive := false, accLive := 0 } }

/-- Halt every tile of a list. -/
def State.haltTiles (s : State) (ks : List Nat) : State := ks.foldl (fun s k => s.modTile k Tile.halt) s

/-! ### The start of a program, R124 -/

/-- Every mask register all ones. -/
def onesMask : SMap (BitVec 1024) := (below 8).map fun i => (i, BitVec.ofNat 1024 (2 ^ 1024 - 1))

/-- The start values of R124 and R223, with s1 to s4 and the partition's stochastic-rounding seed and base; the status
registers that the register tables clear at PROG_RUN are cleared. -/
def Tile.begin (t : Tile) (entry : Nat) (args : List W64) (seed base : W64) : Tile :=
  { t.discard with
    run := .running, stopped := false, save := none, safeptLast := 0, lateCount := 0, exc := 0, pc := entry, bias := 0, issued := 0
    s := (args.foldl (fun r a => (sput 0 r.1 r.2 a, r.2 + 1)) (([] : SMap W64), 1)).1
    tok := [], mreg := onesMask
    mx := { t.mx with accSat := false, accNonfinite := false, spillCount := 0, accLive := 0, bayValid := 0 }
    vec := { mode := 0, flags := 0, qe := [], seed := seed, sr := base }
    bal := Baler.zero, sh := Sh.zero }

/-! ### The save area, R140 and R141 -/

/-- What SAFEPT saves. -/
def Tile.saveArea (t : Tile) : Save :=
  { s := t.s, treg := t.treg, mreg := t.mreg, tok := t.tok, pc := t.pc, bias := t.bias, bay := t.mx.bay
    bayValid := t.mx.bayValid, bal := t.bal, vec := t.vec }

/-- The tile goes on from its save area, its furrow bias advanced by the furrows it was suspended. -/
def Tile.restore (t : Tile) (furrows : Nat) : Tile :=
  match t.save with
  | none => { t with run := .running }
  | some v =>
    { t with
      run := .running, atSafe := false, s := v.s, treg := v.treg, mreg := v.mreg, tok := v.tok, pc := v.pc
      bias := furrowAdd v.bias furrows
      mx := { t.mx with bay := v.bay, bayValid := v.bayValid }
      bal := v.bal, vec := v.vec, save := none }

/-! ### Tokens, R133 to R136 -/

/-- Whether a take can be granted now. -/
def Tile.canTake (t : Tile) (k : Nat) : Bool := k = 0 || sget 0 t.tok k != 0

def Tile.take (t : Tile) (k : Nat) : Tile := if k = 0 then t else { t with tok := sput 0 t.tok k (sget 0 t.tok k - 1) }

/-! ### Exceptions, R143 to R145 -/

/-- The layout of TILE_EXC. -/
def excWord (bundle slot logical die cause : Nat) : Nat :=
  bundle * 2 ^ 32 + slot * 2 ^ 24 + logical * 2 ^ 16 + die * 2 ^ 8 + cause

/-- An exception arises in a slot of the `ord`-th bundle issued: no bundle issues any more and queue entries that have not started
are discarded; EXCEPTION is entered when the started instructions have completed (R144). Of several, the earliest in program order
is kept and exc_more set (R145). -/
def State.tileExc (s : State) (k ord bundle slot cause : Nat) : State :=
  let w := BitVec.ofNat 64 (excWord (bundle % 4096) slot ((s.logical? k).getD 0) (k / 156) cause)
  s.modTile k fun t =>
    let me := (4 * ord + slot, w)
    { t with
      excPend := some (match t.excPend with
        | some v => if v.1 ≤ me.1 then v else me
        | none => me)
      excMore := t.excMore || t.excPend.isSome, stopped := true, fwait := .free, atSafe := false
      qm := [], qv := [], qx := [] }

/-- The fields of a slot word, R128. -/
def slotOp (w : W32) : Nat := bits w.toNat 31 27
def slotTake (w : W32) : Nat := bits w.toNat 26 23
def slotPost (w : W32) : Nat := bits w.toNat 22 19
def slotLow (w : W32) : Nat := bits w.toNat 18 0

/-- An exception of a queue entry; `slot` is 1 M, 2 V, 3 X. -/
def State.entExc (s : State) (k slot : Nat) (e : QEnt) (cause : Nat) : State := s.tileExc k e.ord e.bundle slot cause

/-- Post a token for an instruction of a slot; a post to 255 leaves it and raises TOKEN_OVERFLOW (R136). -/
def State.tilePost (s : State) (k tk ord bundle slot : Nat) : State :=
  if tk = 0 then s
  else if sget 0 (s.tile k).tok tk = 255 then s.tileExc k ord bundle slot 4
  else s.modTile k fun t => { t with tok := sput 0 t.tok tk (sget 0 t.tok tk + 1) }

/-- Post a token `n` times: once for every 4 KiB part, a last partial part included (R164, R262). -/
def tilePostN : Nat → State → Nat → Nat → Nat → QEnt → State
  | 0, s, _, _, _, _ => s
  | n + 1, s, k, tk, slot, e => tilePostN n (s.tilePost k tk e.ord e.bundle slot) k tk slot e

/-- The program furrow, R139. -/
def State.progFurrow (s : State) (t : Tile) : Nat := aheadOf s.furrow t.bias

end Sys2Proof.Machine
end

