-- ==== Sys2Proof/Machine/Digest.lean ====
section
/-! DEFINITION. Shape and mode words (R435, R436) and the digest chain of an operation (R439 to R442). -/

namespace Sys2Proof.Machine

/-- The active tile count in force: DET_EMULATE, or the fused count (R435). -/
def State.active (s : State) : Nat :=
  let e := s.fld aDetEmulate 7 0
  if e = 0 then s.boot.active else e

/-- Static assignment in force for a partition: its register, and always in deterministic mode (R269, R431). -/
def State.staticAssign (s : State) (p : Nat) : Bool := s.globalDet || s.flag (aThrPartCfg p) 0

/-- adaptive_en in force: ignored in deterministic mode (R401, R431). -/
def State.adaptive (s : State) : Bool := s.flag aFabCfg 0 && !s.globalDet

/-- The shape word of a partition, R436. -/
def State.shapeWord (s : State) (p : Nat) : Nat :=
  let cnt := fun (d : Nat) => match s.partRun p d with
    | some (_, n) => n
    | none => 0
  s.active + cnt 0 * 2 ^ 8 + cnt 1 * 2 ^ 16 + cnt 2 * 2 ^ 24 + cnt 3 * 2 ^ 32 + s.fld aDevId 31 28 * 2 ^ 40
    + s.fld aDevId 27 24 * 2 ^ 44

/-- The mode word of a partition, R436. -/
def State.modeWord (s : State) (p : Nat) : Nat :=
  b2n s.globalDet + 2 * b2n (s.staticAssign p) + 4 * b2n s.adaptive + s.boot.release * 2 ^ 32

/-- Bytes of a digest held as a number. -/
def digestBytes (d : BitVec 256) : List Byte := leBytes 32 d.toNat

/-- The image of a partition as PROG_LOAD loaded it. -/
def State.imageBytes (s : State) (p : Nat) : List Byte := mread s.retB (imageBase p) (s.part p).imgLen

/-- A region digest, R440: base, length in bytes, and the leaves in ascending address. -/
def regionDigest (base len : Nat) (leaves : List (BitVec 256)) : List Byte :=
  sha256 (leBytes 8 base ++ leBytes 8 len ++ leaves.flatMap digestBytes)

/-- The used DET_REGION regions of a partition of one class: first page and pages. -/
def State.detRegions (s : State) (p cls : Nat) : List (Nat × Nat) :=
  ((below 8).filter fun n => s.fld (aDetRegionBase p n) 1 0 == cls).map
    fun n => (s.fld (aDetRegionBase p n) 47 12, s.fld (aDetRegionLen p n) 27 0)

/-- A class digest, R440, from the leaves of a run; a chunk without a leaf is hashed as it stands. -/
def State.classDigest (s : State) (d : DigRun) (cls : Nat) : List Byte :=
  sha256 ((s.detRegions d.part cls).flatMap fun r =>
    regionDigest (4096 * r.1) (4096 * r.2)
      ((upFrom r.1 r.2).map fun g => (sfind? d.leaves g).getD (s.hbm.leaf g)))

/-- The parameter bytes of a command: the fetched block, or packet bytes 16 to 55. -/
def paramBytes (pkt : W512) (data : List (List Byte)) : List Byte :=
  if pPtr pkt then data.headD [] else leBytes 40 (bytesOf pkt 16 40)

/-- The five components of R439. -/
def State.digestComps (s : State) (d : DigRun) (program : List Byte) : List (List Byte) :=
  [sha256 (leBytes 8 (s.modeWord d.part)), sha256 (leBytes 8 (s.shapeWord d.part)), sha256 program, s.classDigest d 1,
   s.classDigest d 2]

/-- The chain over numbered components, R439. -/
def chainFrom : Nat → List Byte → List (List Byte) → List Byte
  | _, c, [] => c
  | k, c, x :: xs => chainFrom (k + 1) (sha256 (c ++ leBytes 1 k ++ x)) xs

/-- An operation of a partition with digest_en starts its digest work (R439); one that runs again starts it afresh. -/
def State.digestStart (s : State) (p w : Nat) : State :=
  if p < 16 && s.flag (aDetPartCfg p) 0 then { s with digRun := sins s.digRun w { part := p, leaves := [] } }
  else { s with digRun := sdel s.digRun w }

/-- The digest work ends with the operation: its record is kept among the last 64 (R442), and the first 8 bytes of the chain
stand in place of the detail. -/
def State.digestEnd (s : State) (w detail : Nat) (program : List Byte) : State × Nat :=
  match sfind? s.digRun w with
  | none => (s, detail)
  | some d =>
    let cs := s.digestComps d program
    let chain := chainFrom 1 (zeros 32) cs
    let all := s.digs ++ [{ handle := w, chain := digestNum chain, comps := cs.map digestNum }]
    ({ s with digRun := sdel s.digRun w, digs := all.drop (all.length - 64) }, leNat (chain.take 8))

end Sys2Proof.Machine
end

