-- ==== Sys2Proof/Machine/RegRead.lean ====
section
/-! DEFINITION. Reading a register: the stored fields, and the read-only fields that other state holds (R9 to R13, R33); the
port matrix of R97 as INTK_PERM and INTK_PERM_FN show it. -/

namespace Sys2Proof.Machine

/-! ### The port matrix, R96 and R97 -/

/-- The functions of a group, one bit each (R96). -/
def groupFns (g : Nat) : Nat :=
  match g with
  | 0x0 => 0x7E
  | 0x1 => 0x0E
  | 0x2 => 0x3E
  | 0x3 => 0x0E
  | 0x4 => 0x02
  | 0x5 => 0x0E
  | 0x6 => 0x0E
  | 0x7 => 0x06
  | 0x8 => 0x06
  | 0x9 => 0x0E
  | 0xA => 0x06
  | 0xB => 0x06
  | 0xC => 0x06
  | 0xD => 0x06
  | _ => 0

/-- Functions of a group that the matrix permits on a port: 0 owner, 1 tenant, 2 operator, 3 peer, 4 buddy, 5 lab. -/
def permFns (labBlown : Bool) (g port : Nat) : Nat :=
  match port with
  | 0 => if g = 0xC || g = 0xD then 0 else groupFns g
  | 1 =>
    match g with
    | 0x0 => groupFns 0
    | 0x2 => 0x1C
    | 0x3 => groupFns 3
    | 0x4 => groupFns 4
    | 0x5 => groupFns 5
    | 0x6 => groupFns 6
    | 0x9 => 0x06
    | 0xA => 0x04
    | 0xB => groupFns 0xB
    | _ => 0
  | 2 =>
    match g with
    | 0x0 => groupFns 0
    | 0x1 => groupFns 1
    | 0x7 => groupFns 7
    | 0x8 => 0x02
    | 0x9 => groupFns 9
    | _ => 0
  | 3 => if g = 0x0 || g = 0x5 || g = 0xB then groupFns g else 0
  | 4 => if g = 0x0 || g = 0xC then groupFns g else 0
  | 5 => if labBlown then 0 else groupFns g
  | _ => 0

/-- Ports restricted to their own partition or handles: the tenant wherever it has P, peer and buddy in the control group. -/
def ownOnly (g : Nat) : Nat :=
  (if permFns false g 1 = 0 then 0 else 2) + (if g = 0 then 8 + 16 else 0)

/-- INTK_PERM g. -/
def permWord (labBlown : Bool) (g : Nat) : Nat :=
  let allowed := ((below 6).map fun n => if permFns labBlown g n = 0 then 0 else 2 ^ n).sum
  b2n (groupFns g != 0) * 4096 + ownOnly g * 64 + allowed

/-! ### Control-window registers -/

/-- The state code of COLL_C_STATUS. -/
def CollRun.code : CollRun → Nat
  | .setup => 0
  | .idle => 1
  | .run => 2
  | .suspended => 3

/-- The state code of CPU_CORE_STATUS. -/
def CoreRun.code : CoreRun → Nat
  | .halted => 0
  | .running => 1
  | .frozen => 1
  | .doubleTrap => 2
  | .wfi => 3

/-- CPU_CORE_STATUS. -/
def Cpu.status (k : Cpu) : Nat :=
  b2n k.unpopSeen * 2 ^ 63 + b2n k.storeAbort * 2 ^ 62 + k.run.code * 2 ^ 54 + b2n k.xact * 2 ^ 53
    + k.priv.toNat * 2 ^ 51 + k.haltFurrow

/-- The register at an offset below `base` + 64 KiB * ..., as index and remainder. -/
def inArr (o base stride n : Nat) : Option (Nat × Nat) :=
  if base ≤ o && o < base + stride * n then some ((o - base) / stride, (o - base) % stride) else none

/-- Read-only fields that state other than the register file holds, put over the stored value `x`. -/
def State.overlay (s : State) (o x : Nat) : Nat :=
  if o = aDevId then setBits x 47 40 s.boot.active
  else if o = aDevPkgAddr then setBits (setBits x 20 18 s.pins.boardSlot) 17 16 s.pins.pkgSlot
  else if o = aTimeNow then s.time.ns
  else if o = aTimeStatus then setBits (setBits x 11 11 (b2n s.time.step.isSome)) 10 10 (b2n (s.time.slew != 0))
  else if o = aTimeFurrowNow then s.furrow
  else if o = aIntkStatus then setBits x 12 0 s.unanchored
  else if o = aCacheCtl then b2n s.cache.ctl.isSome * 128
  else if o = aCollStatus then setBits x 6 0 (s.colls.filter fun e => e.2.run != .setup).length
  else if o = aBootStatus then
    setBits (setBits (setBits (setBits x 56 56 (b2n s.boot.labBlown)) 55 48 s.boot.lastReset) 47 44 s.boot.phase) 31 0 s.boot.us
  else if o = aBootFw then
    setBits (setBits (setBits (setBits x 63 32 s.boot.release) 31 24 s.boot.rollback) 1 1 (b2n s.boot.stagedValid)) 0 0 s.boot.slot
  else if o = aBootStaged then setBits x 63 32 s.boot.stagedRelease
  else
    match inArr o (aIntkPerm 0) 8 16 with
    | some (g, _) => permWord s.boot.labBlown g
    | none =>
    match inArr o (aIntkPermFn 0 0) 64 16 with
    | some (g, r) => permFns s.boot.labBlown g (r / 8)
    | none =>
    match inArr o (aIntkQCfg 0) 64 64 with
    | some (q, r) =>
      if r = 0x20 then (s.queue q).nextSeq
      else if r = 0x28 then (s.queue q).anch
      else if r = 0x30 then (s.queue q).entries.length
      else x
    | none =>
    match inArr o (aHbmStackStatus 0) 256 8 with
    | some (k, r) => if r = 0 then setBits x 27 27 (b2n !(s.stack k).mig.isEmpty) else x
    | none =>
    match inArr o (aCpuCoreCfg 0) 256 96 with
    | some (c, r) =>
      if r = 0x18 then (s.core c).status
      else if 0x80 ≤ r then (sget 0 (s.core c).shadow ((r - 0x80) / 8)).toNat
      else x
    | none =>
    match inArr o (aCollCStatus 0) 16 64 with
    | some (c, r) =>
      if r = 0 then
        match s.coll c with
        | some k => setBits (setBits (setBits (setBits x 33 32 k.reissue) 31 16 k.step) 3 2 k.alg) 1 0 k.run.code
        | none => x
      else x
    | none =>
    match inArr o (aCkptPartLatest 0) 64 16 with
    | some (p, r) => if r = 0x10 then (s.ckpt.dirty.filter fun e => e.1 / 2 ^ 28 == p && e.2).length else x
    | none =>
    match inArr o (aRasDie 0) 8 4 with
    | some (d, _) =>
      let mapped := (s.ras.map.filter fun e => e.1 / 156 == d && e.2 != 0).length
      let retired := (s.tiles.filter fun e => e.1 / 156 == d && e.2.retired).length
      mapped * 65536 + retired * 256 + (156 - mapped - retired)
    | none =>
    match inArr o (aRasTileMap 0 0) 0x800 4 with
    | some (d, r) =>
      match sget 0 s.ras.map (156 * d + r / 8) with
      | 0 => 0
      | k + 1 => 2 ^ 63 + k
    | none => x

/-- The value that a read of a register returns; 0 at reserved offsets (R33), and write-only fields read 0 (R11). -/
def State.regRead (s : State) (o : Nat) : Nat :=
  match regDesc o with
  | none => 0
  | some _ => s.overlay o (s.rd o)

/-- A read of TIME_NOW latches the fraction and the quality into TIME_LATCH (R41). -/
def State.latchNow (s : State) : State := s.wr aTimeLatch (s.time.frac * 2 ^ 48 + s.quality * 2 ^ 46)

/-- A 32-bit or 64-bit naturally aligned access (R34). -/
def ctlAligned (o n : Nat) : Bool := (n = 8 && o % 8 = 0) || (n = 4 && o % 4 = 0)

/-- A read of `n` bytes of the control window with its side effect; `n` and `o` as R34 allows. -/
def State.ctlRead (s : State) (o n : Nat) : State × List Byte :=
  let a := o - o % 8
  let v := s.regRead a
  let s := if a = aTimeNow then s.latchNow else s
  (s, leBytes n (v >>> (8 * (o % 8))))

end Sys2Proof.Machine
end

