-- ==== Sys2Proof/Machine/TimeOps.lean ====
section
/-! DEFINITION. Sources and discipline (R42 to R58): which sources are usable, the root election, the followed neighbour, the
selected source, and what a sample of the offset to it does. Offsets are in units of 2^-16 ns, source less counter. -/

namespace Sys2Proof.Machine

/-! ### Links as sources -/

/-- A link carries traffic: UP, or switching to its spare lane (R388). -/
def State.linkUp (s : State) (n : Nat) : Bool :=
  s.fld (aFabLinkStatus n) 2 0 == 2 || s.fld (aFabLinkStatus n) 2 0 == 3

/-- An uplink carries optical circuits (R410). -/
def State.isUplink (s : State) (n : Nat) : Bool := s.fld (aFabLinkCfg n) 2 0 == 3

/-- Neighbours that may be followed over links of one class (R51). -/
def State.followable (s : State) (optical : Bool) : List (Nat × BeaconMsg) :=
  s.time.nbr.filter fun e => e.2.optical == optical && e.2.hops.toNat != 15 && e.2.quality.toNat != 0

/-- The better of two neighbours: fewer hops, then the lower package ID (R51). -/
def nearer (a b : Nat × BeaconMsg) : Nat × BeaconMsg :=
  if b.2.hops.toNat < a.2.hops.toNat then b
  else if b.2.hops = a.2.hops && b.2.peerPkg.toNat < a.2.peerPkg.toNat then b
  else a

/-- The followed neighbour: its link and its last beacon. -/
def State.followed (s : State) (optical : Bool) : Option (Nat × BeaconMsg) :=
  match s.followable optical with
  | [] => none
  | x :: xs => some (xs.foldl nearer x)

/-! ### Usable sources, R44, R46, R538 -/

/-- A PTP port that is enabled and not declared lost. -/
def State.ptpOk (s : State) (port : Nat) : Bool := s.flag aTimeSource (3 + port) && (sget PtpPort.zero s.time.ptp port).usable

/-- Whether sources 2 to 5 are usable. -/
def State.srcOk (s : State) (src : Nat) : Bool :=
  match src with
  | 2 => s.flag aTimeSource 2 && (s.followed true).isSome
  | 3 => s.ptpOk 0
  | 4 => s.ptpOk 1
  | 5 => s.flag aTimeSource 5 && s.time.ppsLive && s.time.ppsAssigned.isSome
  | _ => false

/-- The first usable of sources 2 to 5; 0 when there is none. -/
def State.ownSource (s : State) : Nat := (([2, 3, 4, 5] : List Nat).find? s.srcOk).getD 0

/-! ### Root election, R45 -/

/-- The candidates that beacons name: rank and package. -/
def State.candidates (s : State) : List (Nat × Nat) :=
  (s.time.nbr.filter fun e => !e.2.optical && e.2.rootRank.toNat != 0xFF && (e.2.rootLive || e.2.rootPkg != e.2.peerPkg)).map
    fun e => (e.2.rootRank.toNat, e.2.rootPkg.toNat)

/-- Lower rank, then lower package ID. -/
def ahead (a b : Nat × Nat) : Bool := a.1 < b.1 || (a.1 == b.1 && a.2 < b.2)

/-- Elect the time root. -/
def State.elect (s : State) : State :=
  let rank := s.fld aTimeSource 63 56
  let me := (rank, s.pkgId)
  let mine := rank != 0xFF && s.ownSource != 0
  let best := s.candidates.foldl (fun (b : Option (Nat × Nat)) x =>
    match b with
    | some y => if ahead x y then some x else b
    | none => some x) none
  let root := mine && (match best with
    | some b => !(ahead b me)
    | none => true)
  { s with
    time :=
      { s.time with
        isRoot := root
        rootPkg := if root then s.pkgId else match best with
          | some b => b.2
          | none => s.time.rootPkg } }

/-! ### Selection, R44 and R46 -/

/-- The source to use: the root takes none but 2 to 5. -/
def State.bestSource (s : State) : Nat :=
  if !s.time.isRoot && s.flag aTimeSource 1 && (s.followed false).isSome then 1 else s.ownSource

/-- Hop count and root rank as TIME_STATUS shows them and beacons carry them. -/
def State.setHops (s : State) : State :=
  if s.time.isRoot then (s.setFld aTimeStatus 31 28 0).setFld aTimeStatus 39 32 (s.fld aTimeSource 63 56)
  else
    match s.followed false with
    | some e => (s.setFld aTimeStatus 31 28 (min 15 (e.2.hops.toNat + 1))).setFld aTimeStatus 39 32 e.2.rootRank.toNat
    | none => s

/-- Elect, select, and note a switch of source: with the last source lost, LOCKED becomes HOLDOVER (R42). -/
def State.reselect (s : State) : State :=
  let s := s.elect.setHops
  let src := s.bestSource
  if src = s.source then s
  else
    let s := (s.setFld aTimeStatus 9 7 src).setFlag aTimeStatus 59
    let s := { s with time := { s.time with inBand := 0 } }
    if src = 0 && s.quality = 2 then
      { s.setFld aTimeStatus 1 0 1 with time := { s.time with holdSince := s.time.ns } }
    else s

/-! ### Samples, R42 and R53 to R57 -/

/-- The lock threshold of a source, R42. -/
def lockBand (src : Nat) : Nat :=
  match src with
  | 1 => 2 * 65536
  | 2 => 2 * 65536
  | 5 => 20 * 65536
  | _ => 100 * 65536

/-- 20 microseconds. -/
def slewLimit : Nat := 20000 * 65536

/-- The offset as a whole number of furrows, half a furrow going toward zero (R56). -/
def State.stepOf (s : State) (off : Int) : Int :=
  let l := s.furrowLen * 65536
  let k := (2 * off.natAbs + l - 1) / (2 * l)
  if off < 0 then -(k : Int) else k

/-- Furrows for which a collective step is pending: scheduled runs, and the next step of each run in progress. -/
def State.collSteps (s : State) : List Nat :=
  ((s.sched.filter fun e => e.row == 6).map fun e => e.furrow)
    ++ (s.colls.filter fun e => e.2.run == .run).map fun e =>
      furrowAdd e.2.stepAt (bits (((e.2.desc.drop 7).headD 0).toNat) 63 56)

/-- No collective step is pending from furrow `f` on within guard_furrows furrows (R55). -/
def State.collFree (s : State) (f : Nat) : Bool :=
  !(s.collSteps.any fun e => aheadOf e f < s.fld aTimeStepPolicy 15 8)

/-- The boundary at which a step is applied: the next one, or the next with no collective step near. -/
def State.stepFurrow (s : State) : Nat :=
  let next := furrowAdd s.furrow 1
  if s.fld aTimeStepPolicy 1 0 = 2 || s.collFree next then next
  else
    let after := s.collSteps.map fun e => furrowAdd e 1
    let free := after.filter s.collFree
    match free with
    | [] => next
    | x :: xs => xs.foldl (fun a b => if aheadOf b next < aheadOf a next then b else a) x

/-- Remove an offset (R54, R55): by slew, and above 20 us by a step of whole furrows when the policy allows one. -/
def State.removeOffset (s : State) (off : Int) : State :=
  let s := { s with time := { s.time with slew := off } }
  let k := s.stepOf off
  let allowed := 0 < k || (k < 0 && s.flag aTimeStepPolicy 2 && !(s.flag aTimeFurrowCfg 5))
  if off.natAbs ≤ slewLimit || s.fld aTimeStepPolicy 1 0 = 0 || !allowed || s.time.step.isSome then s
  else
    let s := { s with time := { s.time with step := some (s.stepFurrow, k) } }
    if s.source = 1 then s.setFlag aTimeStatus 59 else s

/-- A measured offset to the selected source. -/
def State.discipline (s : State) (off : Int) : State :=
  let s := s.wr aTimeOffset (wrapInt 64 off)
  let inBand := if off.natAbs ≤ lockBand s.source then min 16 (s.time.inBand + 1) else 0
  let s := { s with time := { s.time with inBand := inBand, freqCorr := clampPpm (Config.learnRate s.time.freqCorr off) } }
  let s := if inBand = 16 then s.setFld aTimeStatus 1 0 2 else s
  s.removeOffset off

/-- A sample of one source counts only while that source is selected. -/
def State.sample (s : State) (src : Nat) (off : Int) : State := if s.source = src then s.discipline off else s

/-- Nearest whole number of `d` in `x`, halves up. -/
def nearest (x : Int) (d : Nat) : Int := (2 * x + d) / (2 * d)

end Sys2Proof.Machine
end

