-- ==== Sys2Proof/Machine/FabOps.lean ====
section
/-! DEFINITION. Sending over the fabric (R30, R389 to R393, R400 to R410): where a global address lies, the sender's key check, the
path of a stream, completion slots, packing into data flits, and the requests that wait. -/

namespace Sys2Proof.Machine

/-! ### Global addresses, R30 -/

/-- What a global address names. -/
inductive Dest where
  | here (a : Nat)
  | remote (pkg a : Nat)
  | invalid
  deriving DecidableEq, Repr

/-- Package field 0, or the package's own ID, is local; 0xFFFF is refused. -/
def State.dest (s : State) (g : Nat) : Dest :=
  let p := bits g 63 48
  if p = 0 ∨ p = s.pkgId then .here (bits g 47 0)
  else if p = 0xFFFF then .invalid
  else .remote p (bits g 47 0)

/-! ### Keys, R403 -/

/-- The right bit of FAB_KEY_A that an operation needs. -/
def keyBit (op : Nat) : Nat := if op = 1 then 62 else if op = 2 ∨ op = 3 then 61 else 60

/-- One FAB_KEY entry permits the request. -/
def State.keyPermits (s : State) (part pkg a op n : Nat) : Bool :=
  let k := aFabKeyA n
  s.flag k 63 && s.flag k (keyBit op) && s.fld k 59 56 == part && s.fld k 15 0 ≤ pkg && pkg ≤ s.fld k 31 16
    && s.fld (aFabKeyB n) 26 0 ≤ a / 2 ^ 21 && a / 2 ^ 21 ≤ s.fld (aFabKeyB n) 53 27

/-- Some entry of the issuing partition permits the request. -/
def State.keyOk (s : State) (part pkg a op : Nat) : Bool := (below 64).any fun n => s.keyPermits part pkg a op n

/-! ### Paths, R401, R408, R410 -/

/-- A path: the link, and the peer that forwards when it takes two hops. -/
abbrev Path := Nat × Option Nat

/-- UP links to a package, rising. -/
def State.linksTo (s : State) (pkg : Nat) : List Nat :=
  (below 64).filter fun n => s.linkUp n && s.fld (aFabLinkStatus n) 63 48 == pkg

/-- A package of the own chassis: the same package_id[15:5]. -/
def State.sameGroup (s : State) (pkg : Nat) : Bool := pkg / 32 == s.pkgId / 32

/-- Live peers of the own chassis other than `pkg`, each once, with the first link to it. That a peer is directly linked to
`pkg` too is the reference chassis's (notes/assumptions 30). -/
def State.peersBut (s : State) (pkg : Nat) : SMap Nat :=
  ((below 64).reverse.filter fun n => s.linkUp n && !s.isUplink n).foldl
    (fun m n =>
      let p := s.fld (aFabLinkStatus n) 63 48
      if p = pkg ∨ p = 0 ∨ !s.sameGroup p then m else sins m p n) []

/-- Two hops through the lowest live peer (R408). -/
def State.twoHop (s : State) (pkg : Nat) : Option Path := (s.peersBut pkg).head?.map fun e => (e.2, some e.1)

/-- The usable choices of a route entry, in order (R410). -/
def State.routes (s : State) (pkg : Nat) : List Path :=
  let r := aFabRoute (pkg / 32)
  if s.flag r 63 then
    let ups := [s.fld r 59 54, s.fld r 53 48].filter fun n => n != 0x3F && s.linkUp n && s.isUplink n
    let relay := s.fld r 31 16
    ups.map (fun n => (n, none)) ++ (if relay = 0 then [] else (s.linksTo relay).map fun n => (n, some relay))
  else []

/-- The path that a stream takes from idle, if there is one. Which links hold the fewest queued flits the model does not
hold: adaptive choice takes a free value. -/
def State.freshPath (s : State) (engine pkg oclass : Nat) : State × Option Path :=
  if s.sameGroup pkg then
    let ls := s.linksTo pkg
    if ls.isEmpty then (s, s.twoHop pkg)
    else if s.adaptive then
      let all : List Path := ls.map (fun n => (n, none)) ++ (s.peersBut pkg).map fun (e : Nat × Nat) => (e.2, some e.1)
      (s.freed, nth all (s.free1 % all.length))
    else (s, (nth ls ((engine + oclass) % ls.length)).map fun n => (n, none))
  else (s, (s.routes pkg).head?)

/-- The alternate path of R408: inside the chassis two hops; beyond it the next usable choice of the route entry after the
path in use, or the first. -/
def State.altPath (s : State) (pkg : Nat) (old : Path) : Option Path :=
  if s.sameGroup pkg then s.twoHop pkg
  else
    let rs := s.routes pkg
    match rs.dropWhile fun r => r != old with
    | _ :: y :: _ => some y
    | _ => rs.head?

/-- The stream of a request. -/
def Outst.stream (o : Outst) : Nat × Nat × Nat := (o.hdr.engine.toNat, o.hdr.dst.toNat, o.hdr.oclass.toNat)

/-- No link: the request waits for a slot, a path, or room among the issuer's outstanding requests. -/
def noLink : Nat := 255

/-- A request that has left. -/
def Outst.sent (o : Outst) : Bool := o.link != noLink

/-! ### Packets and flits, R389 to R393 -/

/-- Bytes of a size code. -/
def bytesOfCode (code : Nat) : Nat := if code = 7 then 4096 else 2 ^ code

/-- The size code of a byte count. -/
def sizeCode (n : Nat) : Nat := if n = 4096 then 7 else n.log2

/-- CRC-32 step by bits, reflected polynomial 0xEDB88320 (PRESUMED: IEEE 802.3, notes/assumptions 31). -/
def crcBits : Nat → Nat → Nat
  | 0, c => c
  | n + 1, c => crcBits n (if c % 2 = 1 then (c / 2) ^^^ 0xEDB88320 else c / 2)

/-- CRC-32 of bytes. -/
def crc32 (bs : List Byte) : Nat := (bs.foldl (fun c b => crcBits 8 (c ^^^ b.toNat)) 0xFFFFFFFF) ^^^ 0xFFFFFFFF

/-- Header bytes 0 to 19. -/
def hdrBytes (h : FabHdr) (status : Option Nat) : List Byte :=
  leBytes 1 h.op.toNat ++ leBytes 1 (h.size.toNat + 8 * h.oclass.toNat + 32 * b2n h.resp) ++ leBytes 2 h.dst.toNat
    ++ leBytes 2 h.src.toNat ++ leBytes 2 (h.engine.toNat + 4096 * h.part.toNat)
    ++ leBytes 2 (h.slot.toNat + 4096 * h.hops.toNat) ++ leBytes 3 h.gen.toNat ++ zeros 1
    ++ (match status with
        | some v => leBytes 2 v ++ zeros 4
        | none => leBytes 6 h.addr.toNat)

/-- A packet: header, end-to-end CRC, data. -/
def packet (h : FabHdr) (status : Option Nat) (data : List Byte) : List Byte :=
  let b := hdrBytes h status
  b ++ leBytes 4 (crc32 (b ++ data)) ++ data

/-- Payloads of 240 bytes; `fuel` are enough. -/
def payloads : Nat → List Byte → List (BitVec 1920)
  | 0, _ => []
  | fuel + 1, bs => if bs.isEmpty then [] else BitVec.ofNat 1920 (leNat (bs.take 240)) :: payloads fuel (bs.drop 240)

/-- A data flit enters the replay buffer with the next sequence number (R391). -/
def LinkS.push (l : LinkS) (p : BitVec 1920) : LinkS := { l with txSeq := l.txSeq + 1, replay := l.replay ++ [(l.txSeq, p)] }

/-- Send a packet over a link: it begins a flit of its own (notes/assumptions 31), and is put out. -/
def State.sendPacket (s : State) (link : Nat) (via : Option Nat) (h : FabHdr) (status : Option Nat) (data : List Byte) : State :=
  let bs := packet h status data
  let l := (payloads (bs.length / 240 + 1) bs).foldl LinkS.push (s.link link)
  (s.setLink link l).emit (.fab link via h data)

/-! ### Completion slots, R405 -/

/-- The lowest free slot for a target, from `i` up. -/
def freeFabSlot : Nat → State → Nat → Nat → Option Nat
  | 0, _, _, _ => none
  | fuel + 1, s, dst, i =>
    if (sget SlotS.zero s.fab.slots (dst * 4096 + i)).busy then freeFabSlot fuel s dst (i + 1) else some i

/-- Take a slot: its gen advances. -/
def State.takeSlot (s : State) (dst i : Nat) : State × BitVec 24 :=
  let k := dst * 4096 + i
  let g := (sget SlotS.zero s.fab.slots k).gen + 1
  ({ s with fab := { s.fab with slots := sput SlotS.zero s.fab.slots k { gen := g, busy := true, poisoned := false } } }, g)

/-- Free a slot, keeping its gen. -/
def State.freeSlotOf (s : State) (dst i : Nat) : State :=
  { s with
    fab :=
      { s.fab with slots := smod SlotS.zero s.fab.slots (dst * 4096 + i) fun v => { v with busy := false, poisoned := false } } }

/-! ### Issue -/

/-- At most so many requests of an engine are outstanding: 64 for a user core (R335), max_outstanding for a Shuttle
(R253). -/
def State.engineLimit (s : State) (engine : Nat) : Option Nat :=
  if engine < 624 then
    match s.tilePart? engine with
    | some p => some (s.fld (aShtlPartCfg p) 9 0)
    | none => some 512
  else if engine < 736 then some 64
  else none

/-- Requests of an engine that have left and have no response. -/
def State.inFlight (s : State) (engine : Nat) : Nat :=
  (s.fab.outst.filter fun o => o.sent && o.hdr.engine.toNat == engine).length

/-- Replace an outstanding request by one with the same index. -/
def State.setOutst (s : State) (o : Outst) : State :=
  { s with fab := { s.fab with outst := s.fab.outst.map fun x => if x.idx = o.idx then o else x } }

/-- The path a stream uses while it has requests outstanding. -/
def State.streamPath (s : State) (k : Nat × Nat × Nat) : Option Path :=
  (s.fab.paths.find? fun e => e.1 == k).map fun e => e.2

/-- Set a stream's path. -/
def State.setPath (s : State) (k : Nat × Nat × Nat) (p : Path) : State :=
  { s with fab := { s.fab with paths := (s.fab.paths.filter fun e => e.1 != k) ++ [(k, p)] } }

/-- Bytes of request data: a compare-and-swap carries two values (R394). -/
def dataLen (h : FabHdr) : Nat := min 64 (if h.op = 0x16 then 2 * bytesOfCode h.size.toNat else bytesOfCode h.size.toNat)

/-- Request data as it is sent: a read carries none. -/
def Outst.payload (o : Outst) : List Byte := if o.hdr.op = 1 then [] else leBytes (dataLen o.hdr) o.data.toNat

/-- A waiting request leaves over a path, taking a slot unless it is a read or is sent
again. -/
def State.launchOn (s : State) (o : Outst) (p : Path) : State :=
  if o.hdr.op = 1 || o.reissued then
    let o := { o with link := p.1, via := p.2 }
    (s.setOutst o).sendPacket p.1 p.2 o.hdr none (o.payload)
  else
    match freeFabSlot 4096 s o.hdr.dst.toNat 0 with
    | none => s
    | some i =>
      let (s, g) := s.takeSlot o.hdr.dst.toNat i
      let o := { o with link := p.1, via := p.2, hdr := { o.hdr with slot := BitVec.ofNat 12 i, gen := g } }
      (s.setOutst o).sendPacket p.1 p.2 o.hdr none o.payload

/-- A waiting request leaves if it may: no earlier one of its stream waits, its engine has room, and a path is there. -/
def State.launch (s : State) (o : Outst) : State :=
  let k := o.stream
  if (s.fab.outst.any fun x => x.idx < o.idx && !x.sent && x.stream == k) then s
  else if (match s.engineLimit o.hdr.engine.toNat with
           | some m => decide (m ≤ s.inFlight o.hdr.engine.toNat)
           | none => false) then s
  else
    match s.streamPath k with
    | some p => if s.linkUp p.1 then s.launchOn o p else s
    | none =>
      match s.freshPath k.1 k.2.1 k.2.2 with
      | (s, some p) => (s.setPath k p).launchOn o p
      | (s, none) => s

/-- Every waiting request that may leave does, in the order of issue. -/
def State.pump (s : State) : State := (s.fab.outst.filter fun o => !o.sent).foldl State.launch s

/-- Streams with nothing outstanding are idle: they choose anew next time (R401). -/
def State.idleStreams (s : State) : State :=
  { s with fab := { s.fab with paths := s.fab.paths.filter fun e => s.fab.outst.any fun o => o.stream == e.1 } }

/-- Send a request again with its own TID over the alternate path of its stream (R407, R408), or when there is none let it wait
for one (R410). -/
def State.reissue (s : State) (o : Outst) : State :=
  match s.altPath o.hdr.dst.toNat (o.link, o.via) with
  | some p => (s.setPath o.stream p).launchOn { o with reissued := true } p
  | none =>
    let s := s.setOutst { o with reissued := true, link := noLink, via := none }
    { s with fab := { s.fab with paths := s.fab.paths.filter fun e => e.1 != o.stream } }

/-- With link `n`, the last link that mirrors to the buddy is gone: buddy_lost is set (R89). -/
def State.buddyGone (s : State) (n : Nat) : State :=
  let mirrors := fun (l : Nat) => s.fld (aFabLinkCfg l) 2 0 == 2 && s.fld (aFabLinkStatus l) 63 48 == s.buddy
  if s.buddy != 0 && n < 64 && mirrors n && !((below 64).any fun l => l != n && s.linkUp l && mirrors l) then
    s.setFlag aIntkStatus 61
  else s

/-- A link loses what it carried: its flits are gone, and every request that used it is sent again at once, in issue order
(R392, R407). -/
def State.linkLost (s : State) (n : Nat) : State :=
  let s := s.buddyGone n
  let s := s.setLink n { LinkS.zero with dead := (s.link n).dead }
  let s := { s with time := { s.time with nbr := sdel s.time.nbr n, beaconTx := sdel s.time.beaconTx n } }
  (s.fab.outst.filter fun o => o.link == n).foldl State.reissue s.reselect

/-- Put a link into a state, with link_event (R413's FAB_STATUS). -/
def State.setLinkState (s : State) (n st : Nat) : State :=
  if s.fld (aFabLinkStatus n) 2 0 = st then s else (s.setFld (aFabLinkStatus n) 2 0 st).setFlag aFabStatus 62

/-- A disabled or waiting link trains while it is enabled and package_id is not 0, unless it is dead until the next cold boot
(R35, R387, R513). -/
def State.linkReady (s : State) (n : Nat) : State :=
  if s.fld (aFabLinkStatus n) 2 0 ≤ 1 then
    s.setLinkState n (if s.flag (aFabLinkCfg n) 63 && s.pkgId != 0 && !(s.link n).dead then 1 else 0)
  else s

/-- Issue one request of up to 64 bytes. -/
def State.fabIssue (s : State) (engine part oclass op pkg a : Nat) (n : Nat) (data : List Byte) (why : OutFor) : State :=
  let h : FabHdr :=
    { op := BitVec.ofNat 8 op, size := BitVec.ofNat 3 (sizeCode n), oclass := BitVec.ofNat 2 oclass, resp := false
      dst := BitVec.ofNat 16 pkg, src := BitVec.ofNat 16 s.pkgId, engine := BitVec.ofNat 12 engine
      part := BitVec.ofNat 4 part, slot := 0, hops := 0, gen := 0, addr := BitVec.ofNat 48 a, crcOk := true }
  let o : Outst :=
    { idx := s.fab.nextIdx, hdr := h, data := BitVec.ofNat 512 (leNat data), link := noLink, via := none
      reissued := false, isFor := why }
  { s with fab := { s.fab with outst := s.fab.outst ++ [o], nextIdx := s.fab.nextIdx + 1 } }.pump

/-- Whether an issuer has a request outstanding: what a fence waits for (R400). -/
def State.waitsFor (s : State) (engine : Nat) : Bool := s.fab.outst.any fun o => o.hdr.engine.toNat == engine

end Sys2Proof.Machine
end

