-- ==== Sys2Proof/Machine/Flags.lean ====
section
/-! DEFINITION. The flag word (R204, R205) and integer arithmetic at the edges (R198 to R201), at every width: operands and
results are `w`-bit patterns, and each operation answers its result and the flags it sets. -/

namespace Sys2Proof.Machine

/-! ### The flag word, R204 -/

/-- [0] inexact -/
def fNX : Nat := 1
/-- [1] underflow -/
def fUF : Nat := 2
/-- [2] overflow -/
def fOF : Nat := 4
/-- [3] division by zero -/
def fDZ : Nat := 8
/-- [4] invalid -/
def fNV : Nat := 16
/-- [5] signed integer overflow, wrapped result -/
def fV : Nat := 32
/-- [6] saturated -/
def fSAT : Nat := 64

/-- Flags are sticky (R205), and bit 7 reads 0 (R204). -/
def orFlags (f : BitVec 8) (g : Nat) : BitVec 8 := BitVec.ofNat 8 ((f.toNat ||| g) % 128)

/-- A result of `w` bits and its flags. -/
abbrev IRes := Nat × Nat

/-! ### Ranges, R186 -/

/-- The value of a pattern under a signed or an unsigned type. -/
def ival (w : Nat) (signed : Bool) (x : Nat) : Int := if signed then sint w x else (x % 2 ^ w : Nat)

/-- MIN, or 0 when unsigned. -/
def imin (w : Nat) (signed : Bool) : Int := if signed then -(2 : Int) ^ (w - 1) else 0

/-- MAX, or unsigned MAX. -/
def imax (w : Nat) (signed : Bool) : Int := if signed then (2 : Int) ^ (w - 1) - 1 else (2 : Int) ^ w - 1

/-- Whether an exact result lies in the range. -/
def inRange (w : Nat) (signed : Bool) (x : Int) : Bool := imin w signed ≤ x && x ≤ imax w signed

/-- The low bits, with V when a signed result does not fit; unsigned carry, borrow and high product set no flag (R199). -/
def wrapV (w : Nat) (signed : Bool) (x : Int) : IRes :=
  (wrapInt w x, if signed && !(inRange w true x) then fV else 0)

/-- Saturate to the range with SAT (R199, R202). -/
def satInt (w : Nat) (signed : Bool) (x : Int) : IRes :=
  if x < imin w signed then (wrapInt w (imin w signed), fSAT)
  else if imax w signed < x then (wrapInt w (imax w signed), fSAT)
  else (wrapInt w x, 0)

/-- Keep the low bits, with V when they differ from the exact result (R202). -/
def wrapKeep (w : Nat) (signed : Bool) (x : Int) : IRes :=
  (wrapInt w x, if inRange w signed x then 0 else fV)

/-! ### Operations, R199 -/

def iAdd (w : Nat) (sg : Bool) (a b : Nat) : IRes := wrapV w sg (ival w sg a + ival w sg b)
def iSub (w : Nat) (sg : Bool) (a b : Nat) : IRes := wrapV w sg (ival w sg a - ival w sg b)
def iSatAdd (w : Nat) (sg : Bool) (a b : Nat) : IRes := satInt w sg (ival w sg a + ival w sg b)
def iSatSub (w : Nat) (sg : Bool) (a b : Nat) : IRes := satInt w sg (ival w sg a - ival w sg b)
def iMulLow (w : Nat) (sg : Bool) (a b : Nat) : IRes := wrapV w sg (ival w sg a * ival w sg b)
def iMulHigh (w : Nat) (sg : Bool) (a b : Nat) : IRes := (wrapInt w ((ival w sg a * ival w sg b) / (2 : Int) ^ w), 0)

/-- Negate: MIN stays MIN with V under a signed type; modulo 2^w without a flag under an unsigned one. -/
def iNeg (w : Nat) (sg : Bool) (a : Nat) : IRes := wrapV w sg (-ival w sg a)

/-- Absolute value: MIN stays MIN with V; an unsigned value is its own. -/
def iAbs (w : Nat) (sg : Bool) (a : Nat) : IRes := wrapV w sg (if ival w sg a < 0 then -ival w sg a else ival w sg a)

/-- Divide, truncating toward zero (R198); divisor 0 gives 0 with DZ; MIN by -1 gives MIN with V. -/
def iDiv (w : Nat) (sg : Bool) (a b : Nat) : IRes :=
  if ival w sg b = 0 then (0, fDZ) else wrapV w sg (Int.tdiv (ival w sg a) (ival w sg b))

/-- Remainder with the dividend's sign (R198); divisor 0 gives the dividend with DZ. -/
def iRem (w : Nat) (sg : Bool) (a b : Nat) : IRes :=
  if ival w sg b = 0 then (a % 2 ^ w, fDZ) else (wrapInt w (Int.tmod (ival w sg a) (ival w sg b)), 0)

def iMin (w : Nat) (sg : Bool) (a b : Nat) : IRes := (if ival w sg a ≤ ival w sg b then a % 2 ^ w else b % 2 ^ w, 0)
def iMax (w : Nat) (sg : Bool) (a b : Nat) : IRes := (if ival w sg a ≤ ival w sg b then b % 2 ^ w else a % 2 ^ w, 0)

def iAnd (a b : Nat) : IRes := (a &&& b, 0)
def iOr (a b : Nat) : IRes := (a ||| b, 0)
def iXor (a b : Nat) : IRes := (a ^^^ b, 0)

/-! ### Shifts, R200: counts are full unsigned values, never masked -/

def iShl (w a c : Nat) : IRes := (if w ≤ c then 0 else (a <<< c) % 2 ^ w, 0)
def iShr (w a c : Nat) : IRes := (if w ≤ c then 0 else (a % 2 ^ w) >>> c, 0)
/-- Arithmetic right: 0 or -1 by w or more. The operand is taken as signed. -/
def iSar (w a c : Nat) : IRes := (wrapInt w (sint w a / (2 : Int) ^ (min c w)), 0)
def iRol (w a c : Nat) : IRes :=
  let k := c % w
  (((a % 2 ^ w) <<< k ||| (a % 2 ^ w) >>> (w - k)) % 2 ^ w, 0)
def iRor (w a c : Nat) : IRes := iRol w a (w - c % w)

/-! ### Checked variants, R201: none when the instruction traps -/

/-- A checked variant of an operation traps in every case that R199 flags with V or DZ. -/
def checked (r : IRes) : Option IRes := if r.2 &&& (fV ||| fDZ) = 0 then some r else none

end Sys2Proof.Machine
end

