-- ==== Sys2Proof/Machine/Float.lean ====
section
/-! DEFINITION. Floating-point formats, rounding and arithmetic at the edges, R179 to R197. A value is a NaN, an infinity or
an exact (-1)^s * m * 2^e; every operation forms its exact result and rounds it once (R189). Results are bit patterns with
the flags they set. -/

namespace Sys2Proof.Machine

/-- How a format encodes special values, R181: as IEEE does, one NaN pattern (E4M3), none (FP6, FP4). -/
inductive Specials where
  | ieee
  | nanOnly
  | none
  deriving DecidableEq, Repr

/-- A floating-point format, R179. -/
structure Fmt where
  ebits : Nat
  mbits : Nat
  bias : Nat
  specials : Specials
  deriving DecidableEq, Repr

/-- A decoded operand: NaN (signalling or not), infinity with its sign, or a finite value with its sign. -/
inductive FVal where
  | nan (signalling : Bool)
  | inf (neg : Bool)
  | fin (neg : Bool) (m : Nat) (e : Int)
  deriving DecidableEq, Repr

/-- A float result and its flags. -/
abbrev FRes := Nat × Nat

def fp64 : Fmt := ⟨11, 52, 1023, .ieee⟩
def fp32 : Fmt := ⟨8, 23, 127, .ieee⟩
def fp16 : Fmt := ⟨5, 10, 15, .ieee⟩
def bf16 : Fmt := ⟨8, 7, 127, .ieee⟩
def e5m2 : Fmt := ⟨5, 2, 15, .ieee⟩
def e4m3 : Fmt := ⟨4, 3, 7, .nanOnly⟩
def e3m2 : Fmt := ⟨3, 2, 3, .none⟩
def e2m3 : Fmt := ⟨2, 3, 1, .none⟩
def e2m1 : Fmt := ⟨2, 1, 1, .none⟩

/-- Width in bits. -/
def Fmt.width (f : Fmt) : Nat := 1 + f.ebits + f.mbits

/-- All exponent bits set. -/
def Fmt.emax (f : Fmt) : Nat := 2 ^ f.ebits - 1

/-- Magnitude pattern of the largest finite value. -/
def Fmt.maxPat (f : Fmt) : Nat :=
  match f.specials with
  | .ieee => f.emax * 2 ^ f.mbits - 1
  | .nanOnly => 2 ^ (f.ebits + f.mbits) - 2
  | .none => 2 ^ (f.ebits + f.mbits) - 1

/-- The sign bit in its place. -/
def Fmt.signBit (f : Fmt) (neg : Bool) : Nat := if neg then 2 ^ (f.ebits + f.mbits) else 0

/-- Infinity; a format without one has none, and its conversions never ask for it (R190). -/
def Fmt.infPat (f : Fmt) (neg : Bool) : Nat := f.emax * 2 ^ f.mbits + f.signBit neg

/-- The canonical quiet NaN, R181: in FP6 and FP4 the positive largest finite value stands in its place (R190). -/
def Fmt.nanPat (f : Fmt) : Nat :=
  match f.specials with
  | .ieee => f.emax * 2 ^ f.mbits + 2 ^ (f.mbits - 1)
  | .nanOnly => 2 ^ (f.ebits + f.mbits) - 1
  | .none => 2 ^ (f.ebits + f.mbits) - 1

/-- Decode a pattern, R180 to R182. -/
def fdecode (f : Fmt) (x : Nat) : FVal :=
  let neg := bit x (f.ebits + f.mbits)
  let e := bits x (f.ebits + f.mbits - 1) f.mbits
  let m := x % 2 ^ f.mbits
  if f.specials = .ieee && e = f.emax then
    (if m = 0 then .inf neg else .nan (m < 2 ^ (f.mbits - 1)))
  else if f.specials = .nanOnly && e = f.emax && m = 2 ^ f.mbits - 1 then .nan false
  else if e = 0 then .fin neg m (1 - (f.bias : Int) - f.mbits)
  else .fin neg (m + 2 ^ f.mbits) ((e : Int) - f.bias - f.mbits)

/-! ### Rounding, R188 to R191 -/

/-- Round n / d to an integer by a rounding code of R188, for a value of the given sign; `u` is the random word of stochastic
rounding, which compares it with the distance from the lower neighbour (R191). Answers the magnitude and whether it is inexact. -/
def roundInt (mode u : Nat) (neg : Bool) (n d : Nat) : Nat × Bool :=
  let k := n / d
  let r := n % d
  if r = 0 then (k, false)
  else
    let up :=
      match mode with
      | 0 => d < 2 * r || (2 * r = d && k % 2 = 1)
      | 1 => false
      | 2 => neg
      | 3 => !neg
      | 4 => if neg then (d - r) * 2 ^ 32 / d ≤ u else u < r * 2 ^ 32 / d
      | _ => d ≤ 2 * r
    (if up then k + 1 else k, true)

/-- Floor of log2 of n / d, for n > 0. -/
def qlog2 (n d : Nat) : Int :=
  let e : Int := (n.log2 : Int) - d.log2
  let (a, b) := scaleQ n d (-e)
  if a < b then e - 1 else e

/-- What overflow gives, R189 and R190. -/
def overflowPat (f : Fmt) (mode : Nat) (neg : Bool) : Nat :=
  if f.specials != .ieee then f.maxPat + f.signBit neg
  else
    match mode with
    | 1 => f.maxPat + f.signBit neg
    | 2 => if neg then f.infPat true else f.maxPat
    | 3 => if neg then f.maxPat + f.signBit true else f.infPat false
    | _ => f.infPat neg

/-- Encode k * 2^q, which lies on the format's grid: k below 2^(mbits + 1), or equal to it after a carry. -/
def packFinite (f : Fmt) (neg : Bool) (k : Nat) (q : Int) : Nat :=
  let (k, q) := if k = 2 ^ (f.mbits + 1) then (2 ^ f.mbits, q + 1) else (k, q)
  if k < 2 ^ f.mbits then k + f.signBit neg
  else (k - 2 ^ f.mbits) + ((q + f.mbits + f.bias).toNat) * 2 ^ f.mbits + f.signBit neg

/-- Round the exact value (-1)^neg * (n / d) * 2^e once into a format (R189); a zero keeps the given sign. -/
def roundQ (f : Fmt) (mode u : Nat) (neg : Bool) (n d : Nat) (e : Int) : FRes :=
  if n = 0 then (f.signBit neg, 0)
  else
    let top := qlog2 n d + e
    let emin : Int := 1 - (f.bias : Int)
    let q := max top emin - f.mbits
    let (a, b) := scaleQ n d (e - q)
    let (k, inex) := roundInt mode u neg a b
    -- the same rounding with unbounded exponent decides overflow and underflow
    let qU := top - f.mbits
    let (aU, bU) := scaleQ n d (e - qU)
    let kU := (roundInt mode u neg aU bU).1
    let tiny := let (x, y) := scaleQ kU 1 (qU - emin); x < y
    let pat := packFinite f neg k q
    if emin ≤ top && f.maxPat < packFinite f false k q then
      (overflowPat f mode neg, fOF ||| fNX)
    else (pat, (if inex then fNX else 0) ||| (if tiny && inex then fUF else 0))

/-- Round an exact signed dyadic value; an exact zero takes the given sign. -/
def roundZ (f : Fmt) (mode u : Nat) (zeroNeg : Bool) (x e : Int) : FRes :=
  if x = 0 then (f.signBit zeroNeg, 0) else roundQ f mode u (x < 0) x.natAbs 1 e

/-! ### Arithmetic, R195 to R197 -/

/-- NV for a signalling operand. -/
def nvOf : FVal → Nat
  | .nan true => fNV
  | _ => 0

def isNan : FVal → Bool
  | .nan _ => true
  | _ => false

/-- The signed mantissa of a finite value. -/
def smant (neg : Bool) (m : Nat) : Int := if neg then -(m : Int) else m

/-- Sign of an exact zero sum of operands of opposite sign: +0, or -0 under RDN (R195). -/
def zeroSign (mode : Nat) (n1 n2 : Bool) : Bool := if n1 = n2 then n1 else mode = 2

/-- Add two decoded values. -/
def faddV (f : Fmt) (mode : Nat) (a b : FVal) : FRes :=
  match a, b with
  | .nan s, y => (f.nanPat, (if s then fNV else 0) ||| nvOf y)
  | x, .nan s => (f.nanPat, (if s then fNV else 0) ||| nvOf x)
  | .inf n1, .inf n2 => if n1 = n2 then (f.infPat n1, 0) else (f.nanPat, fNV)
  | .inf n, _ => (f.infPat n, 0)
  | _, .inf n => (f.infPat n, 0)
  | .fin n1 m1 e1, .fin n2 m2 e2 =>
    let e := min e1 e2
    let x := smant n1 (m1 <<< (e1 - e).toNat) + smant n2 (m2 <<< (e2 - e).toNat)
    roundZ f mode 0 (zeroSign mode n1 n2) x e

/-- Change the sign of a decoded value. -/
def negV : FVal → FVal
  | .nan s => .nan s
  | .inf n => .inf !n
  | .fin n m e => .fin (!n) m e

def fadd (f : Fmt) (mode a b : Nat) : FRes := faddV f mode (fdecode f a) (fdecode f b)
def fsub (f : Fmt) (mode a b : Nat) : FRes := faddV f mode (fdecode f a) (negV (fdecode f b))

/-- The exact product of two decoded values: NaN with its flag for the cases of R195. -/
def fmulV (a b : FVal) : FVal × Nat :=
  match a, b with
  | .nan s, y => (.nan false, (if s then fNV else 0) ||| nvOf y)
  | x, .nan s => (.nan false, (if s then fNV else 0) ||| nvOf x)
  | .inf n1, .inf n2 => (.inf (n1 != n2), 0)
  | .inf n1, .fin n2 m _ => if m = 0 then (.nan false, fNV) else (.inf (n1 != n2), 0)
  | .fin n1 m _, .inf n2 => if m = 0 then (.nan false, fNV) else (.inf (n1 != n2), 0)
  | .fin n1 m1 e1, .fin n2 m2 e2 => (.fin (n1 != n2) (m1 * m2) (e1 + e2), 0)

/-- Round a decoded value into a format. -/
def froundV (f : Fmt) (mode u : Nat) : FVal → FRes
  | .nan _ => (f.nanPat, 0)
  | .inf n => (f.infPat n, 0)
  | .fin n m e => roundQ f mode u n m 1 e

def fmul (f : Fmt) (mode a b : Nat) : FRes :=
  let (p, g) := fmulV (fdecode f a) (fdecode f b)
  let (r, h) := froundV f mode 0 p
  (r, g ||| h)

/-- a * b + c with one rounding; 0 * infinity is invalid whatever c is (R195). -/
def fmaV (f : Fmt) (mode : Nat) (a b c : FVal) : FRes :=
  let (p, g) := fmulV a b
  let (r, h) := faddV f mode p c
  (r, g ||| h)

def ffma (f : Fmt) (mode : Nat) (negProduct : Bool) (a b c : Nat) : FRes :=
  let x := fdecode f a
  fmaV f mode (if negProduct then negV x else x) (fdecode f b) (fdecode f c)

def fdiv (f : Fmt) (mode a b : Nat) : FRes :=
  match fdecode f a, fdecode f b with
  | .nan s, y => (f.nanPat, (if s then fNV else 0) ||| nvOf y)
  | x, .nan s => (f.nanPat, (if s then fNV else 0) ||| nvOf x)
  | .inf _, .inf _ => (f.nanPat, fNV)
  | .inf n1, .fin n2 _ _ => (f.infPat (n1 != n2), 0)
  | .fin n1 _ _, .inf n2 => (f.signBit (n1 != n2), 0)
  | .fin n1 m1 e1, .fin n2 m2 e2 =>
    if m2 = 0 then (if m1 = 0 then (f.nanPat, fNV) else (f.infPat (n1 != n2), fDZ))
    else roundQ f mode 0 (n1 != n2) m1 m2 (e1 - e2)

/-- Square root: the integer root of a widened mantissa with a sticky last bit, rounded once. -/
def fsqrt (f : Fmt) (mode a : Nat) : FRes :=
  match fdecode f a with
  | .nan s => (f.nanPat, if s then fNV else 0)
  | .inf n => if n then (f.nanPat, fNV) else (f.infPat false, 0)
  | .fin n m e =>
    if m = 0 then (f.signBit n, 0)
    else if n then (f.nanPat, fNV)
    else
      let (m, e) := if e % 2 = 0 then (m, e) else (2 * m, e - 1)
      let w := 2 * (f.mbits + 4)
      let x := m <<< (2 * w)
      let r := Nat.sqrt x
      roundQ f mode 0 false (if r * r = x then 2 * r else 2 * r + 1) 1 (e / 2 - w - 1)

/-- Quiet comparison: none when a NaN makes the pair unordered (R197). -/
def fcmp (a b : FVal) : Option Ordering :=
  match a, b with
  | .nan _, _ => none
  | _, .nan _ => none
  | .inf n1, .inf n2 => some (if n1 = n2 then .eq else if n1 then .lt else .gt)
  | .inf n, _ => some (if n then .lt else .gt)
  | _, .inf n => some (if n then .gt else .lt)
  | .fin n1 m1 e1, .fin n2 m2 e2 =>
    let e := min e1 e2
    some (compare (smant n1 (m1 <<< (e1 - e).toNat)) (smant n2 (m2 <<< (e2 - e).toNat)))

/-- The six conditions and unordered, by the codes of R226: 0 eq, 1 ne, 2 lt, 3 le, 4 gt, 5 ge, 6 unordered. -/
def fcond (c : Nat) (o : Option Ordering) : Bool :=
  match c, o with
  | 0, some .eq => true
  | 1, some .eq => false
  | 1, _ => true
  | 2, some .lt => true
  | 3, some .lt => true
  | 3, some .eq => true
  | 4, some .gt => true
  | 5, some .gt => true
  | 5, some .eq => true
  | 6, none => true
  | _, _ => false

/-- A comparison and its flag. -/
def fcompare (f : Fmt) (c a b : Nat) : Bool × Nat :=
  let x := fdecode f a
  let y := fdecode f b
  (fcond c (fcmp x y), nvOf x ||| nvOf y)

/-- Whether a pattern's sign bit is set. -/
def fsign (f : Fmt) (a : Nat) : Bool := bit a (f.ebits + f.mbits)

/-- IEEE maximum and minimum, R196: NaN propagates, -0 is below +0. -/
def fmaxmin (f : Fmt) (wantMax : Bool) (a b : Nat) : FRes :=
  let x := fdecode f a
  let y := fdecode f b
  match fcmp x y with
  | none => (f.nanPat, nvOf x ||| nvOf y)
  | some .lt => (if wantMax then b else a, 0)
  | some .gt => (if wantMax then a else b, 0)
  | some .eq => (if fsign f a = wantMax then b else a, 0)

/-- Absolute value and negation: a NaN operand gives the canonical NaN (R195). -/
def fabs (f : Fmt) (a : Nat) : FRes :=
  match fdecode f a with
  | .nan s => (f.nanPat, if s then fNV else 0)
  | _ => (a % 2 ^ (f.ebits + f.mbits), 0)

def fneg (f : Fmt) (a : Nat) : FRes :=
  match fdecode f a with
  | .nan s => (f.nanPat, if s then fNV else 0)
  | _ => (a % 2 ^ (f.ebits + f.mbits) + f.signBit (!(fsign f a)), 0)

/-! ### Conversions, R193 -/

/-- A decoded float into a float format (R189 to R191): an infinite source saturates, and a NaN source sets NV, where the
format has no infinity (R190). -/
def convFF (f : Fmt) (mode u : Nat) (x : FVal) : FRes :=
  match x with
  | .nan s =>
    match f.specials with
    | .ieee => (f.nanPat, if s then fNV else 0)
    | .nanOnly => (f.nanPat, fNV)
    | .none => (f.nanPat, fNV ||| fOF)
  | .inf n => if f.specials = .ieee then (f.infPat n, 0) else (f.maxPat + f.signBit n, fOF ||| fNX)
  | .fin n m e => roundQ f mode u n m 1 e

/-- An exact value (-1)^neg * (n / d) * 2^e rounded to an integer: the integer and whether it is inexact. -/
def toIntQ (mode u : Nat) (neg : Bool) (n d : Nat) (e : Int) : Int × Bool :=
  let (a, b) := scaleQ n d e
  let (k, inex) := roundInt mode u neg a b
  (smant neg k, inex)

/-- Float into an integer type: beyond the range MIN or MAX with NV, NaN 0 with NV (R193). -/
def convFI (w : Nat) (sg : Bool) (mode u : Nat) (x : FVal) : IRes :=
  match x with
  | .nan _ => (0, fNV)
  | .inf n => (wrapInt w (if n then imin w sg else imax w sg), fNV)
  | .fin n m e =>
    let (k, inex) := toIntQ mode u n m 1 e
    if k < imin w sg then (wrapInt w (imin w sg), fNV)
    else if imax w sg < k then (wrapInt w (imax w sg), fNV)
    else (wrapInt w k, if inex then fNX else 0)

/-- An integer into a float format. -/
def convIF (f : Fmt) (mode u : Nat) (x : Int) : FRes := roundZ f mode u false x 0

/-- An exact value into an integer or Q64 destination with saturate or wrap: SAT or V stand in place of NX (R193). -/
def convQI (w : Nat) (sg wrap : Bool) (mode u : Nat) (neg : Bool) (n d : Nat) (e : Int) : IRes :=
  let (k, inex) := toIntQ mode u neg n d e
  let (r, g) := if wrap then wrapKeep w sg k else satInt w sg k
  (r, if g = 0 && inex then fNX else g)

/-- Float into Q64 with block exponent `qe`, R187 and R193. -/
def convFQ (wrap : Bool) (mode u : Nat) (qe : Int) (x : FVal) : IRes :=
  match x with
  | .nan _ => (0, fNV)
  | .inf n => (wrapInt 64 (if n then imin 64 true else imax 64 true), fSAT)
  | .fin n m e => convQI 64 true wrap mode u n m 1 (e + 63 - qe)

/-- Q64 into a float format. -/
def convQF (f : Fmt) (mode u : Nat) (qe q : Int) : FRes := roundZ f mode u false q (qe - 63)

end Sys2Proof.Machine
end

