-- ==== Sys2Proof/Machine/Atoms.lean ====
section
/-! DEFINITION. Atomic operations of R394 on local memory, and ordered float adds that wait for the next furrow (R397): what the fabric's
targets and the Shuttle share. -/

namespace Sys2Proof.Machine

/-- The float format of an operand of `n` bytes: BF16 or FP32. -/
def atomFmt (n : Nat) : Fmt := if n = 2 then bf16 else fp32

/-- The new value of an atomic of `n` bytes: old value, operand, and the new value of a compare-and-swap. -/
def atomNew (op n old x y : Nat) : Nat :=
  let w := 8 * n
  match op with
  | 0x10 => (old + x) % 2 ^ w
  | 0x11 => (iMin w true old x).1
  | 0x12 => (iMax w true old x).1
  | 0x13 => (iMin w false old x).1
  | 0x14 => (iMax w false old x).1
  | 0x15 => x
  | 0x16 => if old = x then y else old
  | 0x18 => (fadd (atomFmt n) 0 old x).1
  | 0x1C => (fadd (atomFmt n) 0 old x).1
  | 0x19 => (fmaxmin (atomFmt n) true old x).1
  | _ => (fmaxmin (atomFmt n) false old x).1

/-- What an access at the target comes to: its status (R396) and the bytes of its response. -/
structure TargetAns where
  status : Nat
  data : List Byte
  deriving DecidableEq, Repr

/-- Perform an atomic of `n` bytes at a local address. -/
def State.atomAt (s : State) (op a n x y : Nat) : State × TargetAns :=
  let r := s.readMem false a n
  if r.unpop then (s, ⟨0x0102, zeros n⟩)
  else if r.poison then (s, ⟨0x0901, []⟩)
  else
    let old := leNat r.data
    ((s.writeMem a (leBytes n (atomNew op n old x y))).1, ⟨0, r.data⟩)

/-- The order buffer's room, R397. -/
def orderRoom : Nat := 16384

/-- An ordered float add arrives: it waits for the next furrow in the order buffer, or outside it while the buffer is full. -/
def State.orderPut (s : State) (o : OrdAdd) : State :=
  { s with
    fab :=
      if s.fab.order.length < orderRoom && s.fab.orderWait.isEmpty then { s.fab with order := s.fab.order ++ [o] }
      else { s.fab with orderWait := s.fab.orderWait ++ [o] } }

end Sys2Proof.Machine
end

