-- ==== Sys2Proof/Machine/LongOp.lean ====
section
/-! DEFINITION. Long operations and the control commands that act on them (R93, R98 to R102): the start record, the end
record, suspension, resumption and cancellation, and the control commands that wait for an end. -/

namespace Sys2Proof.Machine

/-! ### Which operation -/

def opPROGRUN : Nat := 0x0302
def opTRAINSTEP : Nat := 0x0303
def opSOLVE : Nat := 0x0401
def opCOLLSETUP : Nat := 0x0501
def opBARRIER : Nat := 0x0103
def opSNAPSHOT : Nat := 0x0601
def opRESTORE : Nat := 0x0602
def opMEMCOPY : Nat := 0x0203
def opMEMFILL : Nat := 0x0204
def opRELAY : Nat := 0x0B02

/-- PROG_RUN and TRAIN_STEP: tiles run it and reach safe points. -/
def HRec.isProg (h : HRec) : Bool := h.opcode.toNat == opPROGRUN || h.opcode.toNat == opTRAINSTEP

/-- Parameter bytes of a command by their packet numbers, 16 up: from the packet, or with ptr set from the fetched block, zero
beyond its end (R544). -/
def parmOf (pkt : W512) (data : List (List Byte)) (off n : Nat) : Nat :=
  if pPtr pkt then leNat (((data.headD []).drop (off - 16)).take n) else bytesOf pkt off n

def HRec.parm (h : HRec) (off n : Nat) : Nat := parmOf h.pkt h.data off n

/-- The detail of an INTK_CANCELLED record: the chunks that hold final contents, for the operations of R101 that write in
place. -/
def HRec.cancelDetail (h : HRec) : Nat :=
  let o := h.opcode.toNat
  if o = opMEMCOPY ∨ o = opMEMFILL ∨ o = opRESTORE ∨ o = opRELAY then h.chunks else 0

/-- The operation whose tiles include tile `k`, in progress: its slot. -/
def State.opOfTile (s : State) (k : Nat) : Option Nat :=
  (s.handles.find? fun e => e.2.state.live && e.2.tiles.contains k).map fun e => e.1

/-! ### Control commands that wait, R99, R108, R109, R113 -/

/-- The end that a waiting control command has reached: status and detail, if it has. -/
def State.ctlEnd? (s : State) (c : Ctl) : Option (Nat × Nat) :=
  match c.kind with
  | .suspend =>
    match s.handle? c.subject with
    | none => some (0x030B, 0)
    | some (_, h) =>
      match h.state with
      | .suspending => none
      | .suspended => some (0, h.suspFurrow)
      | .running => some (0x0308, 0)
      | _ => some (0x030B, 0)
  | .resume =>
    match s.handle? c.subject with
    | none => some (0x030B, 0)
    | some (_, h) =>
      match h.state with
      | .running => some (0, 0)
      | .suspended => if h.resumeAt.isSome then none else some (0x0308, 0)
      | _ => some (0x030B, 0)
  | .cancel =>
    match s.handle? c.subject with
    | none => some (0x030B, 0)
    | some (_, h) =>
      match h.state with
      | .cancelled => some (0, 0)
      | .done => some (0x030B, 0)
      | _ => none
  | .flush =>
    if c.waits.all fun w =>
        match s.handle? w with
        | none => true
        | some (_, h) => !h.state.live || (c.choice == 0 && h.state == .suspended)
    then some (0, c.count) else none
  | .partReset | .partDelete =>
    if c.furrow.isNone && !(s.part c.subject).clearing
        && c.waits.all fun w =>
          match s.handle? w with
          | none => true
          | some (_, h) => !h.state.live
    then some (0, 0) else none
  | .debugHalt | .scan | .stage => none

/-- A control command that has reached its end gets its final record. -/
def State.settleOne (s : State) (c : Ctl) : State :=
  match s.ctlEnd? c with
  | none => s
  | some (st, d) => ({ s with ctl := s.ctl.erase c }).finish c.queue c.seq st 0 d

/-- Every control command that has reached its end, in the order in which they started (R102). -/
def State.settle (s : State) : State := s.ctl.foldl State.settleOne s

/-- A control command starts to wait. -/
def State.await (s : State) (c : Ctl) : State := { s with ctl := s.ctl ++ [c] }

/-! ### Start and end -/

/-- A checked command starts a long operation (R93, R98): it takes the lowest free slot and its start record is written;
without a free slot it completes with INTK_NO_HANDLE. -/
def State.startLong (s : State) (q seq part : Nat) (tiles : List Nat) : State × Option Nat :=
  match (s.queue q).entry? seq with
  | none => (s, none)
  | some e =>
    match freeSlot 4096 s 0 with
    | none => (s.finish q seq 0x0309 0 0, none)
    | some i =>
      let h : HRec :=
        { gen := nextGen s i, part := part, state := .running, opcode := BitVec.ofNat 16 (pOpcode e.pkt)
          lastFurrow := s.furrow, queue := q, seq := seq, pkt := e.pkt, data := e.data, startFurrow := s.furrow
          tiles := tiles, safeNo := 0, suspFurrow := 0, resumeAt := none, chunks := 0, ending := none
          late := false, sealDone := false, hostDone := false, restated := e.restated, undo := []
          job := { buf := [], left := 0, writing := false, unpop := false } }
      let s := s.setHslot i h
      let w := s.hword i
      let s := s.modQueue q fun v => v.modEntry seq fun e => { e with stage := .started, handle := BitVec.ofNat 32 w }
      ((s.digestStart part w).postRec (s.mkRec q seq 0 w 0 false), some i)

/-- What the program component of an operation's digest hashes (R439). -/
def State.programBytes (s : State) (h : HRec) : List Byte :=
  if h.isProg then s.imageBytes h.part else paramBytes h.pkt h.data

/-- A long operation ends: its final record with its digest (R442), its state DONE or CANCELLED, and the control commands that
waited for it. -/
def State.endOp (s : State) (i status detail : Nat) : State :=
  match s.hslot i with
  | none => s
  | some h =>
    let (s, detail) := s.digestEnd (s.hword i) detail (s.programBytes h)
    let s := s.hmove i (if status = 0x0308 then .cancelled else .done)
    let s := s.modHslot i fun h => { h with resumeAt := none, ending := none }
    (s.finish h.queue h.seq status (s.hword i) detail).settle

/-! ### Rolling back, R101 -/

/-- Before an operation writes [a, a + n) of HBM, every block that it has not written yet is kept. -/
def State.saveUndo (s : State) (i a n : Nat) : State :=
  (upFrom (a / 64) (if n = 0 then 0 else (a + n - 1) / 64 + 1 - a / 64)).foldl
    (fun s b => s.modHslot i fun h =>
      if (sfind? h.undo b).isSome then h
      else { h with undo := sins h.undo b (BitVec.ofNat 512 (mval s.hbm.mem (64 * b) 64), s.hbm.poisoned (64 * b)) }) s

/-- The HBM that an operation has written takes back the values it held before. -/
def State.rollback (s : State) (i : Nat) : State :=
  match s.hslot i with
  | none => s
  | some h =>
    let s := h.undo.foldl
      (fun s e =>
        { s with
          hbm :=
            { s.hbm with
              mem := mwrite s.hbm.mem (64 * e.1) (leBytes 64 e.2.1.toNat)
              poison := sput false s.hbm.poison e.1 e.2.2 } }) s
    s.modHslot i fun h => { h with undo := [] }

/-- A cancelled operation ends: it commits nothing. -/
def State.cancelEnd (s : State) (i : Nat) : State :=
  match s.hslot i with
  | none => s
  | some h => (s.rollback i).endOp i 0x0308 h.cancelDetail

/-- The next furrow. -/
def State.nextFurrow (s : State) : Nat := furrowAdd s.furrow 1

/-! ### SUSPEND, RESUME, CANCEL, R99 -/

/-- The tiles of an operation enter or leave SUSPENDING (R140); `k` is the lowest SAFEPT number that may be chosen. -/
def State.askSuspend (s : State) (i : Nat) : State :=
  match s.hslot i with
  | none => s
  | some h =>
    if h.isProg then
      let k := (h.tiles.map fun t => (s.tile t).safeptLast).foldl max 0 + 1
      let s := s.modHslot i fun h => { h with safeNo := k }
      h.tiles.foldl (fun s t => s.modTile t fun x => if x.run = .running then { x with run := .suspending } else x) s
    else s

/-- A pending suspension is withdrawn: tiles that wait or have saved go on with the next bundle. -/
def State.unaskSuspend (s : State) (i : Nat) : State :=
  match s.hslot i with
  | none => s
  | some h =>
    h.tiles.foldl
      (fun s t => s.modTile t fun x =>
        if x.run = .suspending ∨ x.run = .suspended then { x with run := .running, atSafe := false, save := none } else x) s

/-- SUSPEND. -/
def State.suspendCmd (s : State) (q seq handle : Nat) : State :=
  let c : Ctl :=
    { kind := .suspend, queue := q, seq := seq, subject := handle, waits := [], choice := 0, count := 0, furrow := none }
  match s.handle? handle with
  | none => s.finish q seq 0x030A 0 0
  | some (i, h) =>
    match h.state with
    | .running => (((s.hmove i .suspending).askSuspend i).await c)
    | .suspending => s.await c
    | .suspended => ((s.modHslot i fun h => { h with resumeAt := none }).settle).finish q seq 0 0 h.suspFurrow
    | _ => s.finish q seq 0x030B 0 0

/-- RESUME. -/
def State.resumeCmd (s : State) (q seq handle : Nat) : State :=
  let c : Ctl :=
    { kind := .resume, queue := q, seq := seq, subject := handle, waits := [], choice := 0, count := 0, furrow := none }
  match s.handle? handle with
  | none => s.finish q seq 0x030A 0 0
  | some (i, h) =>
    match h.state with
    | .running => s.finish q seq 0 0 0
    | .suspending => (((s.unaskSuspend i).hmove i .running).settle).finish q seq 0 0 0
    | .suspended =>
      (s.modHslot i fun h => { h with resumeAt := some (h.resumeAt.getD s.nextFurrow) }).await c
    | _ => s.finish q seq 0x030B 0 0

/-- An operation enters CANCELLING: pending control commands end, and it is cancelled at the next furrow boundary (R142). -/
def State.cancelOp (s : State) (i : Nat) : State :=
  ((s.hmove i .cancelling).modHslot i fun h => { h with resumeAt := none }).settle

/-- CANCEL. -/
def State.cancelCmd (s : State) (q seq handle : Nat) : State :=
  let c : Ctl :=
    { kind := .cancel, queue := q, seq := seq, subject := handle, waits := [], choice := 0, count := 0, furrow := none }
  match s.handle? handle with
  | none => s.finish q seq 0x030A 0 0
  | some (i, h) =>
    match h.state with
    | .running | .suspending | .suspended =>
      -- a commit phase of SOLVE_BATCH runs to its end (R285)
      if h.late && h.opcode.toNat == opSOLVE then s.await c else (s.cancelOp i).await c
    | .cancelling => s.await c
    | _ => s.finish q seq 0x030B 0 0

/-! ### FLUSH and PART_RESET, R113 and R117 -/

/-- The waiting commands of a queue: accepted and not started (one that waits for a fetch or its furrow has not started). -/
def State.waitingSeqs (s : State) (q : Nat) : List Nat :=
  ((s.queue q).entries.filter fun e => e.stage == .waiting || e.stage == .fetching || e.stage == .scheduled).map
    fun e => e.seq

/-- A waiting command is removed with a status, and its pending furrow event with it. -/
def State.dropWaiting (s : State) (q seq status : Nat) : State :=
  ({ s with sched := s.sched.filter fun e => e.kind != FKind.cmd q seq }).finish q seq status 0 0

/-- Flush the waiting commands of a list of queues, but for one command: how many were flushed. -/
def State.flushQueues (s : State) (qs : List Nat) (q0 seq0 : Nat) : State × Nat :=
  let all := qs.flatMap fun q => (s.waitingSeqs q).map fun n => (q, n)
  let mine := all.filter fun e => !(e.1 == q0 && e.2 == seq0)
  (mine.foldl (fun s e => s.dropWaiting e.1 e.2 0x0307) s, mine.length)

/-- The long operations in progress that a predicate names: their slots. -/
def State.liveOps (s : State) (p : HRec → Bool) : List Nat :=
  (s.handles.filter fun e => e.2.state.live && p e.2).map fun e => e.1

end Sys2Proof.Machine
end

