-- ==== Sys2Proof/Machine/CkptOps.lean ====
section
/-! DEFINITION. Step images (R444 to R449): the configuration block, the layout of an image, and its way back into a
partition (R460, R461). The block's own byte layout, which the spec leaves open, is that of notes/assumptions 20. -/

namespace Sys2Proof.Machine

/-! ### What an image holds, R444 -/

/-- `n` rounded up to whole 4 KiB pages, in pages. -/
def pagesOf (n : Nat) : Nat := (n + 4095) / 4096

/-- Offsets of the per-partition registers that the configuration block holds, in the order of R444. -/
def blockRegs (p : Nat) : List Nat :=
  [aTilePart p 0, aTilePart p 1, aTilePart p 2, aTilePart p 3, aBayBalerCfg p, aVecPartSeed p, aVecPartBase p,
   aShtlPartCfg p, aThrPartTau p, aThrPartCfg p, aCacheL2Waymask p, aDetPartCfg p]

/-- The program and configuration block, padded with zeros to whole pages. -/
def State.confBlock (s : State) (p : Nat) : List Byte :=
  let img := s.imageBytes p
  let bs := leBytes 8 (b2n (s.part p).loaded) ++ leBytes 8 img.length ++ ((blockRegs p).flatMap fun o => leBytes 8 (s.rd o)) ++ img
  bs ++ zeros (4096 * pagesOf bs.length - bs.length)

/-- The used CKPT_REGION regions of a partition: class, first page, pages. -/
def State.ckptRegions (s : State) (p : Nat) : List (Nat × Nat × Nat) :=
  ((below 8).filter fun n => s.fld (aCkptRegionBase p n) 1 0 != 0).map
    fun n => (s.fld (aCkptRegionBase p n) 1 0, s.fld (aCkptRegionBase p n) 47 12, s.fld (aCkptRegionLen p n) 27 0)

/-- One region of an image: class, local base, and its data in whole pages. -/
structure ImgRegion where
  cls : Nat
  base : Nat
  data : List Byte
  deriving DecidableEq, Repr

/-- The regions of an image in table order, entry 0 the configuration block. -/
def State.imgRegions (s : State) (p : Nat) : List ImgRegion :=
  ⟨0, 0, s.confBlock p⟩ :: (s.ckptRegions p).map fun r => ⟨r.1, 4096 * r.2.1, mread s.hbm.mem (4096 * r.2.1) (4096 * r.2.2)⟩

/-- The leaves of whole pages of data. -/
def leavesOf : Nat → List Byte → List (BitVec 256)
  | 0, _ => []
  | n + 1, bs => digestNum (sha256 (bs.take 4096)) :: leavesOf n (bs.drop 4096)

/-- The digest of a region of an image (R448, R440). -/
def ImgRegion.digest (r : ImgRegion) : List Byte := regionDigest r.base r.data.length (leavesOf (pagesOf r.data.length) r.data)

/-- What SNAPSHOT's parameters ask of an image. -/
structure SnapAsk where
  image : Nat
  furrow : Nat
  quality : Nat
  pos : Nat
  rank : Nat
  count : Nat
  /-- host copy with dedupe: regions that another replica writes stand as references -/
  dedupe : Bool
  deriving DecidableEq, Repr

/-- The 64 bytes of a region entry, R448. -/
def entryBytes (cls base len off : Nat) (ref : Bool) (digest : List Byte) : List Byte :=
  leBytes 1 cls ++ leBytes 1 (b2n ref) ++ zeros 6 ++ leBytes 8 base ++ leBytes 8 len ++ leBytes 8 (if ref then 0 else off)
    ++ digest

/-- Whether the data of region entry `n` is left to another replica (R451). -/
def SnapAsk.elsewhere (a : SnapAsk) (n : Nat) : Bool := a.dedupe && n != 0 && (n - 1) % a.count != a.rank

/-- Entries and data of the regions from entry `n` at offset `off` up: the table, the data, the length so far. -/
def layRegions (a : SnapAsk) : Nat → Nat → List ImgRegion → List Byte × List Byte × Nat
  | _, off, [] => ([], [], off)
  | n, off, r :: rs =>
    let ref := a.elsewhere n
    let (t, d, e) := layRegions a (n + 1) (if ref then off else off + r.data.length) rs
    (entryBytes r.cls r.base r.data.length off ref r.digest ++ t, (if ref then [] else r.data) ++ d, e)

/-- An image as R447 lays it out: the header page, then the region data. -/
def State.imageOf (s : State) (p : Nat) (a : SnapAsk) : List Byte :=
  let rs := s.imgRegions p
  let (table, data, size) := layRegions a 0 4096 rs
  let head := leBytes 4 0x594E5247 ++ leBytes 2 1 ++ leBytes 1 p ++ leBytes 1 rs.length ++ leBytes 6 a.image ++ zeros 2
    ++ leBytes 6 a.furrow ++ leBytes 1 a.quality ++ zeros 1 ++ leBytes 8 (s.shapeWord p) ++ leBytes 8 (s.modeWord p)
    ++ leBytes 8 (s.rd (aVecPartSeed p)) ++ leBytes 8 (s.rd (aVecPartBase p)) ++ leBytes 16 a.pos
    ++ leBytes 2 a.rank ++ leBytes 2 a.count ++ zeros 4 ++ leBytes 8 size
    ++ sha256 (rs.flatMap ImgRegion.digest)
  let page := head ++ zeros (256 - head.length) ++ table
  page ++ zeros (4096 - page.length) ++ data

/-- Pages of an image of partition `p` with all its data. -/
def State.imagePages (s : State) (p : Nat) : Nat :=
  1 + pagesOf (s.confBlock p).length + ((s.ckptRegions p).map fun r => r.2.2).sum

/-! ### Slots, R449 -/

def State.slotBase (s : State) (p k : Nat) : Nat := s.fld (aCkptSlotBase p k) 47 12 * 4096
def State.slotPages (s : State) (p k : Nat) : Nat := s.fld (aCkptSlotLen p k) 24 0

/-- The slot of the latest image. -/
def State.latestSlot (s : State) (p : Nat) : Option Nat :=
  if s.flag (aCkptPartLatest p) 49 then some (s.fld (aCkptPartLatest p) 48 48) else none

/-- The slot that a snapshot writes: the one that does not hold the latest image. -/
def State.snapSlot (s : State) (p : Nat) : Nat :=
  match s.latestSlot p with
  | some 0 => 1
  | _ => 0

/-- The number of the latest local image; 0 when there is none. -/
def State.latestImage (s : State) (p : Nat) : Nat := if s.flag (aCkptPartLatest p) 49 then s.fld (aCkptPartLatest p) 47 0 else 0

def State.setSlot (s : State) (p k v : Nat) : State :=
  { s with ckpt := { s.ckpt with slots := sput 0 s.ckpt.slots (2 * p + k) v } }

/-- The local slot that holds a valid image of a number. -/
def State.slotOf (s : State) (p image : Nat) : Option Nat :=
  (below 2).find? fun k => sget 0 s.ckpt.slots (2 * p + k) == image + 1

/-- Mark every chunk of a partition for its next seal (R454, R457). -/
def State.markAll (s : State) (p : Nat) : State :=
  ((s.ckptRegions p).flatMap fun r => upFrom r.2.1 r.2.2).foldl
    (fun s g => { s with ckpt := { s.ckpt with dirty := sput false s.ckpt.dirty (p * 2 ^ 28 + g) true } }) s

/-- Image chunk numbers that the next seal has to send: the header and the configuration block, and every marked chunk. -/
def State.chunksToSend (s : State) (p : Nat) : List Nat :=
  let head := 1 + pagesOf (s.confBlock p).length
  let all := ((s.ckptRegions p).flatMap fun r => upFrom r.2.1 r.2.2).zip (upFrom head (s.imagePages p))
  below head ++ ((all.filter fun e => sget false s.ckpt.dirty (p * 2 ^ 28 + e.1)).map fun e => e.2)

/-! ### Back into the partition, R460 and R461 -/

/-- Bytes [a, a + n) of a byte string as a number. -/
def at_ (bs : List Byte) (a n : Nat) : Nat := leNat ((bs.drop a).take n)

/-- The regions of an image with their entries: class, base, data, reference, digest. -/
def entriesOf (img : List Byte) : List (Nat × Nat × List Byte × Bool × List Byte) :=
  (below (at_ img 7 1)).map fun n =>
    let e := 256 + 64 * n
    (at_ img e 1, at_ img (e + 8) 8, (img.drop (at_ img (e + 24) 8)).take (at_ img (e + 16) 8), bit (at_ img (e + 1) 1) 0,
     (img.drop (e + 32)).take 32)

/-- The status with which RESTORE of an image ends, and its detail (R460). -/
def State.imageCheck (s : State) (p : Nat) (img : List Byte) : Nat × Nat :=
  let es := entriesOf img
  let idx := below es.length
  if at_ img 0 4 ≠ 0x594E5247 ∨ at_ img 4 2 ≠ 1 ∨ at_ img 80 8 ≠ img.length ∨ img.length < 4096 then (0x0304, 0)
  else
    match (idx.zip es).find? fun e => e.2.2.2.2.1 with
    | some e => (0x0304, e.1)
    | none =>
      match (idx.zip es).find? fun e => ImgRegion.digest ⟨e.2.1, e.2.2.1, e.2.2.2.1⟩ != e.2.2.2.2.2 with
      | some e => (0x0304, e.1)
      | none => if at_ img 24 8 % 2 ^ 40 = s.shapeWord p % 2 ^ 40 then (0, 0) else (0x0F01, 0)

/-- The configuration block back into the partition: registers but TILE_PART, the loaded image, every tile reloaded. -/
def State.putBlock (s : State) (p : Nat) (blk : List Byte) : State :=
  let regs := (blockRegs p).zip (upFrom 0 12)
  let s := (regs.drop 4).foldl (fun s e => s.wr e.1 (at_ blk (16 + 8 * e.2) 8)) s
  let n := at_ blk 8 8
  let loaded := at_ blk 0 8 == 1
  let s := { s with retB := mwrite s.retB (imageBase p) ((blk.drop 112).take n) }
  let s := s.modPart p fun v => { v with loaded := loaded, imgLen := n }
  if loaded then (s.partTiles p).foldl (fun s k => s.loadTile p k) s else s

/-- Copy an image into the partition's regions, registers and program state, and mark every chunk (steps 2 and 3 of R461). -/
def State.putImage (s : State) (p : Nat) (img : List Byte) : State :=
  let s := (entriesOf img).foldl (fun s e => if e.1 = 0 then s.putBlock p e.2.2.1 else s.hbmPut e.2.1 e.2.2.1) s
  let s := (s.wr (aVecPartSeed p) (at_ img 40 8)).wr (aVecPartBase p) (at_ img 48 8)
  s.markAll p

/-- The image in a local slot. -/
def State.slotImage (s : State) (p k : Nat) : List Byte :=
  mread s.hbm.mem (s.slotBase p k) (mval s.hbm.mem (s.slotBase p k + 80) 8)

/-! ### Buddy mirroring, R452 to R454 -/

/-- Snapshots are sealed at a buddy: a mirror area is configured, a buddy is named and not declared lost. -/
def State.mirroring (s : State) : Bool := s.flag aCkptMirror 63 && s.buddy != 0 && !s.ckpt.lost

/-- Send the chunks of a captured image to the buddy, then the seal (R454). -/
def State.sendImage (s : State) (p image : Nat) (img : List Byte) : State :=
  let cs := (sfind? s.ckpt.sending p).getD []
  let s := cs.foldl (fun s c => s.emit (.mirror 0x33 [p, c, at_ img (4096 * c) 4096])) s
  s.emit (.mirror 0x34 [p, image, cs.length, at_ img 88 32])

/-- The SNAPSHOT in slot `i` has its final record written when its capture, its seal and its host copy are done (R452). -/
def State.snapFinish (s : State) (i : Nat) : State :=
  match s.hslot i with
  | none => s
  | some h =>
    let host := bit (h.parm 22 1) 0
    let sealed := h.sealDone
    if h.opcode.toNat = opSNAPSHOT && h.state.live && h.late && (sealed || !s.mirroring) && (h.hostDone || !host) then
      s.endOp i 0 (h.parm 16 6 + b2n host * 2 ^ 62 + b2n (!sealed) * 2 ^ 63)
    else s

end Sys2Proof.Machine
end

