-- ==== Sys2Proof/Machine/BuddyOps.lean ====
section
/-! DEFINITION. The loss of a partner as its buddy meets it (R456, R458, R459): TAKEOVER to one spare after the other, and the transfer of
images and journal to the spare that accepts it. -/

namespace Sys2Proof.Machine

/-- The partitions whose sealed image this package holds for its partner. -/
def State.mirrored (s : State) : List Nat := (below 16).filter fun p => (s.mirror p).image.isSome

/-- The record of a lost buddy, or of a takeover that no spare accepts (R458, R482). -/
def State.buddyRecord (s : State) : State :=
  s.errRecord { event := 0x0A, cls := 9, sev := none, part := none, loc := 0, addr := 0, data := leBytes 2 s.buddy }

/-- The packet of TAKEOVER (R458); which queue of the spare it names, and its sequence number, are free values. -/
def State.takeoverPacket (s : State) : Nat :=
  let mask := (s.mirrored.map fun p => 2 ^ p).sum
  0x0C02 + (s.free1 % 64) * 2 ^ 16 + (s.free1 / 64 % 2 ^ 48) * 2 ^ 32 + 4 * 2 ^ 80 + 0xFFFFFFFF * 2 ^ 96 + s.buddy * 2 ^ 128
    + mask * 2 ^ 144

/-- TAKEOVER goes to the first valid CKPT_SPARE entry from `k` on; with none left an error record is written. -/
def State.trySpare (s : State) (k : Nat) : State :=
  match (upFrom k (2 - k)).find? fun n => s.flag (aCkptSpare n) 63 with
  | none => State.buddyRecord { s with ckpt := { s.ckpt with trying := none } }
  | some n =>
    let pkt := s.takeoverPacket
    let s := s.freed
    let s := { s with ckpt := { s.ckpt with trying := some n } }
    s.fabIssue 801 0 0 0x20 (s.fld (aCkptSpare n) 15 0) 0 64 (leBytes 64 pkt) .mirror

/-- The TAKEOVER on its way is given up: its answer is no longer awaited. -/
def State.dropTakeover (s : State) : State :=
  { s with
    fab := { s.fab with outst := s.fab.outst.map fun o => if o.isFor = .mirror then { o with isFor := .nobody } else o } }

/-- The copy area and the journal go to the spare (steps 2 and 4 of R459): a chunk with its partition and number; then per queue the
highest sequence number held; then the entries. -/
def State.sendTakeover (s : State) : State :=
  let s := s.mirrored.foldl
    (fun s p => (s.mirror p).chunks.foldl (fun s e => s.emit (.mirror 0x35 [p, e.1, e.2.toNat])) s) s
  let js := s.ckpt.partnerJ
  let tops := (below 64).filterMap fun q =>
    match (js.filter fun j => j.queue == q).map fun j => j.seq with
    | [] => none
    | x :: xs => some (q, xs.foldl max x)
  let s := tops.foldl (fun s e => s.emit (.mirror 0x36 [e.1, e.2])) s
  js.foldl (fun s j => s.emit (.mirror 0x36 [j.queue, j.seq, j.pkt.toNat, b2n j.retired])) s

/-- The answer to TAKEOVER: accepted, the transfer begins; refused, the next spare is asked; with poison the 100 ms of R458 run
on. -/
def State.takeoverAnswer (s : State) (status : Nat) : State :=
  match s.ckpt.trying with
  | none => s
  | some k =>
    if status = 0 then State.sendTakeover { s with ckpt := { s.ckpt with trying := none } }
    else if status = 0x0C02 then s
    else s.trySpare (k + 1)

end Sys2Proof.Machine
end

