-- ==== Sys2Proof/Machine/Cache.lean ====
section
/-! DEFINITION. The caches of the Cusojo die and the home directory (R361 to R384): where a line lies, allocation and
eviction, snoops, the home's answer to each request, and the accesses of cores built from them. A line is an address divided
by 64; lines beyond populated HBM are host memory (R383). Levels: 0 L1I, 1 L1D, 2 L2, 3 Gleaner, 4 system cache. -/

namespace Sys2Proof.Machine

/-! ### Places -/

def lineKey (level inst set way : Nat) : Nat := level * 2 ^ 40 + inst * 2 ^ 24 + set * 2 ^ 8 + way
def keyLevel (k : Nat) : Nat := k / 2 ^ 40
def keyInst (k : Nat) : Nat := k / 2 ^ 24 % 2 ^ 16
def keySet (k : Nat) : Nat := k / 2 ^ 8 % 2 ^ 16

/-- Ways of a level, R363. -/
def levelWays (level : Nat) : Nat := if level = 3 then 32 else 16

/-- Sets of an instance, R363. -/
def levelSets : Nat → Nat
  | 0 => 64
  | 1 => 64
  | 2 => 2048
  | 3 => 512
  | _ => 4096

/-- Instances of a level: the cores, and the steward pairs as instances 96 and 97; the Gleaners; the slices. -/
def levelInsts : Nat → Nat
  | 3 => 12
  | 4 => 48
  | _ => 98

/-- The line as the system cache's hashed mode sees it, R366. -/
def State.hline (s : State) (line : Nat) : Nat :=
  if s.flag aCacheMode 7 then line ^^^ foldBits 20 4 (line / 2 ^ 20) else line

/-- The home slice of a line (R363, R366). -/
def State.slice (s : State) (line : Nat) : Nat := s.hline line % 48

/-- The set of a line at a level (R363, R366). -/
def State.setOf (s : State) (level line : Nat) : Nat :=
  match level with
  | 0 => line % 64
  | 1 => line % 64
  | 2 => if s.flag aCacheMode 6 then line % 2048 ^^^ foldBits 11 8 (line / 2048) else line % 2048
  | 3 => line % 512
  | _ => s.hline line / 48 % 4096

/-- Host memory, as opposed to populated local HBM. -/
def isHostLine (line : Nat) : Bool := hbmEnd / 64 ≤ line

/-- Enable bit of a level in CACHE_MODE. -/
def State.levelOn (s : State) (level : Nat) : Bool := s.flag aCacheMode (level + 1)

/-- The entry of an instance that holds a line. -/
def State.findLine (s : State) (level inst line : Nat) : Option (Nat × CLine) :=
  s.cache.lines.find? fun e => keyLevel e.1 == level && keyInst e.1 == inst && e.2.line == line

def State.setLines (s : State) (m : SMap CLine) : State := { s with cache := { s.cache with lines := m } }

/-- Drop the entries that a predicate names. -/
def State.dropLines (s : State) (p : Nat → CLine → Bool) : State :=
  s.setLines (s.cache.lines.filter fun e => !p e.1 e.2)

/-- Change the entries that a predicate names. -/
def State.mapLines (s : State) (p : Nat → CLine → Bool) (f : CLine → CLine) : State :=
  s.setLines (s.cache.lines.map fun e => if p e.1 e.2 then (e.1, f e.2) else e)

/-- Drop the L1 copies of a line at a core: L1I and L1D are inclusive in the L2 (R363). -/
def State.dropL1 (s : State) (c line : Nat) : State :=
  s.dropLines fun k e => keyLevel k ≤ 1 && keyInst k == c && e.line == line

/-! ### System cache and memory -/

/-- Write a whole line to HBM. -/
def State.lineToHbm (s : State) (line : Nat) (d : W512) : State :=
  if isHostLine line then s else s.hbmPut (64 * line) (leBytes 64 d.toNat)

/-- A line from HBM; none when its block is poisoned. -/
def State.lineFromHbm (s : State) (line : Nat) : Option W512 :=
  if s.hbm.poisoned (64 * line) then none else some (BitVec.ofNat 512 (mval s.hbm.mem (64 * line) 64))

/-- Ways of a system-cache slice that a line may fill: host lines only 14 and 15 (R383). -/
def scWays (line : Nat) : List Nat := if isHostLine line then [14, 15] else below 16

/-- The way that takes a new line: the first invalid way of those allowed, else the pseudo-LRU victim (R364). -/
def State.pickWay (s : State) (level inst set : Nat) (ways : List Nat) : Nat :=
  match ways.find? fun w => (sfind? s.cache.lines (lineKey level inst set w)).isNone with
  | some w => w
  | none => (nth ways (Config.plruVictim level inst set ways.length % ways.length)).getD 0

/-- Put a line into an instance: the line that had to leave, if any. The level's clean flag falls (R367). -/
def State.insertLine (s : State) (level inst : Nat) (ways : List Nat) (e : CLine) : State × Option CLine :=
  let set := s.setOf level e.line
  let k := lineKey level inst set (s.pickWay level inst set ways)
  let old := sfind? s.cache.lines k
  ((s.setLines (sins s.cache.lines k e)).setFld aCacheStatus (57 + level) (57 + level) 0, old)

/-- Put a line into the system cache, writing a dirty victim to HBM, or for host memory sending it to the host (R371, R383);
with the level off it goes straight to memory. -/
def State.scPut (s : State) (line : Nat) (d : W512) (dirty : Bool) : State :=
  match s.findLine 4 (s.slice line) line with
  | some (k, e) =>
    s.setLines (sins s.cache.lines k { e with data := d, st := if dirty then .m else e.st })
  | none =>
    if s.levelOn 4 then
      let r := s.insertLine 4 (s.slice line) (scWays line)
        { line := line, st := if dirty then .m else .e, data := d, chunks := 15, hit := false }
      match r.2 with
      | some v =>
        if isHostLine v.line then r.1.emit (.cxl (if v.st = .m then 3 else 2) v.line v.data)
        else if v.st = .m then r.1.lineToHbm v.line v.data
        else r.1
      | none => r.1
    else if !dirty then s
    else if isHostLine line then s.emit (.cxl 3 line d)
    else s.lineToHbm line d

/-- Data of a line that no holder owns: the system cache's copy, else HBM, none when poisoned; of host memory a holder's
copy. -/
def State.homeData (s : State) (line : Nat) : State × Option W512 :=
  match s.findLine 4 (s.slice line) line with
  | some (k, e) => (s.setLines (sins s.cache.lines k { e with hit := true }), some e.data)
  | none =>
    if isHostLine line then (s, (s.cache.lines.find? fun e => e.2.line == line).map fun e => e.2.data)
    else (s, s.lineFromHbm line)

/-! ### Holders -/

/-- The holder of an instance at levels 0 to 3: clusters 0 to 11, steward pairs 12 and 13. -/
def keyHolder (k : Nat) : Nat :=
  if keyLevel k = 3 then keyInst k
  else if keyInst k < 96 then keyInst k / 8
  else 12 + (keyInst k - 96)

/-- The holder that a requester is: cores by cluster, steward pairs, the host; PCIe I/O (99) is none. -/
def reqHolder (req : Nat) : Option Nat :=
  if req < 96 then some (req / 8)
  else if req < 99 then some (12 + (req - 96))
  else none

/-- Whether an entry belongs to a holder and holds the line. -/
def heldBy (h line k : Nat) (e : CLine) : Bool := keyLevel k ≤ 3 && keyHolder k == h && e.line == line

/-- The evict-pending buffer of an L2: core c's is c, steward pair n's is 108 + n. -/
def l2Owner (c : Nat) : Nat := if c < 96 then c else c + 12

/-- The holder of an evict-pending buffer: L2 of core c is c, Gleaner of cluster k is 96 + k. -/
def evictHolder (owner : Nat) : Nat := if owner < 96 then owner / 8 else owner - 96

/-- A dirty state. -/
def Moesi.dirty : Moesi → Bool
  | .m => true
  | .o => true
  | _ => false

/-- The dirty data that a holder has for a line, in a cache or in an evict-pending buffer. -/
def State.dirtyAt (s : State) (h line : Nat) : Option W512 :=
  match s.cache.lines.find? fun e => heldBy h line e.1 e.2 && e.2.st.dirty with
  | some e => some e.2.data
  | none =>
    (s.cache.evict.find? fun v => evictHolder v.owner == h && v.line == line && v.dirty && !v.gone).map fun v => v.data

/-- Whether a holder has the line only in an evict-pending buffer. -/
def State.onlyEvicting (s : State) (h line : Nat) : Bool :=
  !(s.cache.lines.any fun e => heldBy h line e.1 e.2)
    && s.cache.evict.any fun v => evictHolder v.owner == h && v.line == line && !v.gone

/-- A snoop answered from an evict-pending buffer: the line counts as given up (R378). -/
def State.giveUp (s : State) (h line : Nat) : State :=
  { s with
    cache :=
      { s.cache with
        evict := s.cache.evict.map fun (v : Evict) =>
          if evictHolder v.owner = h ∧ v.line = line then { v with gone := true } else v } }

/-- A holder invalidates its copies and answers with dirty data, if it has some. -/
def State.snoopInv (s : State) (h line : Nat) : State × Option W512 :=
  let d := s.dirtyAt h line
  ((s.dropLines fun k e => heldBy h line k e).giveUp h line, d)

/-- A shared snoop: M becomes O and E becomes S, with the dirty data; a line only in an evict-pending buffer is given up and
its dirty data goes to the system cache (R378). The last part says whether the holder keeps a copy, and whether as owner. -/
def State.snoopShared (s : State) (h line : Nat) : State × Option W512 × Bool × Bool :=
  let d := s.dirtyAt h line
  if s.onlyEvicting h line then
    let s := s.giveUp h line
    match d with
    | some x => (s.scPut line x true, d, false, false)
    | none => (s, none, false, false)
  else
    let keeps := s.cache.lines.any fun e => heldBy h line e.1 e.2
    let s := s.mapLines (heldBy h line) fun e =>
      { e with st := match e.st with
                     | .m => .o
                     | .e => .s
                     | x => x }
    (s, d, keeps, d.isSome)

/-! ### The directory, R373 to R375 -/

def State.dirOf (s : State) (line : Nat) : Option DirEnt := sfind? s.cache.dir line

def State.setDir (s : State) (line : Nat) (d : Option DirEnt) : State :=
  { s with
    cache :=
      { s.cache with
        dir := match d with
               | some x => if x.holders.isEmpty && x.waiting.isEmpty && !x.wb then sdel s.cache.dir line else sins s.cache.dir line x
               | none => sdel s.cache.dir line } }

/-- The set of a line in its slice's directory: 8,192 sets of 16 ways (R375). -/
def State.dirSet (s : State) (line : Nat) : Nat := s.hline line / 48 % 8192

/-- Invalidate every holder of a list, dirty data going to the system cache when `keep`; the data seen. -/
def State.invAll (s : State) (line : Nat) (keep : Bool) : List Nat → State × Option W512
  | [] => (s, none)
  | h :: hs =>
    let r := s.snoopInv h line
    let s := match r.2 with
      | some d => if keep then r.1.scPut line d true else r.1
      | none => r.1
    let q := s.invAll line keep hs
    (q.1, match r.2 with
      | some d => some d
      | none => q.2)

/-- Room in the directory set of a new line: when 16 entries fill it, the holders of a victim are invalidated (R375). -/
def State.dirRoom (s : State) (line : Nat) : State :=
  let same := s.cache.dir.filter fun e => s.slice e.1 == s.slice line && s.dirSet e.1 == s.dirSet line
  if same.length < 16 || (s.dirOf line).isSome then s
  else
    match nth same (Config.plruVictim 5 (s.slice line) (s.dirSet line) 16 % 16) with
    | some (l, d) => (((s.invAll l true d.holders).1).setDir l none).countFld aCacheStatus 47 32 1
    | none => s

/-! ### The home answers, R374 -/

/-- What a request got: data (none when its block is poisoned) and the state granted; or it waits. -/
inductive Grant where
  | got (d : Option W512) (st : Moesi)
  | waits
  deriving DecidableEq, Repr

/-- Distance of a requester from ptr, R376: ptr is the low 7 bits of the 2 GHz cycle count. -/
def homeDist (id now : Nat) : Nat := (id + 128 - 2 * now % 128) % 128

/-- Queue a request at the directory: by arrival, and within one nanosecond by distance (R376). -/
def addWaiting (r : HomeReq) : List HomeReq → List HomeReq
  | [] => [r]
  | x :: xs =>
    if x.at_ = r.at_ ∧ homeDist r.req r.at_ < homeDist x.req x.at_ then r :: x :: xs else x :: addWaiting r xs

/-- Add a holder to a list that does not hold it. -/
def addHolder (hs : List Nat) (h : Option Nat) : List Nat :=
  match h with
  | some x => if hs.contains x then hs else hs ++ [x]
  | none => hs

/-- Serve a request that nothing holds back, with the holders other than the host; `own` asks for ownership. -/
def State.homeServe (s : State) (line req : Nat) (own : Bool) : State × Grant :=
  let me := reqHolder req
  let s := if me.isSome then s.dirRoom line else s
  match s.dirOf line with
  | none =>
    let r := s.homeData line
    match r.2 with
    | none => (r.1, .got none .e)
    | some d =>
      (match me with
       | some h => r.1.setDir line (some { st := .e, holders := [h], wb := false, waiting := [] })
       | none => r.1, .got (some d) .e)
  | some e =>
    if own then
      let r := s.invAll line false e.holders
      let q := match r.2 with
        | some d => (r.1, some d)
        | none => r.1.homeData line
      (q.1.setDir line (some { e with st := .e, holders := me.toList }), .got q.2 .e)
    else
      match e.st with
      | .s =>
        let q := s.homeData line
        (q.1.setDir line (some { e with holders := addHolder e.holders me }), .got q.2 .s)
      | _ =>
        let o := e.holders.headD 0
        let (s1, d, keeps, owns) := s.snoopShared o line
        let rest := e.holders.filter fun h => h != o
        let hs := addHolder (if keeps then o :: rest else rest) me
        let q := match d with
          | some x => (s1, some x)
          | none => s1.homeData line
        (q.1.setDir line (some { e with st := if owns then .o else .s, holders := hs }), .got q.2 .s)

/-- A request of a requester that already waits, for no less than is asked now, is not queued again. -/
def HomeReq.covers (x : HomeReq) (req : Nat) (own : Bool) : Bool := x.req == req && (x.unique || !own)

/-- Queue a request at a directory entry; PCIe I/O (99) asks again by itself. -/
def State.homeWait (s : State) (line req : Nat) (own : Bool) (e : DirEnt) : State :=
  if req = 99 || e.waiting.any fun x => x.covers req own then s
  else s.setDir line (some { e with waiting := addWaiting { req := req, unique := own, at_ := s.time.refNs } e.waiting })

/-- Queue a request until the host answers, and ask the host with a message of a kind. -/
def State.hostWait (s : State) (line req kind : Nat) (own : Bool) : State :=
  if s.cache.cxlWait.any fun x => x.1 == line && x.2.covers req own then s
  else
    let me : HomeReq := { req := req, unique := own, at_ := s.time.refNs }
    State.emit { s with cache := { s.cache with cxlWait := s.cache.cxlWait ++ [(line, me)] } } (.cxl kind line 0)

/-- A request reaches the home (R374): it waits behind a writeback whose data has not landed (R377), for the host when the
host holds the line or the line is host memory that no cache here has (R382, R383); otherwise it is served. -/
def State.homeRequest (s : State) (line req : Nat) (own : Bool) : State × Grant :=
  let known := (s.findLine 4 (s.slice line) line).isSome || (s.dirOf line).isSome
  match s.dirOf line with
  | some e =>
    if e.wb || !e.waiting.isEmpty then (s.homeWait line req own e, .waits)
    else if e.holders.contains 14 && req != 98 && (own || !(isHostLine line)) then
      (s.hostWait line req (if isHostLine line then 1 else if own then 5 else 4) own, .waits)
    else s.homeServe line req own
  | none =>
    if isHostLine line && !known then (s.hostWait line req (if own then 1 else 0) own, .waits)
    else s.homeServe line req own

/-! ### Filling a core's caches, R369 to R372 -/

/-- L2 ways that a core may fill: the way mask of its partition (R365). -/
def State.l2Ways (s : State) (c : Nat) : List Nat :=
  if 96 ≤ c then below 16
  else (below 16).filter fun w => bit (s.rd (aCacheL2Waymask (s.corePart c))) w

/-- Lines in an evict-pending buffer. -/
def State.evictCount (s : State) (owner : Nat) : Nat := (s.cache.evict.filter fun v => v.owner == owner).length

/-- A line leaves a cluster: into its evict-pending buffer until the home acknowledges it (R372). -/
def State.toEvict (s : State) (owner : Nat) (v : CLine) : State :=
  { s with
    cache :=
      { s.cache with
        evict := s.cache.evict ++
          [{ owner := owner, line := v.line, dirty := v.st.dirty, data := v.data, gone := false, acked := false }] } }

/-- An L2 victim goes to the cluster's Gleaner with its state, and the Gleaner's victim leaves the cluster (R370, R371); a
steward pair has no Gleaner. -/
def State.l2Victim (s : State) (c : Nat) (v : CLine) : State :=
  let s := s.dropL1 c v.line
  if c < 96 && s.levelOn 3 then
    let r := s.insertLine 3 (c / 8) (below 32) { v with hit := false }
    match r.2 with
    | some w => r.1.toEvict (96 + c / 8) w
    | none => r.1
  else s.toEvict (l2Owner c) v

/-- Whether a miss of core `c` may go on: an evict-pending buffer that its victims need is not full (R372). -/
def State.evictRoom (s : State) (c : Nat) : Bool :=
  s.evictCount (l2Owner c) < 16 && (96 ≤ c || s.evictCount (96 + c / 8) < 16)

/-- Fill a line into the L2 of core `c`, with the chunks that have arrived. -/
def State.fillL2 (s : State) (c line : Nat) (d : W512) (st : Moesi) (chunks : BitVec 4) : State :=
  if s.levelOn 2 then
    let r := s.insertLine 2 c (s.l2Ways c) { line := line, st := st, data := d, chunks := chunks, hit := false }
    match r.2 with
    | some v => r.1.l2Victim c v
    | none => r.1
  else s

/-- Fill the L1 of core `c` (0 instructions, 1 data) with a line that its L2 holds. -/
def State.fillL1 (s : State) (level c line : Nat) (d : W512) (st : Moesi) : State :=
  if s.levelOn level && (s.findLine level c line).isNone && (s.findLine 2 c line).isSome then
    (s.insertLine level c (below 16) { line := line, st := st, data := d, chunks := 15, hit := false }).1
  else s

/-- The line as core `c` finds it in its L2, recalling it from the cluster's Gleaner if need be (R370). -/
def State.recall (s : State) (c line : Nat) : State × Option (Nat × CLine) :=
  match s.findLine 2 c line with
  | some x => (s, some x)
  | none =>
    match if c < 96 then s.findLine 3 (c / 8) line else none with
    | some (k, e) =>
      if s.levelOn 2 && s.evictRoom c then
        let s := s.setLines (sdel s.cache.lines k)
        let s := s.fillL2 c line e.data e.st e.chunks
        (s, s.findLine 2 c line)
      else (s, some (k, e))
    | none => (s, none)

/-- Outcome of a core's access to a line: data, poison, or the access waits (nothing has happened to the core yet). -/
inductive LineRes where
  | ok (d : W512)
  | poison
  | waits
  deriving DecidableEq, Repr

/-- A core reads a line: from its caches, else from the home (read shared). With the L2s off no copy is kept. -/
def State.coreRead (s : State) (l1 c line : Nat) : State × LineRes :=
  let (s, hit) := s.recall c line
  match hit with
  | some (k, e) =>
    if e.chunks != 15 then (s, .waits)
    else
      let s := s.setLines (sins s.cache.lines k { e with hit := true })
      (s.fillL1 l1 c line e.data e.st, .ok e.data)
  | none =>
    if s.levelOn 2 && !(s.evictRoom c) then (s, .waits)
    else
      let (s, g) := s.homeRequest line (if s.levelOn 2 then c else 99) false
      match g with
      | .waits => (s, .waits)
      | .got none _ => (s, .poison)
      | .got (some d) st => ((s.fillL2 c line d st 15).fillL1 l1 c line d st, .ok d)

/-- Put new data into the copies of a line that core `c` holds in M. -/
def State.updateOwn (s : State) (c line : Nat) (d : W512) : State :=
  s.mapLines (fun k e => keyLevel k ≤ 2 && keyInst k == c && e.line == line) fun e => { e with data := d, st := .m, hit := true }

/-- Invalidate the other copies inside the core's own cluster, which the home does not see. -/
def State.dropOthers (s : State) (c line : Nat) : State :=
  s.dropLines fun k e => heldBy ((reqHolder c).getD 99) line k e && !(keyLevel k ≤ 2 && keyInst k == c)

/-- An upgrade (R374, R379): with the requester listed and the line in S or O the other holders are invalidated and it owns
the line, otherwise it is a read unique. -/
def State.homeUpgrade (s : State) (line req : Nat) : State × Grant :=
  match s.dirOf line with
  | some e =>
    let h := (reqHolder req).getD 99
    if !e.wb && e.waiting.isEmpty && e.holders.contains h && e.st != .e && !(e.holders.contains 14) then
      let own := s.cache.lines.find? fun x => heldBy h line x.1 x.2 && keyInst x.1 == req && keyLevel x.1 == 2
      match own with
      | some x =>
        let d := x.2.data
        let r := s.invAll line false (e.holders.filter fun y => y != h)
        ((r.1.dropOthers req line).setDir line (some { e with st := .e, holders := [h] }), .got (some d) .e)
      | none => s.homeRequest line req true
    else s.homeRequest line req true
  | none => s.homeRequest line req true

/-- A core takes a line for writing: its own M or E copy, else an upgrade or a read unique (R374). -/
def State.coreOwn (s : State) (c line : Nat) : State × LineRes :=
  let (s, hit) := s.recall c line
  match hit with
  | some (_, e) =>
    if e.chunks != 15 then (s, .waits)
    else if e.st = .m ∨ e.st = .e then ((s.fillL1 1 c line e.data .m).updateOwn c line e.data, .ok e.data)
    else
      let (s, g) := s.homeUpgrade line c
      match g with
      | .waits => (s, .waits)
      | .got none _ => (s, .poison)
      | .got (some d) _ =>
        let s := if (s.findLine 2 c line).isSome then s else s.fillL2 c line d .m 15
        ((s.fillL1 1 c line d .m).updateOwn c line d, .ok d)
  | none =>
    if s.levelOn 2 && !(s.evictRoom c) then (s, .waits)
    else
      let (s, g) := s.homeRequest line (if s.levelOn 2 then c else 99) true
      match g with
      | .waits => (s, .waits)
      | .got none _ => (s, .poison)
      | .got (some d) _ => ((s.fillL2 c line d .m 15).fillL1 1 c line d .m, .ok d)

/-- A core writes a whole line that coreOwn has given it; without a copy of its own (L2s off) the data goes to the home. -/
def State.coreWrite (s : State) (c line : Nat) (d : W512) : State :=
  if s.cache.lines.any fun e => keyLevel e.1 == 2 && keyInst e.1 == c && e.2.line == line then s.updateOwn c line d
  else if c < 96 && (s.findLine 3 (c / 8) line).isSome then
    s.mapLines (fun k e => keyLevel k == 3 && keyInst k == c / 8 && e.line == line) fun e => { e with data := d, st := .m }
  else
    match s.findLine 4 (s.slice line) line with
    | some _ => s.scPut line d true
    | none => s.lineToHbm line d

/-! ### Cleaning and invalidating, R380 and R384 -/

/-- The holders of a line now. -/
def State.holdersOf (s : State) (line : Nat) : List Nat :=
  match s.dirOf line with
  | some e => e.holders
  | none => []

/-- Dirty copies of a line go to the system cache and are kept clean. -/
def State.cleanLine (s : State) (line : Nat) : State :=
  let d := (s.holdersOf line).filterMap fun h => s.dirtyAt h line
  match d with
  | x :: _ =>
    let s := s.mapLines (fun k e => keyLevel k ≤ 3 && e.line == line)
      fun e => { e with st := match e.st with
                              | .m => .e
                              | .o => .s
                              | y => y }
    let s := { s with cache := { s.cache with evict := s.cache.evict.map fun (v : Evict) => if v.line = line then { v with dirty := false } else v } }
    let s := match s.dirOf line with
      | some e => s.setDir line (some { e with st := if e.st = DirSt.o then .s else e.st })
      | none => s
    s.scPut line x true
  | [] => s

/-- All copies of a line in every level but the system cache are discarded; dirty data is lost. -/
def State.discardLine (s : State) (line : Nat) : State :=
  let r := s.invAll line false (s.holdersOf line)
  match r.1.dirOf line with
  | some e => r.1.setDir line (some { e with holders := [] })
  | none => r.1

/-- The system-cache copy of a line is discarded. -/
def State.discardSc (s : State) (line : Nat) : State := s.dropLines fun k e => keyLevel k == 4 && e.line == line

/-- A dirty system-cache copy is written through to memory and kept clean. -/
def State.flushSc (s : State) (line : Nat) : State :=
  match s.findLine 4 (s.slice line) line with
  | some (k, e) =>
    if e.st = .m then (s.lineToHbm line e.data).setLines (sins s.cache.lines k { e with st := .e }) else s
  | none => s

/-- Every line that any level or buffer holds. -/
def State.cachedLines (s : State) : List Nat :=
  (s.cache.lines.map fun e => e.2.line) ++ (s.cache.evict.map fun v => v.line)

/-- Release of a line range: every dirty line from every level to HBM (R384). -/
def State.releaseRange (s : State) (lo hi : Nat) : State :=
  (s.cachedLines.filter fun l => lo ≤ l && l ≤ hi).foldl (fun s l => (s.cleanLine l).flushSc l) s

/-- Acquire of a line range: every line cleaned and invalidated in every level (R384). -/
def State.acquireRange (s : State) (lo hi : Nat) : State :=
  (s.cachedLines.filter fun l => lo ≤ l && l ≤ hi).foldl
    (fun s l => (((s.cleanLine l).flushSc l).discardLine l).discardSc l) s

/-- Clean and invalidate every level (R368): what a warm reset does before the domains stop. -/
def State.cleanAll (s : State) : State :=
  let s := s.cachedLines.foldl (fun s l => (s.cleanLine l).flushSc l) s
  { s with cache := { s.cache with lines := [], dir := [], evict := [], ctl := none, wins := [], cxlWait := [] } }

/-- What leaves one entry of a level: dirty data of levels 0 to 3 to the system cache, of the system cache to memory. -/
def State.evictEntry (s : State) (k : Nat) (clean : Bool) : State :=
  match sfind? s.cache.lines k with
  | none => s
  | some e =>
    let s := s.setLines (sdel s.cache.lines k)
    if keyLevel k = 4 then (if clean && e.st = .m then s.lineToHbm e.line e.data else s)
    else
      let s := if keyLevel k = 2 then s.dropL1 (keyInst k) e.line else s
      let s := if clean && e.st.dirty && 2 ≤ keyLevel k then s.scPut e.line e.data true else s
      let h := keyHolder k
      if s.cache.lines.any fun x => heldBy h e.line x.1 x.2 then s
      else
        match s.dirOf e.line with
        | some d =>
          let hs := d.holders.filter fun y => y != h
          s.setDir e.line (some { d with holders := hs, st := if d.holders.headD 99 = h then .s else d.st })
        | none => s

/-- Clean one entry, keeping it. -/
def State.cleanEntry (s : State) (k : Nat) : State :=
  match sfind? s.cache.lines k with
  | none => s
  | some e => if keyLevel k = 4 then s.flushSc e.line else s.cleanLine e.line

/-- Every entry of a level leaves it, cleaned first or not (R367). -/
def State.invalidateLevel (s : State) (level : Nat) (clean : Bool) : State :=
  ((s.cache.lines.filter fun e => keyLevel e.1 == level).map fun e => e.1).foldl (fun s k => s.evictEntry k clean) s

/-- Something holds a maintenance operation back: a writeback under way, or the host's copy, which is called back (R382). -/
def State.maintHeld (s : State) (line : Nat) : State × Bool :=
  match s.dirOf line with
  | some e =>
    if e.wb || !e.waiting.isEmpty then (s, true)
    else if e.holders.contains 14 then (s.hostWait line 99 5 true, true)
    else (s, false)
  | none => (s, false)

/-- Ownership without data, ZERO.VA: other copies are discarded, and the line stands as zeros in M in the L2 and L1D of core `c`
(R374, R380); with the L2s off nothing may be kept, and the zeros go home. -/
def State.zeroOwn (s : State) (c line : Nat) : State :=
  let s := (s.invAll line false (s.holdersOf line)).1
  if s.levelOn 2 then
    let s := (s.dirRoom line).setDir line (some { st := .e, holders := (reqHolder c).toList, wb := false, waiting := [] })
    (s.fillL2 c line 0 .m 15).fillL1 1 c line 0 .m
  else (s.setDir line none).scPut line 0 true

/-- INVZERO.VA: nothing keeps the line but the system cache, and HBM holds zeros. -/
def State.zeroHome (s : State) (line : Nat) : State :=
  (((s.discardLine line).discardSc line).scPut line 0 false).lineToHbm line 0

end Sys2Proof.Machine
end

