-- ==== Sys2Proof/Machine/CoreOps.lean ====
section
/-! DEFINITION. A user core's registers (R315 to R317, R341), its system state (R324), starting and halting (R314), and trap entry
(R327) with the double trap (R329). -/

namespace Sys2Proof.Machine

/-! ### Integer registers, R315 and R316 -/

/-- A specifier names a register: 0 to 39. -/
def regOk (r : Nat) : Bool := r < 40

/-- The window before `w`. -/
def winPrev (w : Nat) : Nat := (w + 10) % 11

/-- The window after `w`. -/
def winNext (w : Nat) : Nat := (w + 1) % 11

/-- An integer register; g0 reads 0. While a trap is handled the window names mean the trap window (R327). -/
def Cpu.reg (k : Cpu) (r : Nat) : Nat :=
  if r = 0 then 0
  else if r < 16 then (sget 0 k.g r).toNat
  else if k.xact then (sget 0 k.trapw (r - 16)).toNat
  else if r < 24 then (sget 0 k.win (16 * winPrev k.wsel + 8 + (r - 16))).toNat
  else (sget 0 k.win (16 * k.wsel + (r - 24))).toNat

/-- Write an integer register; g0 ignores writes. -/
def Cpu.setReg (k : Cpu) (r v : Nat) : Cpu :=
  let w := BitVec.ofNat 64 v
  if r = 0 then k
  else if r < 16 then { k with g := sput 0 k.g r w }
  else if k.xact then { k with trapw := sput 0 k.trapw (r - 16) w }
  else if r < 24 then { k with win := sput 0 k.win (16 * winPrev k.wsel + 8 + (r - 16)) w }
  else { k with win := sput 0 k.win (16 * k.wsel + (r - 24)) w }

/-! ### Vector and floating-point registers, R340 and R341 -/

def Cpu.vreg (k : Cpu) (n : Nat) : Nat := (sget 0 k.vr n).toNat
def Cpu.setVreg (k : Cpu) (n v : Nat) : Cpu := { k with vr := sput 0 k.vr n (BitVec.ofNat 512 v) }

/-- f_n is bits [63:0] of v_n. -/
def Cpu.freg (k : Cpu) (n : Nat) : Nat := k.vreg n % 2 ^ 64
def Cpu.setFreg (k : Cpu) (n v : Nat) : Cpu := k.setVreg n (setBits (k.vreg n) 63 0 v)

/-! ### System state -/

/-- STATE, R324. -/
def Cpu.stateWord (k : Cpu) : Nat :=
  k.resident * 2 ^ 12 + k.wsel * 2 ^ 8 + b2n k.xact * 16 + b2n k.tw * 8 + b2n k.ie * 4 + k.priv.toNat

/-- Flags are sticky in FLAGS (R205). -/
def Cpu.orFlag (k : Cpu) (g : Nat) : Cpu := { k with flags := orFlags k.flags g }

/-! ### Start and halt, R314 -/

/-- The state in which a core starts; what its registers of the CPU_ region show of the past stays. -/
def Cpu.start (k : Cpu) (entry refNs : Nat) : Cpu :=
  { Cpu.zero with
    run := .running, pc := BitVec.ofNat 64 entry, startRef := refNs, gated := k.gated, debug := k.debug
    shadow := k.shadow, unpopSeen := k.unpopSeen, storeAbort := k.storeAbort, haltFurrow := k.haltFurrow }

/-- Responses to requests of an earlier thread of core `c` go nowhere. -/
def OutFor.without (c : Nat) : OutFor → OutFor
  | .core d rd kind => if d = c then .nobody else .core d rd kind
  | .lane d i => if d = c then .nobody else .lane d i
  | x => x

/-- CPU_CORE_CTL start: from state 0 or 2; in state 1 or 3 it is refused (R339). -/
def State.coreStart (s : State) (c : Nat) : State :=
  let k := s.core c
  if k.run = .halted ∨ k.run = .doubleTrap then
    let s := s.setCore c (k.start (s.rd (aCpuCoreEntry c)) s.time.refNs)
    { s with fab := { s.fab with outst := s.fab.outst.map fun o => { o with isFor := o.isFor.without c } } }
  else s.setFlag aCpuStatus 63

/-- The core halts at an instruction boundary with its registers kept. -/
def State.coreHalt (s : State) (c : Nat) : State :=
  let k := s.core c
  if k.run.code = 1 ∨ k.run.code = 3 then s.setCore c { k with run := .halted, haltFurrow := s.furrow } else s

/-! ### Traps, R327 to R329 -/

/-- Trap entry: XPC, XSTATE, XCAUSE, XVAL; supervisor with interrupts off in the trap window; PC at the handler's entry. -/
def Cpu.trap (k : Cpu) (cause detail val ret : Nat) : Cpu :=
  { k with
    xpc := BitVec.ofNat 64 ret, xstate := BitVec.ofNat 64 k.stateWord
    xcause := BitVec.ofNat 64 (cause + 256 * detail), xval := BitVec.ofNat 64 val
    priv := 1, ie := false, xact := true, pc := k.xbase + BitVec.ofNat 64 (128 * cause) }

/-- The sixteen shadow registers at a double trap (R329). -/
def State.shadowsOf (s : State) (c : Nat) (k : Cpu) (cause detail val word : Nat) : SMap W64 :=
  let vs : List Nat :=
    [k.pc.toNat, cause + 256 * detail, val, word, k.xpc.toNat, k.xstate.toNat, k.xcause.toNat, k.xval.toNat,
     k.spptr.toNat, k.spbase.toNat, k.splimit.toNat, k.ptroot.toNat, s.furrow, s.time.ns,
     k.flags.toNat % 128 + k.fpctl.toNat * 256, c + s.corePart c * 256 + k.resident * 4096]
  (vs.foldl (fun (r : SMap W64 × Nat) v => (sput 0 r.1 r.2 (BitVec.ofNat 64 v), r.2 + 1)) ([], 0)).1

/-- A synchronous cause: trap entry, or while a trap is handled a double trap, which freezes the core. `ret` is XPC. -/
def State.syncTrap (s : State) (c cause detail val word ret : Nat) : State :=
  let k := s.core c
  if k.xact then
    s.setCore c { k with run := .frozen, haltFurrow := s.furrow, shadow := s.shadowsOf c k cause detail val word }
  else s.setCore c (k.trap cause detail val ret)

/-- The pending enabled interrupt of lowest cause, while ie is 1 and xact is 0 (R326). -/
def Cpu.irq (k : Cpu) : Option Nat :=
  if k.ie && !k.xact then (below 5).find? fun i => bit (k.ip.toNat &&& k.ier.toNat) i else none

/-- Take interrupt i: the furrow timer stays pending until its source is cleared, the others are events and are cleared as they
are taken (notes/assumptions 32). -/
def State.takeIrq (s : State) (c i : Nat) : State :=
  let k := s.core c
  let val := (sget 0 k.ival i).toNat
  let k := k.trap (0x20 + i) 0 val k.pc.toNat
  s.setCore c
    (if i = 0 then k
     else { k with ip := BitVec.ofNat 5 (setBits k.ip.toNat i i 0), ival := sput 0 k.ival i 0 })

/-- Unpopulated or refused: unpop_seen of the core. -/
def State.coreUnpop (s : State) (c : Nat) : State := s.modCore c fun k => { k with unpopSeen := true }

/-- A store that meets a poisoned line is not performed (R335): store_abort, and ERROR_NOTICE, whose record index the spec does not
state. -/
def State.coreAbort (s : State) (c : Nat) : State :=
  ((s.modCore c fun k => { k with storeAbort := true }).raiseIrq c 4 s.free1).freed

/-- A core executes: running, not gated, halted by DEBUG_HALT or waiting for a remote response. -/
def State.coreRuns (s : State) (c : Nat) : Bool :=
  let k := s.core c
  s.up && c < 96 && k.run == .running && !k.gated && !k.debug && !k.stalled

end Sys2Proof.Machine
end

