-- ==== Sys2Proof/Machine/HbmOps.lean ====
section
/-! DEFINITION. What the HBM controllers do to the state beside plain storage: corrected errors and poison (R296, R297),
retirement of a pseudo-channel (R308, R309), and the coalescer of the narrow path (R302). -/

namespace Sys2Proof.Machine

/-- Location field of an HBM record, R482. -/
def locHbm (stack pc : Nat) : Nat := stack * 2 ^ 24 + pc * 2 ^ 16

/-- Retire a pseudo-channel (R308): it is recorded, listed in the repair record, and its granules start to migrate. -/
def State.retirePc (s : State) (k n : Nat) : State :=
  let s := s.setFld (aHbmStackPc k) (32 + n) (32 + n) 1
  let s := s.setFld (aHbmStackStatus k) 29 28 (s.fld (aHbmStackStatus k) 29 28 + 1)
  let s := { s with ras := { s.ras with badPcs := s.ras.badPcs ++ [32 * k + n] } }
  let t := s.stack k
  let s := s.setStack k { t with mig := t.mig ++ [(n, 0)] }
  s.errRecord { event := 3, cls := 2, sev := none, part := none, loc := locHbm k n, addr := 0, data := [] }

/-- Whether a pseudo-channel is retired. -/
def State.pcRetired (s : State) (k n : Nat) : Bool := s.flag (aHbmStackPc k) (32 + n)

/-- A retirement is asked for: a third of one stack is refused (R309). -/
def State.askRetire (s : State) (k n : Nat) : State :=
  if s.pcRetired k n then s
  else if 2 ≤ s.fld (aHbmStackStatus k) 29 28 then s.setFlag (aHbmStackStatus k) 62
  else s.retirePc k n

/-- Nanoseconds in an hour. -/
def nsPerHour : Nat := 3600000000000

/-- One corrected error of the block at an address: counted, and its pseudo-channel retired when the count within the window
crosses the threshold (R297, R308). -/
def State.hbmCorrected (s : State) (a : Nat) : State :=
  let k := hbmStack a
  let n := hbmPc a
  let s := s.countFld (aHbmStackErr k) 31 0 1
  let t := s.stack k
  let ce := (t.ce.filter fun e => s.time.refNs < e.2 + s.fld aHbmCfg 15 8 * nsPerHour) ++ [(n, s.time.refNs)]
  let s := s.setStack k { t with ce := ce }
  if s.flag aHbmCfg 0 && !(s.pcRetired k n) && s.fld aHbmCfg 31 16 < (ce.filter fun e => e.1 == n).length then
    let s := s.errRecord { event := 1, cls := 2, sev := none, part := none, loc := locHbm k n, addr := a, data := [] }
    s.askRetire k n
  else s

/-- A block becomes poisoned (R297): its mark, the counters, the last address, poison_new and an error record. -/
def State.hbmPoison (s : State) (a : Nat) : State :=
  let b := a - a % 64
  let k := hbmStack b
  let s := { s with hbm := { s.hbm with poison := sput false s.hbm.poison (b / 64) true } }
  let s := (s.countFld (aHbmStackErr k) 63 48 1).countFld (aHbmStackErr k) 47 32 1
  let s := (s.setFld (aHbmStackPoisonLast k) 47 6 (b / 64)).setFlag aHbmStatus 62
  s.errRecord { event := 11, cls := 2, sev := none, part := none, loc := locHbm k (hbmPc b), addr := b, data := [] }

/-- A read of a block judged by ECC (R297): symbols in error 0, 1, or 2 and more; what the requester gets, none for poison. -/
def State.hbmJudge (s : State) (a bad : Nat) : State × Option W512 :=
  let b := a - a % 64
  if s.hbm.poisoned b then (s, none)
  else
    let d := BitVec.ofNat 512 (mval s.hbm.mem b 64)
    if bad = 0 then (s, some d)
    else if bad = 1 then (s.hbmCorrected b, some d)
    else (s.hbmPoison b, none)

/-- The answers of the narrow requests of one block go out in arrival order (R302). What they read and write is settled at their
arrival, which orders them among all requests of the block (R295). -/
def State.drainBlock (s : State) (b : Nat) : State :=
  let rs := sget [] s.hbm.coal b
  rs.foldl (fun s n => if n.wr then s else s.emit (.data (leBytes n.size n.data.toNat) n.bad))
    { s with hbm := { s.hbm with coal := sdel s.hbm.coal b } }

/-- Serve every narrow request that waits. -/
def State.drainAll (s : State) : State := s.hbm.coal.foldl (fun s e => s.drainBlock e.1) s

end Sys2Proof.Machine
end

