-- ==== Sys2Proof/Machine/Reset.lean ====
section
/-! DEFINITION. The resets of the package (R509 to R511, R514, R545): the logical tile map (R468), the start of a cold reset,
and a whole warm reset with what it makes of commands and operations (R117 to R119). -/

namespace Sys2Proof.Machine

/-! ### The logical tile map, R468 -/

/-- The entries of one die: the physical tiles that the repair record does not name, in ascending order, up to the active
count. -/
def State.dieMap (s : State) (d : Nat) : SMap Nat :=
  let good := (below 156).filter fun i => !(s.ras.badTiles.contains (156 * d + i))
  (below s.active).zip good |>.map fun e => (156 * d + e.1, e.2 + 1)

/-- Build the logical tile map of every die from the repair record. -/
def State.buildMap (s : State) : State :=
  { s with ras := { s.ras with map := (below 4).flatMap s.dieMap } }

/-! ### Programs from their start -/

/-- The tiles of a PROG_RUN or TRAIN_STEP take their start values (R112, R124) with furrow bias `bias`. -/
def State.beginProg (s : State) (i bias : Nat) : State :=
  match s.hslot i with
  | none => s
  | some h =>
    let args := [h.parm 16 8, h.parm 24 8, h.parm 32 8, h.parm 40 8].map fun x => BitVec.ofNat 64 x
    let seed := BitVec.ofNat 64 (s.rd (aVecPartSeed h.part))
    let base := BitVec.ofNat 64 (s.rd (aVecPartBase h.part))
    h.tiles.foldl
      (fun s k => s.modTile k fun t => { t.begin (s.imageEntry h.part) args seed base with bias := bias }) s

/-! ### Cold reset -/

/-- A cold reset starts (R509): only the repair record, the flash, the fuses and what lies outside the package remain. -/
def State.coldReset (s : State) (why : Nat) : State :=
  { State.reset with
    pending := s.pending, free := s.free, out := s.out
    fab := { State.reset.fab with d2d := s.fab.d2d }
    ras := { State.reset.ras with badTiles := s.ras.badTiles, badPcs := s.ras.badPcs, badPairs := s.ras.badPairs }
    boot :=
      { State.reset.boot with
        active := s.boot.active, labBlown := s.boot.labBlown, rollback := s.boot.rollback, flash := s.boot.flash
        slot := s.boot.slot, lastReset := why }
    pins := s.pins, jtag := s.jtag, i3cAddr := s.i3cAddr }

/-! ### Warm reset: registers, tiles, links -/

/-- Blocks whose read-only fields a warm reset keeps: domains 16 and 17, the retention domain, trained HBM settings, and what
the chapters call kept (notes/assumptions 21). -/
def keepsRo (block : Nat) : Bool :=
  [0, 1, 2, 3, 8, 13, 14, 15, 16, 17].contains block

/-- Registers after a warm reset, R11. -/
def State.warmRegs (s : State) : State :=
  (s.regs.map fun e => e.1).foldl
    (fun s o =>
      match regDesc o with
      | some d => s.wr o (d.warm (keepsRo (o / 0x100000)) (s.rd o))
      | none => s) s

/-- A link that is enabled trains while package_id is not 0 (R387); otherwise it is disabled. -/
def State.linkWait (s : State) (n : Nat) : State :=
  s.setFld (aFabLinkStatus n) 2 0
    (if s.flag (aFabLinkCfg n) 63 && s.pkgId != 0 && !(s.link n).dead then 1 else 0)

/-- Tiles after a warm reset (R545): a retired tile stays retired, every other is cleared to zero, and the tiles of a
partition with a loaded image have its bundles and descriptors reloaded. -/
def State.warmTiles (s : State) : State :=
  let kept := (s.tiles.filter fun e => e.2.retired).map fun e => (e.1, { Tile.zero with retired := true })
  let s := { s with tiles := kept }
  (below 16).foldl
    (fun s p =>
      (s.partTiles p).foldl
        (fun s k =>
          let s := s.setTile k { Tile.zero with gated := false }
          if (s.part p).loaded then s.loadTile p k else s) s) s

/-- Link, core and fabric state after a warm reset. -/
def State.warmFabric (s : State) : State :=
  let links := (s.fab.links.filter fun e => e.2.dead).map fun e => (e.1, { LinkS.zero with dead := true })
  let gated := (s.cores.filter fun e => e.2.gated).map fun e => (e.1, { Cpu.zero with gated := true })
  let s :=
    { s with
      cores := gated
      fab :=
        { s.fab with
          links := links, slots := smapv s.fab.slots fun _ v => { v with busy := false, poisoned := false }
          outst := [], order := [], orderWait := [], paths := [] } }
  let s := { s with fab := { s.fab with slots := s.fab.slots.filter fun e => e.2 != SlotS.zero } }
  (below 64).foldl State.linkWait s

/-- The counter after a warm reset (R40): it runs on, LOCKED becomes HOLDOVER; neighbours' beacons are gone with the links. -/
def State.warmTime (s : State) : State :=
  let s := if s.quality = 2 then (s.setFld aTimeStatus 1 0 1) else s
  { s with
    time :=
      { s.time.run 10000000 with
        holdSince := if s.quality = 1 then s.time.ns else s.time.holdSince
        timeSet := [], nbr := [], beaconTx := [] } }

/-! ### Warm reset: commands, R117 and R118 -/

/-- The CANCEL of an operation in CANCELLING is not started again; it completes when the operation ends (R119). -/
def State.keepsCtl (s : State) (c : Ctl) : Bool :=
  c.kind == .cancel
    && match s.handle? c.subject with
      | some (_, h) => h.state == .cancelling
      | none => false

/-- A journal entry after a warm reset: what had not started waits; what had started carries restated, and starts again unless
it is a long operation or has its final status. -/
def Entry.warm (e : Entry) (keep : Bool) : Entry :=
  match e.stage with
  | .waiting => e
  | .fetching => { e with stage := .waiting, data := [] }
  | .scheduled => { e with stage := .waiting, data := [] }
  | .done => { e with restated := true, recs := [] }
  | .started =>
    if e.handle != 0 || keep then { e with restated := true, recs := [] }
    else { e with restated := true, recs := [], stage := .waiting, data := [] }

/-- One queue after a warm reset: its entries, and every record that a started command has written, written again. -/
def State.warmQueue (s : State) (q : Nat) : State :=
  let v := s.queue q
  let old := v.entries.flatMap fun e => if e.stage = .started ∨ e.stage = .done then e.recs else []
  let keep := fun (n : Nat) => s.ctl.any fun c => c.queue == q && c.seq == n
  let s := s.setQueue q
    { v with
      entries := v.entries.map fun e => e.warm (keep e.seq)
      held := v.held.map fun r => { r with restated := true } }
  old.foldl (fun s r => s.postRec { r with restated := true }) s

/-! ### Warm reset: operations, R119 -/

/-- What a warm reset makes of one long operation. -/
def State.warmOp (s : State) (i : Nat) : State :=
  match s.hslot i with
  | none => s
  | some h =>
    let o := h.opcode.toNat
    if o = opCOLLSETUP then s.endOp i 0x0308 0
    else if o = opRELAY then s.endOp i 0x0C02 0
    else if h.state = .cancelling then s.cancelEnd i
    else
      let st : HState := if h.state = .suspended then .suspended else .running
      let s := s.modHslot i fun h =>
        { h with
          state := st, resumeAt := none, chunks := 0, ending := none, late := false, sealDone := false, hostDone := false
          startFurrow := s.furrow, restated := true, undo := []
          job := { buf := [], left := 0, writing := false, unpop := false } }
      let s := if h.state = st then s else s.hmove i st
      let s := s.digestStart h.part (s.hword i)
      if h.isProg then
        let s :=
          if o = opTRAINSTEP then
            match s.slotOf h.part (h.parm 48 6) with
            | some k => s.putImage h.part (s.slotImage h.part k)
            | none => s
          else s
        let s := s.beginProg i 0
        if st = .suspended then h.tiles.foldl (fun s k => s.modTile k fun t => { t with run := .suspended }) s else s
      else if o = opSOLVE then
        let s := h.tiles.foldl (fun s k => s.modTile k Tile.solve) s
        { s with batches := smapv s.batches fun _ b => if b.handle = s.hword i then { b with stopped := [] } else b }
      else if o = opSNAPSHOT then
        let s := s.setSlot h.part (s.snapSlot h.part) 0
        { s with sched := s.sched ++ [{ furrow := s.nextFurrow, row := 2, kind := .cmd h.queue h.seq }] }
      else if o = opBARRIER then
        match s.colls.find? fun e => (e.2.handle.toNat == bytesOf h.pkt 12 4) with
        | some (c, k) => s.emit (.coll 4 c [k.rank, h.parm 16 4, s.furrow])
        | none => s
      else s

/-- Collectives do not survive (R119); one that a BARRIER still waits on keeps its member table for the barrier alone. -/
def State.warmColls (s : State) : State :=
  let wanted := fun (k : Coll) =>
    s.handles.any fun e => e.2.state.live && e.2.opcode.toNat == opBARRIER && bytesOf e.2.pkt 12 4 == k.handle.toNat
  { s with colls := (s.colls.filter fun e => wanted e.2).map fun e => (e.1, { e.2 with run := .setup }) }

/-- Insert by queue and sequence: the order in which operations run again. -/
def opInsert (x : Nat × HRec) : List (Nat × HRec) → List (Nat × HRec)
  | [] => [x]
  | y :: ys =>
    if x.2.queue < y.2.queue ∨ (x.2.queue = y.2.queue ∧ x.2.seq < y.2.seq) then x :: y :: ys else y :: opInsert x ys

/-- The long operations in progress, by queue and sequence. -/
def State.opsInOrder (s : State) : List (Nat × HRec) :=
  (s.handles.filter fun e => e.2.state.live).foldl (fun l x => opInsert x l) []

/-- A whole warm reset, from its trigger to boot_done (R514); `why` is last_reset. -/
def State.warmReset (s : State) (why : Nat) : State :=
  let s := if s.buddy = 0 then s else s.emit (.mirror 0x32 [1])
  let s := s.drainAll.cleanAll
  let staging := s.ctl.any fun c => c.kind == .stage
  let s := { s with sched := [], ctl := s.ctl.filter s.keepsCtl }
  let s := s.warmRegs.buildMap.warmTiles.warmFabric.warmTime
  let s := s.ckpt.sending.foldl (fun s e => s.markAll e.1) s
  let s :=
    { s with
      parts := (smapv s.parts fun _ v => { v with debugAt := none, clearing := false }).filter fun e => e.2 != Part.zero
      ckpt :=
        { s.ckpt with
          sending := [], takeover := none, takeChunks := []
          mirror := (smapv s.ckpt.mirror fun _ m => { m with sealing := none }).filter fun e => e.2 != Mirror.zero }
      hbm := { s.hbm with lastRead := none }
      boot :=
        { s.boot with
          phase := 7, us := 10000, lastReset := why, stagedValid := s.boot.stagedValid && !staging } }
  let s := (s.queues.map fun e => e.1).foldl State.warmQueue s
  let s := (s.opsInOrder.map fun e => e.1).foldl State.warmOp s
  let s := s.warmColls
  if s.mirroring then
    ((below 16).filter s.partExists).foldl (fun s p => s.emit (.mirror 0x0C01 [p, s.latestImage p])) s
  else s

end Sys2Proof.Machine
end

