-- ==== Sys2Proof/Machine/RegWrite.lean ====
section
/-! DEFINITION. Writing a register of the control window (R11 to R13, R34): each block's refusals and the effects of its writes
beyond the fields themselves. -/

namespace Sys2Proof.Machine

/-! ### Refusal -/

/-- The register whose bit 63 says that a write of the block was discarded. -/
def refusedReg (block : Nat) : Nat :=
  match block with
  | 0 => aDevMode
  | 1 => aTimeStatus
  | 2 => aIntkStatus
  | 3 => aTileCfg
  | 16 => aPwrStatus
  | 17 => aBootStatus
  | b => b * 0x100000

/-- A write is discarded: the block's write_refused bit is set. -/
def State.refuse (s : State) (o : Nat) : State := s.setFlag (refusedReg (o / 0x100000)) 63

/-! ### Tests on the value that a write would leave -/

/-- Two page ranges overlap. -/
def overlap (a an b bn : Nat) : Bool := an != 0 && bn != 0 && a < b + bn && b < a + an

/-- A page range lies in populated HBM. -/
def inHbm (page n : Nat) : Bool := (page + n) * 4096 ≤ hbmEnd

/-- Furrow settings may not change now (R66): an event is pending or a long operation is in progress. -/
def State.furrowBusy (s : State) : Bool := !s.sched.isEmpty || s.time.step.isSome || s.anyLongOp

/-- R48: what TIME_PTP_CFG refuses. -/
def badPtp (v : Nat) : Bool :=
  let iv := fun (x : Nat) => sint 8 x < -4 || 1 < sint 8 x
  bits v 2 1 = 3 || iv (bits v 55 48) || iv (bits v 47 40) || bits v 39 32 < 2

def badTime (s : State) (o v : Nat) : Bool :=
  if o = aTimePtpCfg then badPtp v
  else if o = aTimeFurrowCfg then
    s.furrowBusy || bits v 4 0 < 8 || 20 < bits v 4 0 || s.epoch % 2 ^ bits v 4 0 != 0
  else if o = aTimeFurrowEpoch then s.furrowBusy || v % s.furrowLen != 0
  else if o = aTimeStepPolicy then bits v 1 0 = 3
  else if o = aTimePpsCfg then bits v 29 1 < 100 || 500000000 < bits v 29 1
  else false

/-- INTK_Q_CFG: frozen while enabled but for enable itself, which clears only with occupancy 0; ranges of port and ring
sizes. -/
def badQCfg (s : State) (q old v : Nat) : Bool :=
  5 < bits v 62 60 || bits v 35 32 < 6 || bits v 31 28 < 6 || 12 < bits v 31 28
    || (bit old 63 && (bits v 62 0 != bits old 62 0 || (!bit v 63 && !(s.queue q).entries.isEmpty)))

def badIntk (s : State) (o old v : Nat) : Bool :=
  if o = aIntkCfg then bits v 12 0 = 0 || 4096 < bits v 12 0
  else
    match inArr o (aIntkQCfg 0) 64 64 with
    | some (q, 0) => badQCfg s q old v
    | some (q, 8) => s.qEnabled q || (dmaKind (s.qPort q) (v - v % 4096)).isNone
    | some (q, 16) => s.qEnabled q || (dmaKind (s.qPort q) (v - v % 4096)).isNone
    | _ => false

/-- TILE_CFG: its range, and no tile in an operation that is not over. -/
def badTile (s : State) (o v : Nat) : Bool :=
  o = aTileCfg && (bits v 4 0 < 16 || 30 < bits v 4 0 || s.handles.any fun e => e.2.state.live && !e.2.tiles.isEmpty)

/-- R178. -/
def badBaler (v : Nat) : Bool :=
  bits v 55 48 = 0 || bits v 43 37 = 0 || 64 < bits v 43 37 || (bit v 63 && bits v 47 44 = 0)
    || 0x2E0000 < bits v 21 12 * 4096 + 81920

def badBay (s : State) (o v : Nat) : Bool :=
  match inArr o (aBayBalerCfg 0) 8 16 with
  | some (p, _) => s.longOp p || badBaler v
  | none => false

def badShtl (s : State) (o v : Nat) : Bool :=
  match inArr o (aShtlPartCfg 0) 8 16 with
  | some (p, _) => s.longOp p || bits v 9 0 = 0 || 512 < bits v 9 0
  | none => false

def badVec (s : State) (o : Nat) : Bool :=
  match inArr o (aVecPartSeed 0) 16 16 with
  | some (p, _) => s.longOp p
  | none => false

/-- R291. -/
def badThr (s : State) (o v : Nat) : Bool :=
  match inArr o (aThrPartTau 0) 32 16 with
  | some (p, 0) => s.longOp p || bit v 63 || bits v 62 52 = 2047
  | some (p, 8) => s.longOp p || bits v 11 8 < 4 || 12 < bits v 11 8
  | _ => false

def badHbm (o v : Nat) : Bool :=
  o = aHbmCfg && (bits v 39 32 = 0 || 168 < bits v 39 32 || bits v 31 16 = 0 || bits v 15 8 = 0)

/-- R339. -/
def badCpu (s : State) (o : Nat) : Bool :=
  match inArr o (aCpuCoreCfg 0) 256 96 with
  | some (c, r) => (r = 0 || r = 8) && ((s.core c).run.code = 1 || (s.core c).run.code = 3)
  | none => false

/-- The level's clean flag. -/
def State.levelClean (s : State) (level : Nat) : Bool := s.flag aCacheStatus (57 + level)

/-- R367: an index mode changes, or a level is enabled, only while the level is clean. -/
def badMode (s : State) (old v : Nat) : Bool :=
  (bit old 6 != bit v 6 && !s.levelClean 2) || (bit old 7 != bit v 7 && !s.levelClean 4)
    || (below 5).any fun l => !bit old (l + 1) && bit v (l + 1) && !s.levelClean l

/-- R385 for the windows. -/
def badWin (s : State) (n base limit : Nat) : Bool :=
  bits limit 47 12 < bits base 47 12 || !(inHbm (bits limit 47 12) 1) || s.longOp (bits limit 3 0)
    || s.longOp (s.fld (aCacheWinLimit n) 3 0)

def badCache (s : State) (o old v : Nat) : Bool :=
  if o = aCacheMode then badMode s old v
  else
    match inArr o (aCacheL2Waymask 0) 8 16 with
    | some (p, _) => s.longOp p || ((below 16).filter fun i => bit v i).length < 2
    | none =>
    match inArr o (aCacheWinBase 0) 16 8 with
    | some (n, 0) => badWin s n v (s.rd (aCacheWinLimit n))
    | some (n, 8) => badWin s n (s.rd (aCacheWinBase n)) v
    | _ => false

/-- Any link is UP. -/
def State.anyUp (s : State) : Bool := (below 64).any s.linkUp

/-- R413. -/
def badFab (s : State) (o old v : Nat) : Bool :=
  if o = aFabCfg then
    bits v 37 28 < 20 || 1000 < bits v 37 28 || bits v 27 16 < 16 || bits v 15 8 < 12 || 30 < bits v 15 8
      || (bits v 63 48 != bits old 63 48 && (below 64).any fun n => s.linkUp n && s.fld (aFabLinkCfg n) 2 0 == 2)
  else if o = aFabCcBase then
    s.anyUp || hbmEnd < bits v 47 16 * 65536 + 65536 * (s.fld aFabCcRange 63 48 + 1 - s.fld aFabCcRange 47 32)
  else if o = aFabCcRange then
    s.anyUp || hbmEnd < s.fld aFabCcBase 47 16 * 65536 + 65536 * (bits v 63 48 + 1 - bits v 47 32)
  else
    match inArr o (aFabLinkCfg 0) 32 64 with
    | some (n, 0) => 4 < bits v 2 0 || (bits v 2 0 != bits old 2 0 && s.fld (aFabLinkStatus n) 2 0 != 0)
    | some _ => false
    | none =>
    match inArr o (aFabKeyA 0) 16 64 with
    | some (n, r) =>
      s.longOp (s.fld (aFabKeyA n) 59 56)
        || (if r = 0 then s.longOp (bits v 59 56) || bits v 31 16 < bits v 15 0 else bits v 53 27 < bits v 26 0)
    | none =>
    match inArr o (aFabRoute 0) 8 2048 with
    | some _ =>
      let bad := fun (n : Nat) => n != 0x3F && s.fld (aFabLinkCfg n) 2 0 != 3
      bad (bits v 59 54) || bad (bits v 53 48)
    | none => false

/-- R443 for a region of class `cls` with `n` pages from `page`. -/
def badDetRegion (s : State) (p i cls page n : Nat) : Bool :=
  s.longOp p || cls = 3 || (cls != 0 && (n = 0 || !(inHbm page n)
    || (below 8).any fun j => j != i && s.fld (aDetRegionBase p j) 1 0 != 0
        && overlap page n (s.fld (aDetRegionBase p j) 47 12) (s.fld (aDetRegionLen p j) 27 0)))

def badDet (s : State) (o v : Nat) : Bool :=
  if o = aDetEmulate then
    (below 16).any s.partExists || !([0, 0x80, 0x88, 0x90] : List Nat).contains (bits v 7 0) || s.boot.active < bits v 7 0
  else
    match inArr o (aDetPartCfg 0) 8 16 with
    | some (p, _) => s.longOp p
    | none =>
    match inArr o (aDetRegionBase 0 0) 16 128 with
    | some (k, r) =>
      let p := k / 8
      let i := k % 8
      if r = 0 then badDetRegion s p i (bits v 1 0) (bits v 47 12) (s.fld (aDetRegionLen p i) 27 0)
      else badDetRegion s p i (s.fld (aDetRegionBase p i) 1 0) (s.fld (aDetRegionBase p i) 47 12) (bits v 27 0)
    | none => false

/-- A SNAPSHOT of partition `p` is pending or in progress: a scheduled event names it. -/
def State.snapPending (s : State) (p : Nat) : Bool :=
  s.sched.any fun e =>
    match e.kind with
    | .cmd q seq =>
      match (s.queue q).entry? seq with
      | some x => pOpcode x.pkt == opSNAPSHOT && pTarget x.pkt == p
      | none => false
    | .phase _ _ => false

/-- Every reserved page range of the Granary: slots as 2 p + k, regions as 32 + 8 p + n, the mirror area. -/
def State.granary (s : State) : List (Nat × Nat × Nat) :=
  let slots := (below 32).map fun i => (i, s.fld (aCkptSlotBase (i / 2) (i % 2)) 47 12, s.fld (aCkptSlotLen (i / 2) (i % 2)) 24 0)
  let regs := ((below 128).filter fun i => s.fld (aCkptRegionBase (i / 8) (i % 8)) 1 0 != 0).map
    fun i => (32 + i, s.fld (aCkptRegionBase (i / 8) (i % 8)) 47 12, s.fld (aCkptRegionLen (i / 8) (i % 8)) 27 0)
  let area := if s.flag aCkptMirror 63 then
    [(1000, s.fld aCkptMirrorBase 47 12, s.fld aCkptMirror 55 28 + s.fld aCkptMirror 27 0)] else []
  slots ++ regs ++ area

/-- A range of the Granary that would leave populated HBM or meet another. -/
def badRange (s : State) (id page n : Nat) : Bool :=
  n != 0 && (!(inHbm page n) || s.granary.any fun e => e.1 != id && overlap page n e.2.1 e.2.2)

def badCkpt (s : State) (o old v : Nat) : Bool :=
  if o = aCkptCfg then
    bits v 47 32 < 10 || 5000 < bits v 47 32 || bits v 31 16 < 10 || 10000 < bits v 31 16
      || (bit v 63 != bit old 63 && s.ckpt.takeover.isSome)
  else
    match inArr o (aCkptPartLatest 0) 64 16 with
    | some (p, r) =>
      if r < 0x20 then false
      else
        let k := (r - 0x20) / 16
        let busy := s.longOp p || s.snapPending p
        if (r - 0x20) % 16 = 0 then busy || badRange s (2 * p + k) (bits v 47 12) (s.slotPages p k)
        else busy || badRange s (2 * p + k) (s.slotBase p k / 4096) (bits v 24 0)
    | none =>
    match inArr o (aCkptRegionBase 0 0) 16 128 with
    | some (k, r) =>
      let p := k / 8
      let i := k % 8
      let cls := if r = 0 then bits v 1 0 else s.fld (aCkptRegionBase p i) 1 0
      let page := if r = 0 then bits v 47 12 else s.fld (aCkptRegionBase p i) 47 12
      let n := if r = 0 then s.fld (aCkptRegionLen p i) 27 0 else bits v 27 0
      s.longOp p || s.snapPending p || (cls != 0 && (n = 0 || badRange s (32 + k) page n))
    | none => false

/-- R489. -/
def badRas (s : State) (o v : Nat) : Bool :=
  if o = aRasCfg then bits v 31 16 = 0
  else
    match inArr o (aRasPartShare 0) 8 16 with
    | some (p, _) =>
      let sum := fun (hi lo : Nat) => (((below 16).filter fun x => x != p).map fun x => s.fld (aRasPartShare x) hi lo).sum
      s.longOp p || 100 < bits v 15 8 || 100 < bits v 7 0 || 100 < bits v 15 8 + sum 15 8 || 100 < bits v 7 0 + sum 7 0
    | none => false

def badPwr (s : State) (o old v : Nat) : Bool :=
  o = aPwrCfg && (bits v 11 0 < 400 || 2400 < bits v 11 0
    || (s.globalDet && (bit v 16 != bit old 16 || bits v 11 0 != bits old 11 0)))

/-- A write to DEV_PKG_ADDR or DEV_MODE that R35 or R36 discards. -/
def badDev (s : State) (o old v : Nat) : Bool :=
  if o = aDevPkgAddr then s.anyUp
  else if o = aDevMode then bit v 0 != bit old 0 && s.anyLongOp
  else false

/-- Whether a block's rules discard the write that would leave `v` in place of `old`. -/
def State.writeBad (s : State) (o old v : Nat) : Bool :=
  match o / 0x100000 with
  | 0 => badDev s o old v
  | 1 => badTime s o v
  | 2 => badIntk s o old v
  | 3 => badTile s o v
  | 4 => badBay s o v
  | 5 => badShtl s o v
  | 6 => badVec s o
  | 7 => badThr s o v
  | 8 => badHbm o v
  | 9 => badCpu s o
  | 10 => badCache s o old v
  | 11 => badFab s o old v
  | 13 => badDet s o v
  | 14 => badCkpt s o old v
  | 15 => badRas s o v
  | 16 => badPwr s o old v
  | _ => false

/-! ### Effects of an accepted write -/

/-- enable of a queue goes from 0 to 1: both rings start afresh (R543); what waited for it is of the port that it has now. -/
def State.restartRings (s : State) (q : Nat) : State :=
  s.modQueue q fun v =>
    { v with
      cqPos := 0, cqPhase := true, rrPos := 0, rrPhase := true
      held := v.held.map fun r => { r with port := s.qPort q } }

/-- Held records of an enabled queue are written while its ring has room (R94). -/
def State.flushQueue (s : State) (q : Nat) : State :=
  if s.qEnabled q then flushHeld ((s.queue q).held.length + 1) s q else s

/-- FAB_LINK_CFG enable: 0 disables the link, 1 lets it train. -/
def State.linkEnable (s : State) (n : Nat) (old v : Nat) : State :=
  if bit old 63 && !bit v 63 then (s.setLinkState n 0).linkLost n
  else if !bit old 63 && bit v 63 then s.linkReady n
  else s

/-- Without a buddy every command that is done is released (R91). -/
def State.releaseDone (s : State) : State :=
  (s.queues.map fun e => e.1).foldl
    (fun s q => s.modQueue q fun v => { v with entries := v.entries.filter fun e => e.stage != .done }) s

/-- What follows from the value that an accepted write left. -/
def State.afterWrite (s : State) (o old v : Nat) : State :=
  if o = aDevPkgAddr then (below 64).foldl State.linkReady s.reselect
  else if o = aTimeSource then s.reselect
  else if o = aTimeFurrowEpoch then s.setFld aTimeFurrowCfg 5 5 1
  else if o = aTimePpsCfg then (if bit v 0 then s else { s with pins := { s.pins with ppsOut := false } })
  else if o = aDetEmulate then s.buildMap
  else if o = aFabCfg then (if bits v 63 48 = 0 then s.releaseDone else s)
  else
    match inArr o (aIntkQCfg 0) 64 64 with
    | some (q, 0) => if !bit old 63 && bit v 63 then (s.restartRings q).flushQueue q else s
    | some (q, 24) => s.flushQueue q
    | some _ => s
    | none =>
    match inArr o (aFabLinkCfg 0) 32 64 with
    | some (n, 0) => s.linkEnable n old v
    | some _ => s
    | none =>
    match inArr o (aCkptRegionBase 0 0) 128 16 with
    | some (p, _) => s.markAll p
    | none => s

/-! ### Registers whose write is an action -/

/-- CACHE_CTL: an invalidate-all starts (R367); refused while one runs, or for a level that is not there. -/
def State.cacheCtl (s : State) (v : Nat) : State :=
  if s.cache.ctl.isSome || 4 < bits v 2 0 then s.refuse aCacheCtl
  else
    match bits v 4 3 with
    | 1 => { s with cache := { s.cache with ctl := some (bits v 2 0, false) } }
    | 2 => { s with cache := { s.cache with ctl := some (bits v 2 0, true) } }
    | _ => s

/-- BOOT_RESET (R509, R510). A whole warm reset is one row of the model, so that none is ever found in progress. -/
def State.bootReset (s : State) (v : Nat) : State :=
  match bits v 1 0 with
  | 1 => if s.up then s.warmReset 2 else s.refuse aBootReset
  | 2 => if s.up then s.coldReset 3 else s.refuse aBootReset
  | _ => s

/-- CPU_CORE_STATUS: the two W1C bits that the core holds. -/
def State.coreStatusWrite (s : State) (c v : Nat) : State :=
  s.modCore c fun k => { k with unpopSeen := k.unpopSeen && !bit v 63, storeAbort := k.storeAbort && !bit v 62 }

/-- CPU_CORE_CTL. -/
def State.coreCtl (s : State) (c v : Nat) : State :=
  match bits v 1 0 with
  | 1 => s.coreStart c
  | 2 => s.coreHalt c
  | _ => s

/-- A write of the bits `m` of `v` to the register at `o`, a multiple of 8. -/
def State.regWrite (s : State) (o v m : Nat) : State :=
  match regDesc o with
  | none => s
  | some d =>
    if o = aCacheCtl then s.cacheCtl (v &&& m)
    else if o = aBootReset then s.bootReset (v &&& m)
    else
      match inArr o (aCpuCoreCfg 0) 256 96 with
      | some (c, 0x10) => s.coreCtl c (v &&& m)
      | some (c, 0x18) => s.coreStatusWrite c (v &&& m)
      | _ =>
        let old := s.rd o
        let new := d.write old v m
        let new := if o = aTimeFurrowCfg then setBits new 5 5 (bits old 5 5 * bits new 5 5) else new
        if s.writeBad o old new then
          let s := s.refuse o
          if o = aCacheMode then s.setFlag aCacheStatus 62 else s
        else (s.wr o new).afterWrite o old new

/-! ### Accesses of R34 -/

/-- The bits of an 8-byte register that an aligned access of `n` bytes at `o` covers. -/
def accessMask (o n : Nat) : Nat := if n = 8 then 2 ^ 64 - 1 else (2 ^ 32 - 1) <<< (8 * (o % 8))

/-- An aligned 4-byte or 8-byte write. -/
def State.ctlWrite (s : State) (o n v : Nat) : State :=
  s.regWrite (o - o % 8) (v <<< (8 * (o % 8))) (accessMask o n)

end Sys2Proof.Machine
end

