-- ==== Sys2Proof/Machine/Time.lean ====
section
/-! DEFINITION. Reading the counter, beacons, PTP, PPS and the ends of slews and holdover (R39 to R64, R104, R538). -/

namespace Sys2Proof.Machine

/-- What every meaning answers: a next state. -/
abbrev Res := Host.Outcome State Fault Refusal

/-! ### TIME_NOW -/

/-- TIME_NOW_READ: the counter's nanoseconds, with fraction and quality latched (R41). -/
def execTimeNowRead (s : State) : Res :=
  if s.up then .next (s.latchNow.emit (.reg (BitVec.ofNat 64 s.time.ns))) else .next (s.emit .notServed)

/-! ### Link beacons, R49 to R51 -/

/-- A beacon on one link. -/
def State.sendBeacon (s : State) (n : Nat) : State :=
  let tx := s.time.count
  let rx := ((sfind? s.time.nbr n).map fun b => b.t4).getD 0
  let s' := s.emit
    (.beacon n tx rx (sget 0 s.time.beaconTx n) s.quality (s.fld aTimeStatus 39 32) (s.fld aTimeStatus 31 28)
      (if s.time.isRoot then s.time.step else none))
  { s' with time := { s'.time with beaconTx := sput 0 s'.time.beaconTx n tx } }

/-- BEACON_SEND: every trained link sends a beacon flit. -/
def execBeaconSend (s : State) : Res :=
  if s.up then .next (((below 64).filter s.linkUp).foldl State.sendBeacon s) else .next s

/-- Link delay of R50, with the link's asymmetry. -/
def State.beaconDelay (s : State) (n : Nat) (m : BeaconMsg) : Int :=
  ((m.t4 - m.t1) - (m.t3 - m.t2)) / 2 - sint 16 (s.rd (aTimeLinkAsym n)) * 1024

/-- Offset of R50. -/
def State.beaconOffset (s : State) (n : Nat) (m : BeaconMsg) : Int := m.t2 - m.t1 - s.beaconDelay n m

/-- The source class over which a link's beacons count. -/
def beaconSource (m : BeaconMsg) : Nat := if m.optical then 2 else 1

/-- BEACON: election data, and a delay and offset sample of the followed neighbour (R50, R51); a step that the root announces
is scheduled here too (R58). -/
def execBeacon (n : Nat) (msg : BeaconMsg) (s : State) : Res :=
  if !(s.up && n < 64 && s.linkUp n) then .next s
  else
    let m := { msg with optical := msg.optical && s.isUplink n }
    let s := { s with time := { s.time with nbr := sins s.time.nbr n m } }
    let s := s.reselect
    if (s.followed m.optical).map Prod.fst = some n && s.source = beaconSource m then
      let s :=
        match m.step with
        | some st => if s.time.step.isNone then { s with time := { s.time with step := some st } } else s
        | none => s
      .next (s.sample (beaconSource m) (s.beaconOffset n m))
    else .next s

/-! ### PTP, R47 and R48 -/

/-- The entry of a PTP port. -/
def State.port (s : State) (port : Nat) : PtpPort := sget PtpPort.zero s.time.ptp port

def State.setPort (s : State) (port : Nat) (v : PtpPort) : State :=
  { s with time := { s.time with ptp := sput PtpPort.zero s.time.ptp port v } }

/-- Offset of a port's last Sync: the source's time at its receipt less the counter. -/
def PtpPort.offset (v : PtpPort) : Int :=
  match v.sync with
  | some (t1, t2) => t1 + v.delay - t2
  | none => 0

/-- PTP_SYNC: kept with its two timestamps, and used as a sample. -/
def execPtpSync (port : Nat) (t1 t2 : Int) (s : State) : Res :=
  if s.boot.alive && port < 2 then
    let v := { s.port port with sync := some (t1, t2) }
    .next ((s.setPort port v).sample (3 + port) v.offset)
  else .next s

/-- PTP_ANNOUNCE: the port's source lives (R46). -/
def execPtpAnnounce (port : Nat) (s : State) : Res :=
  if s.boot.alive && port < 2 then .next (s.setPort port { s.port port with usable := true }).reselect else .next s

/-- PTP_DELAY_REQ: a Delay_Req goes out, its time kept. -/
def execPtpDelayReq (port : Nat) (s : State) : Res :=
  if s.boot.alive && port < 2 then
    .next ((s.setPort port { s.port port with req := some s.time.count }).emit (.delayReq port))
  else .next s

/-- PTP_DELAY_RESP: with a Sync and a Delay_Req outstanding, the mean path delay and a sample with it. -/
def execPtpDelayResp (port : Nat) (t4 : Int) (s : State) : Res :=
  if s.boot.alive && port < 2 then
    let v := s.port port
    match v.sync, v.req with
    | some (t1, t2), some t3 =>
      let v := { v with req := none, delay := ((t2 - t1) + (t4 - t3)) / 2 }
      .next ((s.setPort port v).sample (3 + port) v.offset)
    | _, _ => .next s
  else .next s

/-- PEER_DELAY_MESSAGE: discarded and counted. -/
def execPeerDelayMessage (port : Nat) (s : State) : Res :=
  if s.boot.alive && port < 2 then .next { s with time := { s.time with peerDelay := s.time.peerDelay + 1 } } else .next s

/-! ### PPS_IN, R64, R104, R538 -/

/-- TIME_SETs that this edge answers: all whose furrow is over. -/
def State.dueSets (s : State) : List (Nat × Nat × W64 × Option Nat) :=
  s.time.timeSet.filter fun e => match e.2.2.2 with
    | some f => s.furrow != f && reached f s.furrow
    | none => true

/-- A TIME_SET meets its edge: the edge is assigned its value, the offset removed, the command done. -/
def State.timeSetEdge (s : State) (e : Nat × Nat × W64 × Option Nat) : State :=
  let v := e.2.2.1.toNat
  let off := (v : Int) * 65536 - s.time.count
  let s :=
    { s with
      time := { s.time with ppsAssigned := some (v, s.time.ns), timeSet := s.time.timeSet.erase e } }
  ((s.reselect).discipline off).finish e.1 e.2.1 0 0 0

/-- The time that an edge is assigned when no TIME_SET names it: by PTP, or by counting from the last assigned edge. -/
def State.edgeTime (s : State) (ptpTime : Option Int) : Option Int :=
  if s.ptpOk 0 || s.ptpOk 1 then ptpTime.map fun t => nearest t (nsPerSec * 65536) * nsPerSec
  else s.time.ppsAssigned.map fun a => (a.1 : Int) + nearest ((s.time.ns : Int) - a.2) nsPerSec * nsPerSec

/-- PPS_IN_EDGE: timestamped always; assigned a second, and used as a sample while PPS_IN is selected. -/
def execPpsInEdge (ptpTime : Option Int) (s : State) : Res :=
  if !s.boot.alive then .next s
  else
    let s := (s.wr aTimePpsInTs s.time.ns).setFld aTimeStatus 49 48 s.quality
    let s := { s with time := { s.time with ppsLive := true }, pins := { s.pins with ppsIn := true } }
    match s.dueSets with
    | [] =>
      match s.edgeTime ptpTime with
      | some t =>
        let s := { s with time := { s.time with ppsAssigned := some (t.toNat, s.time.ns) } }
        .next ((s.reselect).sample 5 (t * 65536 - s.time.count))
      | none => .next s.reselect
    | es => .next (es.foldl State.timeSetEdge s)

/-- TIME_SET_TIMEOUT: the oldest TIME_SET ends without its edge. -/
def execTimeSetTimeout (s : State) : Res :=
  match s.time.timeSet with
  | [] => .next s
  | e :: es => .next ({ s with time := { s.time with timeSet := es } }.finish e.1 e.2.1 0x0304 0 0)

/-! ### Loss of a source, holdover, R43 and R46 -/

/-- SOURCE_LOSS: the followed neighbour of a class, a PTP port, or PPS_IN is declared lost. -/
def execSourceLoss (src : Nat) (s : State) : Res :=
  if !s.boot.alive then .next s
  else
    let drop := fun (o : Bool) =>
      match s.followed o with
      | some e => { s with time := { s.time with nbr := sdel s.time.nbr e.1 } }
      | none => s
    match src with
    | 1 => .next (drop false).reselect
    | 2 => .next (drop true).reselect
    | 3 => .next (s.setPort 0 { s.port 0 with usable := false }).reselect
    | 4 => .next (s.setPort 1 { s.port 1 with usable := false }).reselect
    | 5 => .next ({ s with time := { s.time with ppsLive := false } }.reselect)
    | _ => .next s

/-- HOLDOVER_LIMIT: HOLDOVER has lasted beyond its limit. -/
def execHoldoverLimit (s : State) : Res :=
  if s.boot.alive && s.quality = 1 then .next (s.setFld aTimeStatus 1 0 0) else .next s

/-- SLEW_COMPLETE: time passes until the offset is removed (R53, R54). -/
def execSlewComplete (s : State) : Res :=
  let term := (slewTerm s.time.freqCorr s.time.slew).natAbs
  if !s.boot.alive || term = 0 then .next s
  else .next (s.pass (s.time.run ((s.time.slew.natAbs + term - 1) / term)))

/-! ### PPS_OUT, R61 and R62 -/

/-- PPS_OUT_PULSE: the counter crosses its next whole second. -/
def execPpsOutPulse (s : State) : Res :=
  let sec := s.time.ns / nsPerSec + 1
  let t := s.time.runTo ((sec * nsPerSec : Nat) * 65536)
  if s.boot.alive then .next (s.pass t) else .next s

/-- PPS_OUT_PULSE_END: PPS_OUT falls width_ns after it rose. -/
def execPpsOutPulseEnd (s : State) : Res :=
  match s.time.ppsEvent with
  | none => .next s
  | some (sec, _) =>
    let c : Int := ((sec * nsPerSec + s.fld aTimePpsCfg 29 1 : Nat) : Int) * 65536
    let t := if s.time.count < c then s.time.runTo c else s.time
    if s.boot.alive && s.pins.ppsOut && s.mayPass t then
      .next { s with time := t, pins := { s.pins with ppsOut := false } }
    else .next s

end Sys2Proof.Machine
end

