-- ==== Sys2Proof/Machine/Intake.lean ====
section
/-! DEFINITION. How commands enter the package: the judgement of R81 for DMWr, datagrams, the test port; the journal and anchoring (R83 to
R91); receipts and MSI-X (R90, R95); the test port (R86, R534); host accesses through BAR4 (R542). -/

namespace Sys2Proof.Machine

/-! ### The judgement of R81 -/

/-- Some steward pair is in service (R481). -/
def State.pairInService (s : State) : Bool := s.fld aRasSteward 57 56 = 1 || s.fld aRasSteward 55 54 = 1

/-- Where a journal slot lies in either retention copy (R539). -/
def journalSlot (q seq : Nat) : Nat := q * 0x40000 + (seq % 4096) * 64

/-- A packet enters the journal: both copies, next_seq, the entry; and it is sent to the buddy (R83, R87). -/
def State.journal (s : State) (q : Nat) (pkt : W512) : State :=
  let v := s.queue q
  let bs := leBytes 64 pkt.toNat
  let e : Entry :=
    { seq := pSeq pkt, pkt := pkt, stage := .waiting, anchored := false, restated := false, handle := 0, data := [], recs := [] }
  let s := s.setQueue q { v with nextSeq := v.nextSeq + 1, entries := v.entries ++ [e] }
  let s := { s with
    retA := mwrite s.retA (journalSlot q v.nextSeq) bs
    retB := mwrite s.retB (journalSlot q v.nextSeq) bs }
  if s.buddy = 0 then s else s.emit (.mirror 0x30 [q, pSeq pkt, pkt.toNat])

/-- One journaled command is replayed: it waits, anchored, its records restated (R120). -/
def State.takeEntry (s : State) (j : JXfer) : State :=
  let bs := leBytes 64 j.pkt.toNat
  let e : Entry :=
    { seq := j.seq, pkt := j.pkt, stage := .waiting, anchored := true, restated := true, handle := 0, data := [], recs := [] }
  let s := s.modQueue j.queue fun v => { v with entries := v.entries ++ [e] }
  { s with
    retA := mwrite s.retA (journalSlot j.queue j.seq) bs
    retB := mwrite s.retB (journalSlot j.queue j.seq) bs }

/-- A queue that a resuming package takes from its buddy, or from the lost package's: next_seq after what is anchored, the commands to
replay, and its record, which waits until the queue is enabled; a TAKEOVER that waits in the queue stays for its own record. -/
def State.takeQueue (s : State) (js : List JXfer) (q anch : Nat) : State :=
  let s := s.modQueue q fun v => { v with nextSeq := anch + 1, anch := anch, entries := v.entries.filter fun e => pOpcode e.pkt == 0x0C02 }
  let s := (js.filter fun j => j.queue == q && !j.retired && j.seq ≤ anch).foldl State.takeEntry s
  let r := s.mkRec q (anch + 1) 0x030C 0 0 true
  if s.qEnabled q then s.postRec r else s.modQueue q fun v => { v with held := v.held ++ [r] }

/-- The judgement on a packet for queue `q` whose place and length are right or not: 0 accepted or a duplicate, 1 malformed, 2
retry. -/
def State.judge (s : State) (q : Nat) (shape : Bool) (pkt : W512) : State × Nat :=
  let v := s.queue q
  let seq := pSeq pkt
  if !(shape && s.qEnabled q && pQueue pkt == q) then (s.countFld aIntkStatus 60 45 1, 1)
  else if !s.pairInService then (s, 2)
  else if seq < v.nextSeq then (s.countFld aIntkStatus 44 29 1, 0)
  else if v.nextSeq < seq then (s, 2)
  else if 4096 ≤ v.entries.length then (s, 2)
  else if s.fld aIntkCfg 12 0 ≤ s.unanchored then (s, 2)
  else (s.journal q pkt, 0)

/-- The queue whose region a BAR2 offset addresses: of the physical function, or of partition `n`'s virtual function, whose regions
are those of its tenant queues in ascending order (R80). -/
def State.regionQueue (s : State) (vf : Option Nat) (off : Nat) : Option Nat :=
  match vf with
  | none => if off < 0x1000000 then some (off / 0x40000) else none
  | some n => nth ((below 64).filter fun q => s.qPort q == 1 && s.qPart q == n) (off / 0x40000)

/-- DMWR_INTAKE: completion 0 Successful Completion, 1 Unsupported Request, 2 Memory Request Retry Status. -/
def execDmwrIntake (vf : Option Nat) (off len : Nat) (pkt : BitVec 512) (s : State) : Res :=
  if !s.boot.alive then .next (s.emit .notServed)
  else
    match s.regionQueue vf off with
    | none => .next ((s.countFld aIntkStatus 60 45 1).emit (.dmwr 1))
    | some q =>
      let r := s.judge q (len == 64 && off % 0x40000 == (pSeq pkt % 4096) * 64) pkt
      .next (r.1.emit (.dmwr r.2))

/-- POSTED_WRITE_BAR2: discarded, non_dmwr_write set (R85). -/
def execPostedWriteBar2 (_off _len : Nat) (s : State) : Res :=
  if s.boot.alive then .next (s.setFlag aIntkStatus 62) else .next (s.emit .notServed)

/-- The answer codes of datagrams, the test port and the fabric: 0 accepted, 1 retry, 2 malformed. -/
def answerCode (r : Nat) : Nat :=
  match r with
  | 0 => 0
  | 1 => 2
  | _ => 1

/-- A packet for a queue that must be assigned to a port: its answer (R85, R86, R398). -/
def State.portEnter (s : State) (port : Nat) (shape : Bool) (pkt : W512) : State × Nat :=
  let q := pQueue pkt
  let r := s.judge q (shape && s.qPort q == port) pkt
  (r.1, answerCode r.2)

/-- COMMAND_DATAGRAM: the operator port. -/
def execCommandDatagram (len : Nat) (pkt : BitVec 512) (s : State) : Res :=
  if !s.boot.alive then .next (s.emit .notServed)
  else
    let r := s.portEnter 2 (len == 64) pkt
    .next (r.1.emit (.datagram (pQueue pkt) (pSeq pkt) r.2))

/-! ### The test port, R86 and R534 -/

/-- The lab fuse is blown: the private codes select BYPASS. -/
def State.selectIr (s : State) (code : Nat) : State := { s with jtag := { s.jtag with ir := BitVec.ofNat 8 code } }

/-- LAB_CMD: the packet of bits [511:0] enters a lab queue, and the answer waits in [519:512]. -/
def execLabCmd (dr : BitVec 528) (s : State) : Res :=
  if s.boot.labBlown then .next (s.selectIr 0xFF)
  else if !s.boot.alive then .next (s.selectIr 0x20)
  else
    let r := s.portEnter 5 true (BitVec.ofNat 512 dr.toNat)
    let s := r.1.selectIr 0x20
    .next { s with jtag := { s.jtag with labAnswer := BitVec.ofNat 8 r.2 } }

/-- Eight bytes of a local address as the lab reads them, uncached: what is not there and what is poisoned reads zero. -/
def State.labRead (s : State) (a : Nat) : State × Nat :=
  match s.region a with
  | .ctl o => let r := s.ctlRead o 8; (r.1, leNat r.2)
  | _ => (s, leNat (s.readMem true a 8).data)

/-- Eight bytes written by the lab; retention SRAM discards them (R539). -/
def State.labWrite (s : State) (a v : Nat) : State :=
  match s.region a with
  | .ctl o => s.ctlWrite o 8 v
  | _ => (s.writeMem a (leBytes 8 v)).1

/-- LAB_MEM: bits [47:0] address, naturally aligned, [48] write, [63:49] zero, [127:64] data. -/
def execLabMem (dr : BitVec 128) (s : State) : Res :=
  let x := dr.toNat
  let a := bits x 47 0
  if s.boot.labBlown then .next (s.selectIr 0xFF)
  else
    let s := s.selectIr 0x21
    if !s.boot.alive || bits x 63 49 != 0 || a % 8 != 0 then .next s
    else if bit x 48 then .next (s.labWrite a (bits x 127 64))
    else
      let r := s.labRead a
      .next { r.1 with jtag := { r.1.jtag with labData := BitVec.ofNat 64 r.2 } }

/-- IDCODE. -/
def execIdcode (s : State) : Res := .next ((s.selectIr 0x01).emit (.tdo 0x100048CB))

/-- BYPASS, also for codes that the port does not offer: the register's one bit is captured as 0. -/
def execBypass (_code : BitVec 8) (s : State) : Res := .next ((s.selectIr 0xFF).emit (.tdo 0))

/-- EXTEST: the boundary cells drive the pins. -/
def execExtest (cells : List Bool) (s : State) : Res :=
  .next { s with jtag := { s.jtag with ir := 0, cells := cells } }

/-- SAMPLE/PRELOAD: the sampled cells are shifted out and the preloaded ones wait in the cells. -/
def execSamplePreload (sampled preload : List Bool) (s : State) : Res :=
  let bitsOf := fun (l : List Bool) => l.foldr (fun b n => b2n b + 2 * n) 0
  .next (State.emit { s with jtag := { s.jtag with ir := 2, cells := preload } } (.tdo (bitsOf sampled)))

/-! ### Anchoring, receipts, MSI-X -/

/-- ANCHOR_CONFIRM: the buddy has stored an entry, or a retire mark, which releases the entry (R88, R91). -/
def execAnchorConfirm (q seq : Nat) (retire : Bool) (s : State) : Res :=
  if !s.up || 64 ≤ q || s.buddy = 0 then .next s
  else if retire then
    .next (s.modQueue q fun v => { v with entries := v.entries.filter fun e => !(e.seq == seq && e.stage == .done) })
  else .next ((s.modQueue q fun v => v.modEntry seq fun e => { e with anchored := true }).anchor q)

/-- The 16 bytes of a receipt, R90. -/
def receiptBytes (s : State) (q : Nat) (v : Queue) (ns quality : Nat) : List Byte :=
  leBytes 6 v.anch ++ leBytes 1 q ++ leBytes 1 (b2n v.rrPhase + 2 * b2n (s.buddy == 0) + 4 * quality) ++ leBytes 8 ns

/-- RECEIPT_WRITE: the receipt that is due is written at the ring position. -/
def execReceiptWrite (q : Nat) (s : State) : Res :=
  let v := s.queue q
  match v.receipt with
  | none => .next s
  | some (ns, quality) =>
    if !s.up || !(s.qEnabled q) then .next s
    else
      let s := s.dmaWrite q (s.fld (aIntkQRrBase q) 63 12 * 4096 + 16 * v.rrPos) (receiptBytes s q v ns quality)
      let pos := (v.rrPos + 1) % s.rrSize q
      .next (s.modQueue q fun v =>
        { v with receipt := none, rrPos := pos, rrPhase := if pos = 0 then !v.rrPhase else v.rrPhase })

/-- MSIX_HOLD_EXPIRY: the vector is raised for the records written within msix_hold_ns. -/
def execMsixHoldExpiry (q : Nat) (s : State) : Res :=
  if s.up && q < 64 && (s.queue q).msixDue then
    .next ((s.modQueue q fun v => { v with msixDue := false }).emit (.msix (s.fld (aIntkQCfg q) 55 45)))
  else .next s

/-! ### Host accesses through BAR4, R542 -/

/-- A line that an access of PCIe I/O would wait for at its home. -/
def State.lineHeld (s : State) (line : Nat) : Bool :=
  match s.dirOf line with
  | some e => e.wb || !e.waiting.isEmpty || e.holders.contains 14
  | none => false

/-- One piece of a host write, inside one 64-byte block; false where it reaches no memory. HBM is written through the home. -/
def State.hostPiece (s : State) (a : Nat) (bs : List Byte) : State × Bool :=
  if a < hbmEnd then
    let line := a / 64
    if bs.length = 64 then (((s.discardLine line).discardSc line).lineToHbm line (BitVec.ofNat 512 (leNat bs)), true)
    else
      match s.homeRequest line 99 true with
      | (s, .got (some d) _) =>
        let l := leBytes 64 d.toNat
        let d := BitVec.ofNat 512 (leNat (l.take (a % 64) ++ bs ++ l.drop (a % 64 + bs.length)))
        (if (s.findLine 4 (s.slice line) line).isSome then s.scPut line d true else s.lineToHbm line d, true)
      | (s, _) => (s, true)
  else s.writePiece a bs

/-- One piece of a host read. -/
def State.hostReadPiece (s : State) (a n : Nat) : State × LRead :=
  if a < hbmEnd then
    match s.homeRequest (a / 64) 99 false with
    | (s, .got (some d) _) => (s, ⟨((leBytes 64 d.toNat).drop (a % 64)).take n, false, false⟩)
    | (s, _) => (s, ⟨zeros n, false, true⟩)
  else (s, s.readPiece false a n)

/-- host_unpop in DEV_MODE. -/
def State.hostUnpop (s : State) (b : Bool) : State := if b then s.setFlag aDevMode 62 else s

/-- HOST_BAR4_ACCESS: the control window as R34 has it; otherwise piece by piece, an access that a line holds back being made
again. -/
def execHostBar4Access (wr : Bool) (addr len : Nat) (data : List Byte) (s : State) : Res :=
  let n := if wr then data.length else len
  if !s.up || 2 ^ 40 < addr + n then .next (s.emit .notServed)
  else
    match s.region addr with
    | .ctl o =>
      if !(ctlAligned o n) then .next (s.emit .abort)
      else if wr then .next (s.ctlWrite o n (leNat data))
      else
        let r := s.ctlRead o n
        .next (r.1.emit (.data r.2 false))
    | _ =>
      let ps := spans64 (n / 64 + 2) addr n
      if ps.any fun p => p.1 < hbmEnd && s.lineHeld (p.1 / 64) then .next s
      else if wr then
        let r := (pieces64 (n / 64 + 2) addr data).foldl
          (fun (r : State × Bool) p => let w := r.1.hostPiece p.1 p.2; (w.1, r.2 && w.2)) (s, true)
        .next (r.1.hostUnpop (!r.2))
      else
        let r := ps.foldl
          (fun (r : State × LRead) p => let w := r.1.hostReadPiece p.1 p.2; (w.1, r.2.join w.2))
          (s, (⟨[], false, false⟩ : LRead))
        let s := r.1.hostUnpop r.2.unpop
        .next (s.emit (.data (if r.2.poison then zeros n else r.2.data) r.2.poison))

end Sys2Proof.Machine
end

