-- ==== Sys2Proof/Machine/Cmd.lean ====
section
/-! DEFINITION. How a command starts (R77 to R79, R84, R96, R97, R540, R544): which entry of a queue is next, the checks that every
opcode shares in their order, the fetch of parameters and images, and the pending furrow event of a command with at_furrow. -/

namespace Sys2Proof.Machine

/-- A command as its own rules see it: queue, sequence, packet, and the blocks fetched for it so far. -/
structure Cmd where
  q : Nat
  seq : Nat
  pkt : W512
  data : List (List Byte)
  deriving DecidableEq, Repr

/-- Parameter bytes by their packet numbers (R544). -/
def Cmd.parm (c : Cmd) (off n : Nat) : Nat := parmOf c.pkt c.data off n

def Cmd.op (c : Cmd) : Nat := pOpcode c.pkt
def Cmd.target (c : Cmd) : Nat := pTarget c.pkt

/-- The block that was fetched as the `i`-th piece of data after the parameters. -/
def Cmd.block (c : Cmd) (i : Nat) : Option (List Byte) := nth c.data (i + b2n (pPtr c.pkt))

/-- The fetched parameter block of the pointer form, and numbers in it. -/
def Cmd.desc (c : Cmd) : List Byte := c.data.headD []
def Cmd.dnum (c : Cmd) (off n : Nat) : Nat := leNat ((c.desc.drop off).take n)

/-- Every parameter byte but the named ranges is 0 (the sections of R103 to R116). -/
def Cmd.onlyNamed (c : Cmd) (named : List (Nat × Nat)) : Bool :=
  (upFrom 16 40).all fun k => named.any (fun r => r.1 ≤ k && k < r.1 + r.2) || c.parm k 1 == 0

/-- What a check comes to: the command may go on; it is refused with a status and a detail; data has to be fetched first; or the command
does not start yet (R268). -/
inductive Chk where
  | ok
  | bad (status detail : Nat)
  | need (addr len : Nat)
  | hold
  deriving DecidableEq, Repr

/-- One check, then the next. -/
def Chk.andThen (a : Chk) (b : Unit → Chk) : Chk :=
  match a with
  | .ok => b ()
  | x => x

/-- Refuse with a status unless a condition holds. -/
def Chk.must (b : Bool) (status : Nat) (detail : Nat := 0) : Chk := if b then .ok else .bad status detail

/-- The first of several checks that is not passed. -/
def Chk.all : List Chk → Chk
  | [] => .ok
  | x :: xs => x.andThen fun _ => Chk.all xs

/-! ### The opcode table, R96 -/

/-- What the target field names. -/
inductive Target where
  /-- no use of the target, or the whole package or a partition by the command's own rule -/
  | any
  | package
  | part
  /-- an existing partition, or the whole package -/
  | partOrPackage
  /-- a partition number, of a partition that PART_CREATE is to make or that is the partner's -/
  | newPart
  | handle
  deriving DecidableEq, Repr

/-- Opcodes marked I. -/
def immediate (op : Nat) : Bool := op == 0x0001 || op == 0x0006 || op == 0x0901 || op == 0x0902 || op == 0x0A02

/-- Opcodes of the pointer form, with the size that param_len must have; none where the rule sets it (R502). -/
def pointerForm (op : Nat) : Bool := op == 0x0401 || op == 0x0501 || op == 0x0702 || op == 0x0B02

/-- A listed opcode: its group has its function. -/
def listedOp (op : Nat) : Bool := op / 256 < 14 && op % 256 < 16 && bit (groupFns (op / 256)) (op % 256)

/-- What the target of an opcode names. -/
def targetOf (op : Nat) : Target :=
  match op with
  | 0x0002 => .partOrPackage
  | 0x0003 => .handle
  | 0x0004 => .handle
  | 0x0005 => .handle
  | 0x0006 => .handle
  | 0x0101 => .package
  | 0x0102 => .package
  | 0x0103 => .handle
  | 0x0201 => .newPart
  | 0x0202 => .part
  | 0x0203 => .part
  | 0x0204 => .part
  | 0x0205 => .part
  | 0x0301 => .part
  | 0x0302 => .part
  | 0x0303 => .part
  | 0x0401 => .part
  | 0x0501 => .part
  | 0x0502 => .handle
  | 0x0503 => .handle
  | 0x0601 => .part
  | 0x0602 => .part
  | 0x0603 => .package
  | 0x0702 => .part
  | 0x0A01 => .package
  | 0x0B01 => .partOrPackage
  | 0x0C01 => .newPart
  | 0x0C02 => .package
  | 0x0D01 => .part
  | _ => .any

/-- The row of R72 in which a scheduled command stands. -/
def opRow (op : Nat) : Nat :=
  match op with
  | 0x0601 => 2
  | 0x0202 => 3
  | 0x0802 => 4
  | 0x0502 => 6
  | _ => 7

/-! ### Checks 1 to 6 of R84 -/

/-- Reserved flag bits and the schedule bytes (R77, R78). -/
def badFlags (p : W512) : Bool :=
  bits (pFlags p) 7 4 != 0 || (if pAtFurrow p then bytesOf p 62 2 != 0 else bytesOf p 56 8 != 0)

/-- The partition that a target names, for the rights of a tenant. -/
def targetPart (op t : Nat) : Nat :=
  match targetOf op with
  | .handle => bits t 15 12
  | _ => t

/-- The queue that created a handle is of a port. -/
def State.madeBy (s : State) (port h : Nat) : Bool :=
  match s.handle? h with
  | some (_, r) => s.qPort r.queue == port
  | none => false

/-- The port matrix (R97): the function's bit; a tenant's own partition; peer and buddy in the control group on handles that they
created; the whole package as target from owner and operator only, but for TAKEOVER, which R458 sends so. -/
def State.permitted (s : State) (q : Nat) (p : W512) : Bool :=
  let op := pOpcode p
  let port := s.qPort q
  bit (permFns s.boot.labBlown (op / 256) port) (op % 256)
    && (port != 1 || targetPart op (pTarget p) == s.qPart q)
    && (!(port == 3 || port == 4) || op / 256 != 0 || targetOf op != .handle || s.madeBy port (pTarget p))
    && (pTarget p != 0xFFFFFFFF || port == 0 || port == 2 || op == 0x0C02)

/-- The target names what the opcode acts on; a handle is checked by `targetChk`. -/
def State.targetOk (s : State) (p : W512) : Bool :=
  match targetOf (pOpcode p) with
  | .any => true
  | .handle => true
  | .package => pTarget p == 0xFFFFFFFF
  | .part => s.partExists (pTarget p)
  | .partOrPackage => pTarget p == 0xFFFFFFFF || s.partExists (pTarget p)
  | .newPart => pTarget p < 16

/-- Check 5: the target; a handle that is not the most recent of its slot is refused here with its own status (R98). -/
def State.targetChk (s : State) (p : W512) : Chk :=
  match targetOf (pOpcode p) with
  | .handle => Chk.must (s.handle? (pTarget p)).isSome 0x030A
  | _ => Chk.must (s.targetOk p) 0x0305

/-- Checks 1 to 5. -/
def State.baseChk (s : State) (q : Nat) (p : W512) : Chk :=
  Chk.all
    [Chk.must (!(badFlags p)) 0x0303, Chk.must (listedOp (pOpcode p)) 0x0301,
     Chk.must (!(immediate (pOpcode p) && pAtFurrow p)) 0x0303, Chk.must (s.permitted q p) 0x0302,
     s.targetChk p]

/-- Check 6: the form of the parameters and their fetch. -/
def Cmd.paramChk (c : Cmd) : Chk :=
  let p := c.pkt
  if pointerForm c.op then
    (Chk.must (pPtr p) 0x0304).andThen fun _ =>
      if c.data.isEmpty then .need (bytesOf p 16 8) (pParamLen p) else .ok
  else
    (Chk.must (pParamLen p ≤ 40) 0x0304).andThen fun _ =>
      if pPtr p && c.data.isEmpty then .need (bytesOf p 16 8) (pParamLen p) else .ok

/-! ### Fetching, R540 -/

/-- Outcome of asking for data. -/
inductive Fetch where
  | got (bs : List Byte)
  | waits (s : State)
  | bad (status : Nat)
  deriving DecidableEq, Repr

/-- Ask for `n` bytes at an address that stands in place of data. -/
def State.fetch (s : State) (q addr n : Nat) : Fetch :=
  match dmaKind (s.qPort q) addr with
  | none => .bad 0x0304
  | some true => if n = 0 then .got [] else .waits (s.emit (.dmaRead q (bits addr 62 0) n))
  | some false =>
    let r := s.readMem false (bits addr 47 0) n
    if r.unpop || r.poison then .bad 0x0306 else .got r.data

/-! ### The next command of a queue -/

/-- A SNAPSHOT of a partition that a warm reset interrupted still waits for its furrow (R119). -/
def State.snapAgain (s : State) (p : Nat) : Bool :=
  s.sched.any fun ev =>
    match ev.kind with
    | .cmd q n =>
      match (s.queue q).entry? n with
      | some e => e.stage == .started && pOpcode e.pkt == opSNAPSHOT && pTarget e.pkt == p
      | none => false
    | .phase _ _ => false

/-- A command waits for a rollback of its partition: while a RESTORE of it runs, all but control commands (R461); before that, what
a takeover replays (R459); and until an interrupted SNAPSHOT is captured (R119). -/
def State.rollHolds (s : State) (e : Entry) : Bool :=
  let p := targetPart (pOpcode e.pkt) (pTarget e.pkt)
  s.snapAgain p
    || (e.restated && s.ckpt.replay.contains p)
    || (pOpcode e.pkt / 256 != 0
        && s.handles.any fun h => h.2.state.live && h.2.opcode.toNat == opRESTORE && h.2.part == p)

/-- The first entry that has not started, if it waits, and nothing holds it back: the fence of R78, a full completion ring (R94), and
a pair in service (R481). -/
def State.headEntry (s : State) (q : Nat) : Option Entry :=
  let v := s.queue q
  match v.entries.find? fun e => e.stage != .started && e.stage != .done with
  | some e =>
    if s.up && s.pairInService && e.stage == .waiting && v.held.isEmpty && !(s.ringFull q) && !(s.rollHolds e)
        && (!(pFence e.pkt) || v.entries.all fun x => e.seq ≤ x.seq || x.stage == .done)
    then some e else none
  | none => none

def State.cmdOf (_s : State) (q : Nat) (e : Entry) : Cmd := { q := q, seq := e.seq, pkt := e.pkt, data := e.data }

/-- A checked command with at_furrow becomes a pending furrow event (R69), or is refused with the current furrow. -/
def State.schedule (s : State) (c : Cmd) : State :=
  let f := pFurrow c.pkt
  match s.lateOrFull f with
  | some st => s.finish c.q c.seq st 0 (if st = 0x0202 then s.furrow else 0)
  | none =>
    let s := s.modQueue c.q fun v => v.modEntry c.seq fun e => { e with stage := .scheduled }
    { s with sched := s.sched ++ [{ furrow := f, row := opRow c.op, kind := .cmd c.q c.seq }] }

/-- Start an entry: the checks in their order, fetching what they ask for; then its effect, or its pending event. `chk` and `eff` are
the rules of the opcodes. -/
def startEntry (chk : State → Cmd → Chk) (eff : State → Cmd → State) : Nat → State → Cmd → State
  | 0, s, _ => s
  | fuel + 1, s, c =>
    let all := (s.baseChk c.q c.pkt).andThen fun _ => (c.paramChk).andThen fun _ => chk s c
    match all with
    | .bad st d => s.finish c.q c.seq st 0 d
    | .hold => s.modQueue c.q fun v => v.modEntry c.seq fun e => { e with stage := .waiting, data := c.data }
    | .ok =>
      if pAtFurrow c.pkt then s.schedule c
      else eff (s.modQueue c.q fun v => v.modEntry c.seq fun e => { e with stage := .started }) c
    | .need a n =>
      match s.fetch c.q a n with
      | .bad st => s.finish c.q c.seq st 0 0
      | .waits s => s.modQueue c.q fun v => v.modEntry c.seq fun e => { e with stage := .fetching, data := c.data }
      | .got bs =>
        let s := s.modQueue c.q fun v => v.modEntry c.seq fun e => { e with data := c.data ++ [bs] }
        startEntry chk eff fuel s { c with data := c.data ++ [bs] }

/-- A start row for opcode `op`: the next command of the queue starts when it is of that opcode, or of none that is listed. -/
def startRow (chk : State → Cmd → Chk) (eff : State → Cmd → State) (op : Nat) (s : State) (q : Nat) : State :=
  if 64 ≤ q then s
  else
    match s.headEntry q with
    | some e =>
      if pOpcode e.pkt = op ∨ !(listedOp (pOpcode e.pkt)) then startEntry chk eff 8 s (s.cmdOf q e) else s
    | none => s

end Sys2Proof.Machine
end

