-- ==== Sys2Proof/Machine/CmdCtl.lean ====
section
/-! DEFINITION. The control, time, health and lab commands: NOP, FLUSH, SUSPEND, RESUME, CANCEL, QUERY_HANDLE (R99, R103, R113, R117),
TIME_SET and FURROW_SET (R104, R105), HEALTH_READ (R114), DEBUG_HALT and SCAN (R115, R116): the checks of their parameters and
what they do when they start. -/

namespace Sys2Proof.Machine

/-! ### Parts that commands share -/

/-- A command that names no parameter bytes. -/
def Cmd.noParams (c : Cmd) : Chk := Chk.must (c.onlyNamed []) 0x0304

/-- The handle in target is the most recent of its slot (R98). -/
def Cmd.fresh (s : State) (c : Cmd) : Chk := Chk.must (s.handle? c.target).isSome 0x030A

/-- An address that stands in place of data fits the table of R540. -/
def Cmd.addrOk (s : State) (c : Cmd) (a : Nat) : Chk := Chk.must (dmaKind (s.qPort c.q) a).isSome 0x0304

/-- The final record of a command. -/
def Cmd.done (s : State) (c : Cmd) (status detail : Nat) : State := s.finish c.q c.seq status 0 detail

/-- A control command that waits. -/
def Cmd.ctl (c : Cmd) (kind : CtlKind) (subject : Nat) : Ctl :=
  { kind := kind, queue := c.q, seq := c.seq, subject := subject, waits := [], choice := 0, count := 0, furrow := none }

/-! ### NOP, QUERY_HANDLE, R103 -/

def chkNop (_s : State) (c : Cmd) : Chk := c.noParams

def effNop (s : State) (c : Cmd) : State := c.done s 0 s.furrow

def chkQuery (s : State) (c : Cmd) : Chk := (c.fresh s).andThen fun _ => c.noParams

/-- The collective that a handle names. -/
def State.collOf (s : State) (h : Nat) : Option (Nat × Coll) := s.colls.find? fun e => e.2.handle.toNat == h

/-- The state number of a handle; 6 for an idle collective (R416). -/
def State.queryCode (s : State) (w : Nat) (h : HRec) : Nat :=
  match s.collOf w with
  | some (_, k) => if h.state = .running && k.run = .idle then 6 else h.state.code
  | none => h.state.code

def effQuery (s : State) (c : Cmd) : State :=
  match s.handle? c.target with
  | none => c.done s 0x030A 0
  | some (_, h) =>
    c.done s 0
      (s.queryCode c.target h + h.part * 2 ^ 8 + h.opcode.toNat * 2 ^ 16 + (h.lastFurrow % 2 ^ 32) * 2 ^ 32)

/-! ### SUSPEND, RESUME, CANCEL, R99 -/

def chkHandleCtl (s : State) (c : Cmd) : Chk := (c.fresh s).andThen fun _ => c.noParams

def effSuspend (s : State) (c : Cmd) : State := s.suspendCmd c.q c.seq c.target
def effResume (s : State) (c : Cmd) : State := s.resumeCmd c.q c.seq c.target
def effCancel (s : State) (c : Cmd) : State := s.cancelCmd c.q c.seq c.target

/-! ### FLUSH, R113 -/

/-- Choice and scope. -/
def chkFlush (_s : State) (c : Cmd) : Chk :=
  Chk.must
    (c.onlyNamed [(16, 2)] && c.parm 16 1 ≤ 1 && c.parm 17 1 ≤ 2 && !(c.parm 17 1 == 1 && c.target == 0xFFFFFFFF)
      && !(c.parm 17 1 == 2 && c.target != 0xFFFFFFFF)) 0x0304

/-- The queues of a scope. -/
def State.scopeQueues (s : State) (c : Cmd) : List Nat :=
  match c.parm 17 1 with
  | 0 => [c.q]
  | 1 => (below 64).filter fun q => s.qPart q == c.target
  | _ => below 64

/-- One operation is told to suspend: as SUSPEND acts on it (R99). -/
def State.suspendOp (s : State) (i : Nat) : State :=
  match s.hslot i with
  | none => s
  | some h =>
    match h.state with
    | .running => (s.hmove i .suspending).askSuspend i
    | .suspended => (s.modHslot i fun h => { h with resumeAt := none }).settle
    | _ => s

def effFlush (s : State) (c : Cmd) : State :=
  let qs := s.scopeQueues c
  let (s, n) := s.flushQueues qs c.q c.seq
  let ops := s.liveOps fun h => qs.contains h.queue
  let choice := c.parm 16 1
  let ws := ops.map s.hword
  let s := if choice = 0 then ops.foldl State.suspendOp s else s
  (s.await { c.ctl .flush 0 with waits := ws, choice := choice, count := n }).settle

/-! ### TIME_SET and FURROW_SET, R104 and R105 -/

def chkTimeSet (s : State) (c : Cmd) : Chk :=
  Chk.all [Chk.must (c.onlyNamed [(16, 8)]) 0x0304, Chk.must (s.source == 5 || s.source == 0) 0x0304 s.source]

def effTimeSet (s : State) (c : Cmd) : State :=
  let e := (c.q, c.seq, BitVec.ofNat 64 (c.parm 16 8), if pAtFurrow c.pkt then some (pFurrow c.pkt) else none)
  { s with time := { s.time with timeSet := s.time.timeSet ++ [e] } }

def chkFurrowSet (_s : State) (c : Cmd) : Chk :=
  Chk.must (c.onlyNamed [(16, 2), (24, 8)] && c.parm 17 1 ≤ 1) 0x0304

/-- The condition of R105 that refuses FURROW_SET; 0 for none. -/
def State.furrowSetBad (s : State) (clear : Bool) (log2 epoch : Nat) : Nat :=
  if !s.sched.isEmpty || s.time.step.isSome then 1
  else if s.anyLongOp then 2
  else if clear then 0
  else if epoch % 2 ^ log2 ≠ 0 then 3
  else if log2 < 8 ∨ 20 < log2 then 4
  else 0

def effFurrowSet (s : State) (c : Cmd) : State :=
  let clear := c.parm 17 1 == 1
  match s.furrowSetBad clear (c.parm 16 1) (c.parm 24 8) with
  | 0 =>
    let s :=
      if clear then s.setFld aTimeFurrowCfg 5 5 0
      else ((s.setFld aTimeFurrowCfg 4 0 (c.parm 16 1)).setFld aTimeFurrowCfg 5 5 1).wr aTimeFurrowEpoch (c.parm 24 8)
    c.done s 0 0
  | n => c.done (s.setFlag aTimeStatus 63) 0x0304 n

/-! ### HEALTH_READ, R114 -/

def chkHealth (s : State) (c : Cmd) : Chk :=
  Chk.all [Chk.must (c.onlyNamed [(24, 8)]) 0x0304, c.addrOk s (c.parm 24 8)]

/-- The 256 bytes of a health record. -/
def State.healthBytes (s : State) : List Byte :=
  let r := fun (o : Nat) => leBytes 8 (s.regRead o)
  let links := ((below 64).map fun n => s.fld (aFabLinkStatus n) 2 0 * 2 ^ (3 * n)).sum
  r aDevId ++ r aDevPkgAddr ++ r aTimeStatus ++ r aTimeOffset ++ r aTimeFurrowNow ++ r aPwrStatus ++ r aPwrMeasure
    ++ r aRasStatus ++ (below 4).flatMap (fun d => r (aRasDie d)) ++ (below 8).flatMap (fun k => r (aHbmStackStatus k))
    ++ r aCkptStatus ++ r aBootStatus ++ r aBootFw ++ r aFabStatus ++ leBytes 24 links ++ r aIntkStatus
    ++ leBytes 8 s.time.ns ++ leBytes 1 s.quality ++ zeros 23

def effHealth (s : State) (c : Cmd) : State :=
  c.done (s.dmaWrite c.q (c.parm 24 8) s.healthBytes) 0 s.furrow

/-! ### DEBUG_HALT, R115 -/

def chkDebugHalt (_s : State) (c : Cmd) : Chk := Chk.must (c.onlyNamed [(16, 1)] && c.parm 16 1 ≤ 1) 0x0304

def effDebugHalt (s : State) (c : Cmd) : State :=
  s.await { c.ctl .debugHalt c.target with choice := c.parm 16 1, furrow := some s.nextFurrow }

/-- A partition is halted, or released with the halted furrows in the bias of every tile that a furrow wait can hold. -/
def State.debugAct (s : State) (c : Ctl) : State :=
  let p := c.subject
  let s :=
    if c.choice = 0 then
      let s := (s.partTiles p).foldl (fun s k => s.modTile k fun t => { t with debug := true }) s
      let s := (s.partCores p).foldl (fun s k => s.modCore k fun x => { x with debug := true }) s
      s.modPart p fun v => { v with debugAt := some (v.debugAt.getD s.furrow) }
    else
      let n :=
        match (s.part p).debugAt with
        | some f => aheadOf s.furrow f
        | none => 0
      let s := (s.partTiles p).foldl
        (fun s k => s.modTile k fun t =>
          { t with
            debug := false
            bias := if t.debug && (t.run = .running || t.run = .suspending) then furrowAdd t.bias n else t.bias }) s
      let s := (s.partCores p).foldl (fun s k => s.modCore k fun x => { x with debug := false }) s
      s.modPart p fun v => { v with debugAt := none }
  { s with ctl := s.ctl.erase c }.finish c.queue c.seq 0 0 s.furrow

/-! ### SCAN, R116 -/

/-- A tile that SCAN may test. -/
def State.scanTile (s : State) (k : Nat) : Bool := (s.tile k).retired || !s.isMapped k || (s.tilePart? k).isNone

def chkScan (s : State) (c : Cmd) : Chk :=
  Chk.all
    [Chk.must (c.onlyNamed [(16, 2), (24, 8)] && c.parm 16 1 < 4 && c.parm 17 1 < 156) 0x0304, c.addrOk s (c.parm 24 8),
     Chk.must (s.scanTile (156 * c.parm 16 1 + c.parm 17 1)) 0x0305]

def effScan (s : State) (c : Cmd) : State := s.await (c.ctl .scan (156 * c.parm 16 1 + c.parm 17 1))

/-- SCAN_DONE: the self-test of a queue's SCAN ends: the tile is left cleared, the 64-byte record is written. -/
def execScanDone (q : Nat) (pass : Bool) (fails : BitVec 16) (row : W64) (s : State) : Res :=
  match s.ctl.find? fun c => c.kind == .scan && c.queue == q with
  | none => .next s
  | some c =>
    match (s.queue q).entry? c.seq with
    | none => .next s
    | some e =>
      let bs := leBytes 1 (b2n pass) ++ leBytes 2 (fails.toNat % 1024) ++ zeros 13 ++ leBytes 8 row.toNat ++ zeros 40
      let s := s.modTile c.subject fun t => { Tile.zero with retired := t.retired, gated := t.gated }
      let s := s.dmaWrite q (parmOf e.pkt e.data 24 8) bs
      .next ({ s with ctl := s.ctl.erase c }.finish q c.seq 0 0 0)

end Sys2Proof.Machine
end

