-- ==== Sys2Proof/Machine/CoreMem.lean ====
section
/-! DEFINITION. A user core's way to memory: paging (R331 to R333), cacheable, uncached and remote accesses (R325, R335, R361), and
the frame around every instruction: interrupts, fetch, traps (R325 to R327). -/

namespace Sys2Proof.Machine

/-! ### Coherent reads that leave no trace -/

/-- The current data of a line without any change of state: a dirty copy, the system cache's, or HBM's; none when poisoned. -/
def State.peekLine (s : State) (line : Nat) : Option W512 :=
  match (s.holdersOf line).findSome? fun h => s.dirtyAt h line with
  | some d => some d
  | none =>
    match s.findLine 4 (s.slice line) line with
    | some (_, e) => some e.data
    | none => s.lineFromHbm line

/-- An aligned table entry at a global address (R332). What another package holds this model does not know: a free value; a
poisoned table reads as an invalid entry (notes/assumptions 33). -/
def State.tableEntry (s : State) (g : Nat) : State × Nat :=
  match s.dest g with
  | .here a =>
    match s.region a with
    | .hbm =>
      match s.peekLine (a / 64) with
      | some d => (s, bits d.toNat (8 * (a % 64) + 63) (8 * (a % 64)))
      | none => (s, 0)
    | _ => (s, leNat (s.readMem false a 8).data)
  | _ => (s.freed, s.free1 % 2 ^ 64)

/-! ### Paging, R331 and R332 -/

/-- What an access is. -/
inductive Use where
  | fetch
  | read
  | write
  deriving DecidableEq, Repr

/-- Outcome of a walk: a leaf with its level, or the detail of a page fault. -/
inductive Walk where
  | leaf (e level : Nat)
  | fault (detail : Nat)
  deriving DecidableEq, Repr

/-- A malformed leaf: at level 3, W without R, or frame bits below the page size. -/
def badLeaf (e level : Nat) : Bool :=
  level = 3 || (bit e 2 && !bit e 1) || (e / 2 ^ 12) % 2 ^ (9 * level) != 0

/-- The walk from `n` levels up, the table at global address `table`. -/
def walkFrom : Nat → State → Nat → Nat → State × Walk
  | 0, s, _, _ => (s, .fault 4)
  | n + 1, s, table, va =>
    let r := s.tableEntry (table + 8 * bits va (12 + 9 * n + 8) (12 + 9 * n))
    let e := r.2
    if !bit e 0 then (r.1, .fault 0)
    else if bits e 11 8 != 0 then (r.1, .fault 4)
    else if bits e 3 1 = 0 then walkFrom n r.1 (e - e % 4096) va
    else if badLeaf e n then (r.1, .fault 4)
    else (r.1, .leaf e n)

/-- The checks on a leaf in the order of the details; none when the access is permitted. -/
def leafFault (e : Nat) (use : Use) (user : Bool) : Option Nat :=
  let right := match use with
    | .fetch => bit e 3 && (user || !bit e 4)
    | .read => bit e 1
    | .write => bit e 2
  if !right || (user && !bit e 4) then some 1
  else if !bit e 6 then some 2
  else if use = .write && !bit e 7 then some 3
  else none

/-- The global address that a leaf gives. -/
def leafAddr (e level va : Nat) : Nat :=
  let sz := 12 + 9 * level
  (e / 2 ^ 12 * 2 ^ 12) + va % 2 ^ sz

/-- Bits [63:48] equal bit 47. -/
def canonical (va : Nat) : Bool := bits va 63 47 = 0 || bits va 63 47 = 2 ^ 17 - 1

/-- Outcome of a translation. -/
inductive Xlat where
  | ok (g : Nat)
  | fault (detail : Nat)
  deriving DecidableEq, Repr

/-- A cached translation of core `k` that covers an address (R333). -/
def Cpu.tlbHit (k : Cpu) (va : Nat) : Option TlbEnt :=
  k.tlb.find? fun t => t.vpn == va % 2 ^ 48 / 2 ^ (12 + 9 * t.level) && (t.asid == k.ptroot.toNat % 2048 || bit t.leaf.toNat 5)

/-- Walk the tables and keep what may be used. -/
def State.walk (s : State) (c va : Nat) (use : Use) (user : Bool) : State × Xlat :=
  let k := s.core c
  match walkFrom 4 s (k.ptroot.toNat / 4096 * 4096) va with
  | (s, .fault d) => (s, .fault d)
  | (s, .leaf e l) =>
    match leafFault e use user with
    | some d => (s, .fault d)
    | none =>
      let t : TlbEnt := { asid := k.ptroot.toNat % 2048, vpn := va % 2 ^ 48 / 2 ^ (12 + 9 * l), level := l, leaf := BitVec.ofNat 64 e }
      (s.modCore c fun k => { k with tlb := t :: k.tlb }, .ok (leafAddr e l va))

/-- Translate an address; a cached translation that does not permit the access is walked again (notes/assumptions 34). -/
def State.translate (s : State) (c va : Nat) (use : Use) (user : Bool) : State × Xlat :=
  let k := s.core c
  if !bit k.ptroot.toNat 11 then (s, .ok va)
  else if !canonical va then (s, .fault 0)
  else
    match k.tlbHit va with
    | some t =>
      if (leafFault t.leaf.toNat use user).isNone then (s, .ok (leafAddr t.leaf.toNat t.level va)) else s.walk c va use user
    | none => s.walk c va use user

/-! ### Loads and stores -/

/-- Outcome of an access: data, a trap, the line is held back at its home, or another package serves it. -/
inductive MRes where
  | ok (bs : List Byte)
  | trap (cause detail val : Nat)
  | waits
  | remote (pkg a : Nat)
  deriving DecidableEq, Repr

/-- Where a piece of an access lies, or why it cannot be reached. -/
inductive Place where
  | cached (va a n : Nat)
  | device (a : Nat)
  | far (pkg a : Nat)
  | nowhere (va : Nat)
  | fault (detail va : Nat)
  deriving DecidableEq, Repr

/-- Translate the pieces of an access in ascending order. -/
def State.placesOf (s : State) (c : Nat) (use : Use) (user : Bool) : List (Nat × Nat) → State × List Place
  | [] => (s, [])
  | (va, n) :: ps =>
    match s.translate c va use user with
    | (s, .fault d) => let r := s.placesOf c use user ps; (r.1, .fault d va :: r.2)
    | (s, .ok g) =>
      let x : Place := match s.dest g with
        | .invalid => .nowhere va
        | .remote pkg a => .far pkg a
        | .here a => if a < hbmEnd then .cached va a n else .device a
      let r := s.placesOf c use user ps
      (r.1, x :: r.2)

/-- An uncached piece: the whole access must be naturally aligned (R325, R335). -/
def Place.uncached : Place → Bool
  | .cached _ _ _ => false
  | .fault _ _ => false
  | _ => true

/-- The trap that an access meets before it is performed, lowest cause first: misaligned, page fault, and a remote access that no
key permits (R403) or that names no package; `al` asks for natural alignment whatever it reaches. -/
def State.accessTrap (s : State) (c op va n : Nat) (al : Bool) (ps : List Place) : Option MRes :=
  if va % n != 0 && (al || ps.any Place.uncached) then some (.trap 0x09 0 va)
  else
    ps.findSome? fun p =>
      match p with
      | .fault d v => some (.trap 0x0A d v)
      | .nowhere v => some (.trap 0x0A 1 v)
      | .far pkg a => if s.keyOk (s.corePart c) pkg a op then none else some (.trap 0x0A 1 va)
      | _ => none

/-- Load from an uncached local address, naturally aligned (R34, R335); what is not there reads zero (R29). -/
def State.deviceLoad (s : State) (c a n : Nat) : State × List Byte :=
  match s.region a with
  | .ctl o => if ctlAligned o n then s.ctlRead o n else (s.coreUnpop c, zeros n)
  | _ =>
    let r := s.readMem false a n
    (if r.unpop then s.coreUnpop c else s, r.data)

/-- Store to an uncached local address. -/
def State.deviceStore (s : State) (c a : Nat) (bs : List Byte) : State :=
  match s.region a with
  | .ctl o => if ctlAligned o bs.length then s.ctlWrite o bs.length (leNat bs) else s.coreUnpop c
  | _ =>
    let r := s.writeMem a bs
    if r.2 then r.1 else r.1.coreUnpop c

/-- Load the cached pieces. -/
def State.loadPieces (s : State) (c : Nat) : List Place → State × MRes
  | [] => (s, .ok [])
  | .cached va a n :: ps =>
    match s.coreRead 1 c (a / 64) with
    | (s, .poison) => (s, .trap 0x0B 0 va)
    | (s, .waits) => (s, .waits)
    | (s, .ok d) =>
      match s.loadPieces c ps with
      | (s, .ok bs) => (s, .ok (((leBytes 64 d.toNat).drop (a % 64)).take n ++ bs))
      | r => r
  | _ :: _ => (s, .ok [])

/-- Whether a core acts as user. -/
def State.userMode (s : State) (c : Nat) : Bool := (s.core c).priv == 0

/-- Load `n` bytes; `al` asks for natural alignment (LD.AQ). -/
def State.coreLoad (s : State) (c va n : Nat) (al user : Bool) : State × MRes :=
  let r := s.placesOf c .read user (spans64 (n / 64 + 2) va n)
  match r.1.accessTrap c 1 va n al r.2 with
  | some t => (r.1, t)
  | none =>
    match r.2 with
    | .device a :: _ => let q := r.1.deviceLoad c a n; (q.1, .ok q.2)
    | .far pkg a :: _ => (r.1, .remote pkg a)
    | ps => r.1.loadPieces c ps

/-- Take the lines of the cached pieces for writing; `.trap 0 0 0` stands for a poisoned line. -/
def State.ownPieces (s : State) (c : Nat) : List Place → State × MRes
  | [] => (s, .ok [])
  | .cached _ a _ :: ps =>
    match s.coreOwn c (a / 64) with
    | (s, .poison) => (s, .trap 0 0 0)
    | (s, .waits) => (s, .waits)
    | (s, .ok _) => s.ownPieces c ps
  | _ :: _ => (s, .ok [])

/-- Put bytes into a line at an offset. -/
def patchLine (d : W512) (off : Nat) (bs : List Byte) : W512 :=
  let l := leBytes 64 d.toNat
  BitVec.ofNat 512 (leNat (l.take off ++ bs ++ l.drop (off + bs.length)))

/-- Write bytes into the lines that were taken. -/
def State.storePieces (s : State) (c : Nat) : List Place → List Byte → State
  | .cached _ a n :: ps, bs =>
    let s :=
      match s.coreOwn c (a / 64) with
      | (s, .ok d) => s.coreWrite c (a / 64) (patchLine d (a % 64) (bs.take n))
      | (s, _) => s
    s.storePieces c ps (bs.drop n)
  | _, _ => s

/-- Store bytes; a store that meets a poisoned line is not performed (R335). -/
def State.coreStore (s : State) (c va : Nat) (bs : List Byte) (al user : Bool) : State × MRes :=
  let n := bs.length
  let r := s.placesOf c .write user (spans64 (n / 64 + 2) va n)
  match r.1.accessTrap c 2 va n al r.2 with
  | some t => (r.1, t)
  | none =>
    match r.2 with
    | .device a :: _ => (r.1.deviceStore c a bs, .ok [])
    | .far pkg a :: _ => (r.1, .remote pkg a)
    | ps =>
      match r.1.ownPieces c ps with
      | (s, .ok _) => (s.storePieces c ps bs, .ok [])
      | (s, .waits) => (s, .waits)
      | (s, _) => (s.coreAbort c, .ok [])

/-- Fabric engine number of a user core, R393. -/
def coreEngine (c : Nat) : Nat := 640 + c

/-- Issue a core's remote request, in ordering class 0 (R335). -/
def State.coreIssue (s : State) (c op pkg a n : Nat) (data : List Byte) (why : OutFor) : State :=
  s.fabIssue (coreEngine c) (s.corePart c) 0 op pkg a n data why

/-! ### The frame of an instruction -/

/-- What executing an instruction comes to: done, with the next instruction or a jump; a trap; it waits, having changed nothing that
the thread sees; or it waits for another package. -/
inductive CRes where
  | done (s : State)
  | jump (s : State) (pc : Nat)
  | trap (s : State) (cause detail val : Nat)
  | trapNext (s : State) (cause detail val : Nat)
  | waits (s : State)
  | stall (s : State) (va : Nat)
  deriving DecidableEq, Repr

/-- Fetch at pc: translation and poison (causes 0x01 and 0x02); which word lies there the command says. -/
def State.coreFetch (s : State) (c : Nat) : State × MRes :=
  let va := (s.core c).pc.toNat
  match s.translate c va .fetch (s.userMode c) with
  | (s, .fault d) => (s, .trap 0x01 d va)
  | (s, .ok g) =>
    match s.dest g with
    | .invalid => (s, .trap 0x01 1 va)
    | .remote pkg a => if s.keyOk (s.corePart c) pkg a 1 then (s, .ok []) else (s, .trap 0x01 1 va)
    | .here a =>
      if a < hbmEnd then
        match s.coreRead 0 c (a / 64) with
        | (s, .poison) => (s, .trap 0x02 0 va)
        | (s, .waits) => (s, .waits)
        | (s, .ok _) => (s, .ok [])
      else (s, .ok [])

/-- Set the pc. -/
def State.setPc (s : State) (c v : Nat) : State := s.modCore c fun k => { k with pc := BitVec.ofNat 64 v }

/-- Bring an instruction's outcome into the state. -/
def CRes.finish (r : CRes) (c word : Nat) : State :=
  match r with
  | .done s => s.setPc c ((s.core c).pc.toNat + 4)
  | .jump s t => s.setPc c t
  | .trap s cause detail val => s.syncTrap c cause detail val word (s.core c).pc.toNat
  | .trapNext s cause detail val => s.syncTrap c cause detail val word ((s.core c).pc.toNat + 4)
  | .waits s => s
  | .stall s va =>
    s.modCore c fun k => { k with stalled := true, stallVa := BitVec.ofNat 64 va, stallWord := BitVec.ofNat 32 word }

/-- One instruction of core `c` with word `word`: a pending enabled interrupt is taken first (R326), then it is fetched and
executed. -/
def State.coreStep (s : State) (c word : Nat) (body : State → CRes) : State :=
  if !(s.coreRuns c) then s
  else
    match (s.core c).irq with
    | some i => s.takeIrq c i
    | none =>
      match s.coreFetch c with
      | (s, .trap cause detail val) => (s.syncTrap c cause detail val (s.free1 % 2 ^ 32) (s.core c).pc.toNat).freed
      | (s, .waits) => s
      | (s, _) => (body s).finish c word

/-! ### Instruction words, R337 -/

def wordR (op rd ra rb fn : Nat) : Nat := op * 2 ^ 26 + rd * 2 ^ 20 + ra * 2 ^ 14 + rb * 2 ^ 8 + fn
def wordI (op rd ra imm : Nat) : Nat := op * 2 ^ 26 + rd * 2 ^ 20 + ra * 2 ^ 14 + imm
def wordM (op rd ra kind off : Nat) : Nat := op * 2 ^ 26 + rd * 2 ^ 20 + ra * 2 ^ 14 + kind * 2 ^ 11 + off
def wordU (op rd imm : Nat) : Nat := op * 2 ^ 26 + rd * 2 ^ 20 + imm
def wordJ (op off : Nat) : Nat := op * 2 ^ 26 + off
def wordS (op rd sr fn : Nat) : Nat := op * 2 ^ 26 + rd * 2 ^ 20 + sr * 2 ^ 8 + fn

/-- ILLEGAL_INSN. -/
def illegal (s : State) (word : Nat) : CRes := .trap s 0x03 0 word

end Sys2Proof.Machine
end

