-- ==== Sys2Proof/Machine/CoreInt.lean ====
section
/-! DEFINITION. Cusojo integer instructions (R336 to R338): majors 0x02 to 0x0A, branches, calls. -/

namespace Sys2Proof.Machine

/-! ### Register-register instructions, majors 0x02 to 0x04 -/

/-- A 32-bit result is sign-extended (R336). -/
def sext32 (x : Nat) : Nat := wrapInt 64 (sint 32 x)

/-- One instruction of majors 0x02 to 0x04: `f` answers the result and flags for a width, or none when a checked variant traps.
`unary` instructions do not name rb. -/
def State.coreAlu (s : State) (c : Nat) (op fn : Nat) (rd ra rb : BitVec 6) (w32 unary : Bool)
    (f : Nat → Nat → Nat → Option IRes) : State :=
  let word := wordR op rd.toNat ra.toNat rb.toNat (fn + 128 * b2n w32)
  s.coreStep c word fun s =>
    if !(regOk rd.toNat && regOk ra.toNat && (unary || regOk rb.toNat)) then illegal s word
    else
      let k := s.core c
      let w := if w32 then 32 else 64
      match f w (k.reg ra.toNat % 2 ^ w) (k.reg rb.toNat % 2 ^ w) with
      | none => .trap s 0x0C 0 word
      | some (r, g) => .done (s.setCore c ((k.setReg rd.toNat (if w32 then sext32 r else r)).orFlag g))

def execAdd (c : Nat) (rd ra rb : BitVec 6) (w32 : Bool) (s : State) : Res :=
  .next (s.coreAlu c 2 0 rd ra rb w32 false fun w a b => some (iAdd w true a b))
def execAddu (c : Nat) (rd ra rb : BitVec 6) (w32 : Bool) (s : State) : Res :=
  .next (s.coreAlu c 2 1 rd ra rb w32 false fun w a b => some (iAdd w false a b))
def execSub (c : Nat) (rd ra rb : BitVec 6) (w32 : Bool) (s : State) : Res :=
  .next (s.coreAlu c 2 2 rd ra rb w32 false fun w a b => some (iSub w true a b))
def execSubu (c : Nat) (rd ra rb : BitVec 6) (w32 : Bool) (s : State) : Res :=
  .next (s.coreAlu c 2 3 rd ra rb w32 false fun w a b => some (iSub w false a b))
def execAnd (c : Nat) (rd ra rb : BitVec 6) (w32 : Bool) (s : State) : Res :=
  .next (s.coreAlu c 2 4 rd ra rb w32 false fun _ a b => some (iAnd a b))
def execOr (c : Nat) (rd ra rb : BitVec 6) (w32 : Bool) (s : State) : Res :=
  .next (s.coreAlu c 2 5 rd ra rb w32 false fun _ a b => some (iOr a b))
def execXor (c : Nat) (rd ra rb : BitVec 6) (w32 : Bool) (s : State) : Res :=
  .next (s.coreAlu c 2 6 rd ra rb w32 false fun _ a b => some (iXor a b))

/-- 1 when a is less than b. -/
def iSlt (w : Nat) (sg : Bool) (a b : Nat) : IRes := (b2n (decide (ival w sg a < ival w sg b)), 0)

def execSlt (c : Nat) (rd ra rb : BitVec 6) (w32 : Bool) (s : State) : Res :=
  .next (s.coreAlu c 2 7 rd ra rb w32 false fun w a b => some (iSlt w true a b))
def execSltu (c : Nat) (rd ra rb : BitVec 6) (w32 : Bool) (s : State) : Res :=
  .next (s.coreAlu c 2 8 rd ra rb w32 false fun w a b => some (iSlt w false a b))
def execSadd (c : Nat) (rd ra rb : BitVec 6) (w32 : Bool) (s : State) : Res :=
  .next (s.coreAlu c 2 9 rd ra rb w32 false fun w a b => some (iSatAdd w true a b))
def execSsub (c : Nat) (rd ra rb : BitVec 6) (w32 : Bool) (s : State) : Res :=
  .next (s.coreAlu c 2 10 rd ra rb w32 false fun w a b => some (iSatSub w true a b))
def execSaddu (c : Nat) (rd ra rb : BitVec 6) (w32 : Bool) (s : State) : Res :=
  .next (s.coreAlu c 2 11 rd ra rb w32 false fun w a b => some (iSatAdd w false a b))
def execSsubu (c : Nat) (rd ra rb : BitVec 6) (w32 : Bool) (s : State) : Res :=
  .next (s.coreAlu c 2 12 rd ra rb w32 false fun w a b => some (iSatSub w false a b))
def execNeg (c : Nat) (rd ra rb : BitVec 6) (w32 : Bool) (s : State) : Res :=
  .next (s.coreAlu c 2 13 rd ra rb w32 true fun w a _ => some (iNeg w true a))
def execAbs (c : Nat) (rd ra rb : BitVec 6) (w32 : Bool) (s : State) : Res :=
  .next (s.coreAlu c 2 14 rd ra rb w32 true fun w a _ => some (iAbs w true a))
def execCneg (c : Nat) (rd ra rb : BitVec 6) (w32 : Bool) (s : State) : Res :=
  .next (s.coreAlu c 2 15 rd ra rb w32 true fun w a _ => checked (iNeg w true a))
def execCabs (c : Nat) (rd ra rb : BitVec 6) (w32 : Bool) (s : State) : Res :=
  .next (s.coreAlu c 2 16 rd ra rb w32 true fun w a _ => checked (iAbs w true a))
def execMin (c : Nat) (rd ra rb : BitVec 6) (w32 : Bool) (s : State) : Res :=
  .next (s.coreAlu c 2 17 rd ra rb w32 false fun w a b => some (iMin w true a b))
def execMax (c : Nat) (rd ra rb : BitVec 6) (w32 : Bool) (s : State) : Res :=
  .next (s.coreAlu c 2 18 rd ra rb w32 false fun w a b => some (iMax w true a b))
def execMinu (c : Nat) (rd ra rb : BitVec 6) (w32 : Bool) (s : State) : Res :=
  .next (s.coreAlu c 2 19 rd ra rb w32 false fun w a b => some (iMin w false a b))
def execMaxu (c : Nat) (rd ra rb : BitVec 6) (w32 : Bool) (s : State) : Res :=
  .next (s.coreAlu c 2 20 rd ra rb w32 false fun w a b => some (iMax w false a b))

def execSll (c : Nat) (rd ra rb : BitVec 6) (w32 : Bool) (s : State) : Res :=
  .next (s.coreAlu c 3 0 rd ra rb w32 false fun w a b => some (iShl w a b))
def execSrl (c : Nat) (rd ra rb : BitVec 6) (w32 : Bool) (s : State) : Res :=
  .next (s.coreAlu c 3 1 rd ra rb w32 false fun w a b => some (iShr w a b))
def execSra (c : Nat) (rd ra rb : BitVec 6) (w32 : Bool) (s : State) : Res :=
  .next (s.coreAlu c 3 2 rd ra rb w32 false fun w a b => some (iSar w a b))
def execRol (c : Nat) (rd ra rb : BitVec 6) (w32 : Bool) (s : State) : Res :=
  .next (s.coreAlu c 3 3 rd ra rb w32 false fun w a b => some (iRol w a b))
def execRor (c : Nat) (rd ra rb : BitVec 6) (w32 : Bool) (s : State) : Res :=
  .next (s.coreAlu c 3 4 rd ra rb w32 false fun w a b => some (iRor w a b))

def execMul (c : Nat) (rd ra rb : BitVec 6) (w32 : Bool) (s : State) : Res :=
  .next (s.coreAlu c 4 0 rd ra rb w32 false fun w a b => some (iMulLow w true a b))
def execMulh (c : Nat) (rd ra rb : BitVec 6) (w32 : Bool) (s : State) : Res :=
  .next (s.coreAlu c 4 1 rd ra rb w32 false fun w a b => some (iMulHigh w true a b))
def execMulhu (c : Nat) (rd ra rb : BitVec 6) (w32 : Bool) (s : State) : Res :=
  .next (s.coreAlu c 4 2 rd ra rb w32 false fun w a b => some (iMulHigh w false a b))
def execDiv (c : Nat) (rd ra rb : BitVec 6) (w32 : Bool) (s : State) : Res :=
  .next (s.coreAlu c 4 3 rd ra rb w32 false fun w a b => some (iDiv w true a b))
def execDivu (c : Nat) (rd ra rb : BitVec 6) (w32 : Bool) (s : State) : Res :=
  .next (s.coreAlu c 4 4 rd ra rb w32 false fun w a b => some (iDiv w false a b))
def execRem (c : Nat) (rd ra rb : BitVec 6) (w32 : Bool) (s : State) : Res :=
  .next (s.coreAlu c 4 5 rd ra rb w32 false fun w a b => some (iRem w true a b))
def execRemu (c : Nat) (rd ra rb : BitVec 6) (w32 : Bool) (s : State) : Res :=
  .next (s.coreAlu c 4 6 rd ra rb w32 false fun w a b => some (iRem w false a b))
def execCdiv (c : Nat) (rd ra rb : BitVec 6) (w32 : Bool) (s : State) : Res :=
  .next (s.coreAlu c 4 7 rd ra rb w32 false fun w a b => checked (iDiv w true a b))
def execCdivu (c : Nat) (rd ra rb : BitVec 6) (w32 : Bool) (s : State) : Res :=
  .next (s.coreAlu c 4 8 rd ra rb w32 false fun w a b => checked (iDiv w false a b))
def execCrem (c : Nat) (rd ra rb : BitVec 6) (w32 : Bool) (s : State) : Res :=
  .next (s.coreAlu c 4 9 rd ra rb w32 false fun w a b => checked (iRem w true a b))
def execCremu (c : Nat) (rd ra rb : BitVec 6) (w32 : Bool) (s : State) : Res :=
  .next (s.coreAlu c 4 10 rd ra rb w32 false fun w a b => checked (iRem w false a b))

/-! ### Immediates, majors 0x05 to 0x0A -/

/-- A signed immediate as a 64-bit pattern. -/
def immOf (w : Nat) (x : Nat) : Nat := wrapInt 64 (sint w x)

def State.coreImm (s : State) (c op : Nat) (rd ra : BitVec 6) (imm : BitVec 14) (f : Nat → Nat → IRes) : State :=
  let word := wordI op rd.toNat ra.toNat imm.toNat
  s.coreStep c word fun s =>
    if !(regOk rd.toNat && regOk ra.toNat) then illegal s word
    else
      let k := s.core c
      let r := f (k.reg ra.toNat) (immOf 14 imm.toNat)
      .done (s.setCore c ((k.setReg rd.toNat r.1).orFlag r.2))

def execAddi (c : Nat) (rd ra : BitVec 6) (imm : BitVec 14) (s : State) : Res :=
  .next (s.coreImm c 5 rd ra imm (iAdd 64 true))
def execAndi (c : Nat) (rd ra : BitVec 6) (imm : BitVec 14) (s : State) : Res := .next (s.coreImm c 6 rd ra imm iAnd)
def execOri (c : Nat) (rd ra : BitVec 6) (imm : BitVec 14) (s : State) : Res := .next (s.coreImm c 7 rd ra imm iOr)
def execXori (c : Nat) (rd ra : BitVec 6) (imm : BitVec 14) (s : State) : Res := .next (s.coreImm c 8 rd ra imm iXor)

def State.coreUpper (s : State) (c op : Nat) (rd : BitVec 6) (imm : BitVec 20) (f : Cpu → Nat → Nat) : State :=
  let word := wordU op rd.toNat imm.toNat
  s.coreStep c word fun s =>
    if !(regOk rd.toNat) then illegal s word
    else
      let k := s.core c
      .done (s.setCore c (k.setReg rd.toNat (f k (immOf 32 (imm.toNat * 4096)))))

/-- LUI: rd := imm20 shifted left by 12, a signed value (R337). -/
def execLui (c : Nat) (rd : BitVec 6) (imm : BitVec 20) (s : State) : Res := .next (s.coreUpper c 9 rd imm fun _ v => v)
/-- AUIPC: rd := PC plus that value. -/
def execAuipc (c : Nat) (rd : BitVec 6) (imm : BitVec 20) (s : State) : Res :=
  .next (s.coreUpper c 10 rd imm fun k v => k.pc.toNat + v)

/-! ### Branches and calls, majors 0x0F to 0x11 -/

/-- The conditions of a branch, R338; codes 6 and 7 are not listed. -/
def branchCond (cond a b : Nat) : Option Bool :=
  match cond with
  | 0 => some (a == b)
  | 1 => some (a != b)
  | 2 => some (decide (sint 64 a < sint 64 b))
  | 3 => some (decide (sint 64 b ≤ sint 64 a))
  | 4 => some (decide (a < b))
  | 5 => some (decide (b ≤ a))
  | _ => none

/-- PC plus a signed offset of `w` bits, times 4. The base is the instruction's own address (notes/assumptions 35). -/
def Cpu.target (k : Cpu) (w off : Nat) : Nat := wrapInt 64 ((k.pc.toNat : Int) + 4 * sint w off)

def execBranch (c : Nat) (ra rb : BitVec 6) (cond : BitVec 3) (off : BitVec 11) (s : State) : Res :=
  let word := wordM 0x0F ra.toNat rb.toNat cond.toNat off.toNat
  .next (s.coreStep c word fun s =>
    let k := s.core c
    if !(regOk ra.toNat && regOk rb.toNat) then illegal s word
    else
      match branchCond cond.toNat (k.reg ra.toNat) (k.reg rb.toNat) with
      | none => illegal s word
      | some true => .jump s (k.target 11 off.toNat)
      | some false => .done s)

/-- CALL: g15 := PC + 4. -/
def execCall (c : Nat) (off : BitVec 26) (s : State) : Res :=
  .next (s.coreStep c (wordJ 0x10 off.toNat) fun s =>
    let k := s.core c
    .jump (s.setCore c (k.setReg 15 (k.pc.toNat + 4))) (k.target 26 off.toNat))

/-- JMPL: rd := PC + 4, PC := ra + imm14; a target that is not a multiple of 4 is MISALIGNED. -/
def execJmpl (c : Nat) (rd ra : BitVec 6) (imm : BitVec 14) (s : State) : Res :=
  let word := wordI 0x11 rd.toNat ra.toNat imm.toNat
  .next (s.coreStep c word fun s =>
    let k := s.core c
    if !(regOk rd.toNat && regOk ra.toNat) then illegal s word
    else
      let t := (k.reg ra.toNat + immOf 14 imm.toNat) % 2 ^ 64
      if t % 4 != 0 then .trap s 0x09 0 t
      else .jump (s.setCore c (k.setReg rd.toNat (k.pc.toNat + 4))) t)

end Sys2Proof.Machine
end

