-- ==== Sys2Proof/Machine/CoreWin.lean ====
section
/-! DEFINITION. Register windows and the spill engine (R316 to R321). -/

namespace Sys2Proof.Machine

/-! ### The spill engine, R318 -/

/-- The window of the oldest resident frame. -/
def Cpu.oldest (k : Cpu) : Nat := (k.wsel + 11 - (k.resident - 1) % 11) % 11

/-- p0 to p7 and n0 to n7 of a window, as a spill record holds them. -/
def Cpu.frame (k : Cpu) (w : Nat) : List Byte :=
  ((below 8).flatMap fun i => leBytes 8 (sget 0 k.win (16 * winPrev w + 8 + i)).toNat)
    ++ (below 8).flatMap fun i => leBytes 8 (sget 0 k.win (16 * w + i)).toNat

/-- Put a spill record back into a window. -/
def Cpu.setFrame (k : Cpu) (w : Nat) (bs : List Byte) : Cpu :=
  let word := fun (i : Nat) => BitVec.ofNat 64 (leNat ((bs.drop (8 * i)).take 8))
  { k with
    win := (below 8).foldl
      (fun m i => sput 0 (sput 0 m (16 * winPrev w + 8 + i) (word i)) (16 * w + i) (word (8 + i))) k.win }

/-- Outcome of a spill or fill: done, not possible, faulted (detail, address), or its line is held back at its home. -/
inductive Spill where
  | done
  | none
  | fault (detail val : Nat)
  | waits
  deriving DecidableEq, Repr

/-- A trap of the engine's access as SPILL_FAULT reports it: a page fault's detail, or 5 for poison (R320). -/
def spillFault (cause detail val : Nat) : Spill := .fault (if cause = 0x0A then detail else 5) val

/-- The first poisoned line that a store of the engine meets. -/
def State.spillPoison (s : State) (c : Nat) : List Place → Option Nat
  | [] => none
  | .cached va a _ :: ps => if (s.peekLine (a / 64)).isNone then some va else s.spillPoison c ps
  | _ :: ps => s.spillPoison c ps

/-- Spill the oldest resident frame to SPPTR (R318), as supervisor. A record that lies in another package is not written, as at an
unpopulated address (notes/assumptions 36). -/
def State.spillOne (s : State) (c : Nat) : State × Spill :=
  let k := s.core c
  let a := k.spptr.toNat
  if k.resident ≤ 1 then (s, .none)
  else if k.splimit.toNat < a + 128 then (s, .none)
  else
    let r := s.placesOf c .write false (spans64 4 a 128)
    match r.1.accessTrap c 2 a 128 false r.2 with
    | some (.trap cause d v) => (r.1, spillFault cause d v)
    | _ =>
      match r.1.spillPoison c r.2 with
      | some v => (r.1, .fault 5 v)
      | none =>
        match r.1.coreStore c a (k.frame k.oldest) false false with
        | (s, .waits) => (s, .waits)
        | (s, .remote _ _) =>
          (s.modCore c fun k => { k with unpopSeen := true, resident := k.resident - 1, spptr := k.spptr + 128 }, .done)
        | (s, _) => (s.modCore c fun k => { k with resident := k.resident - 1, spptr := k.spptr + 128 }, .done)

/-- Fill the window below the oldest resident frame from SPPTR - 128. -/
def State.fillOne (s : State) (c : Nat) : State × Spill :=
  let k := s.core c
  if k.spptr.toNat ≤ k.spbase.toNat || 10 ≤ k.resident then (s, .none)
  else
    let a := k.spptr.toNat - 128
    let put := fun (s : State) (bs : List Byte) =>
      s.modCore c fun k =>
        { (k.setFrame ((k.wsel + 11 - k.resident % 11) % 11) bs) with resident := k.resident + 1, spptr := k.spptr - 128 }
    match s.coreLoad c a 128 false false with
    | (s, .trap cause d v) => (s, spillFault cause d v)
    | (s, .waits) => (s, .waits)
    | (s, .remote _ _) => (put (s.coreUnpop c) (zeros 128), .done)
    | (s, .ok bs) => (put s bs, .done)

/-- The engine has work that it can do: R319. -/
def Cpu.engineBusy (k : Cpu) : Bool :=
  (k.hi < k.resident && k.spptr.toNat + 128 ≤ k.splimit.toNat) || (k.resident < k.lo && k.spbase.toNat < k.spptr.toNat)

/-- The core is alive enough for its engine to work: started, not gated, not double-trapped. -/
def State.engineRuns (s : State) (c : Nat) : Bool :=
  s.up && c < 96 && (s.core c).started && !(s.core c).gated && !(s.core c).debug

/-- SPILL: the engine spills one frame in the background while resident exceeds hi; a spill that fails raises nothing. -/
def execSpill (c : Nat) (s : State) : Res :=
  if s.engineRuns c && (s.core c).hi < (s.core c).resident then .next (s.spillOne c).1 else .next s

/-- FILL: the engine fills one frame in the background while resident is below lo. -/
def execFill (c : Nat) (s : State) : Res :=
  if s.engineRuns c && (s.core c).resident < (s.core c).lo then .next (s.fillOne c).1 else .next s

/-! ### ENTER, LEAVE, LEAVE.J, FSPILL -/

/-- The trap of an instruction whose window move needs the engine (R320); XVAL is SPPTR, or the faulting address. -/
def spillResult (r : State × Spill) (c cause : Nat) (go : State → CRes) : CRes :=
  match r.2 with
  | .done => go r.1
  | .none => .trap r.1 cause 0 (r.1.core c).spptr.toNat
  | .fault d v => .trap r.1 0x08 d v
  | .waits => .waits r.1

/-- Select the next window, with g15 in its n7. -/
def Cpu.enter (k : Cpu) : Cpu :=
  let w := winNext k.wsel
  { k with wsel := w, resident := k.resident + 1, win := sput 0 k.win (16 * w + 7) (BitVec.ofNat 64 (k.reg 15)) }

/-- Select the previous window. -/
def Cpu.leave (k : Cpu) : Cpu := { k with wsel := winPrev k.wsel, resident := k.resident - 1 }

/-- The frame of the window instructions: illegal while a trap is handled (R321). -/
def State.coreWindow (s : State) (c fn : Nat) (body : State → CRes) : State :=
  let word := wordR 1 0 0 0 fn
  s.coreStep c word fun s => if (s.core c).xact then illegal s word else body s

/-- ENTER. -/
def execEnter (c : Nat) (s : State) : Res :=
  .next (s.coreWindow c 0 fun s =>
    let go := fun (s : State) => CRes.done (s.modCore c Cpu.enter)
    if (s.core c).resident < 10 then go s else spillResult (s.spillOne c) c 0x06 go)

/-- What LEAVE and LEAVE.J do once the previous frame is in the file. -/
def State.leaveBy (s : State) (c : Nat) (go : State → CRes) : CRes :=
  if 1 < (s.core c).resident then go s else spillResult (s.fillOne c) c 0x07 go

/-- LEAVE. -/
def execLeave (c : Nat) (s : State) : Res :=
  .next (s.coreWindow c 1 fun s => s.leaveBy c fun s => .done (s.modCore c Cpu.leave))

/-- LEAVE.J: continues at n7 of the window being left. -/
def execLeaveJ (c : Nat) (s : State) : Res :=
  .next (s.coreWindow c 2 fun s => s.leaveBy c fun s =>
    let t := (s.core c).reg 31
    if t % 4 != 0 then .trap s 0x09 0 t else .jump (s.modCore c Cpu.leave) t)

/-- Spill until one frame is left; `fuel` spills are enough. -/
def spillAll : Nat → State → Nat → CRes
  | 0, s, _ => .done s
  | fuel + 1, s, c =>
    if (s.core c).resident ≤ 1 then .done s else spillResult (s.spillOne c) c 0x06 fun s => spillAll fuel s c

/-- FSPILL: every resident frame but the current one. -/
def execFspill (c : Nat) (s : State) : Res := .next (s.coreWindow c 3 fun s => spillAll 10 s c)

end Sys2Proof.Machine
end

