-- ==== Sys2Proof/Machine/CoreSys.lean ====
section
/-! DEFINITION. Cusojo loads, stores, atomics and fences (R334, R335, R338), system registers (R323), SYSCALL, BRK, XRET, WFI, and the
events of a core: timer, interrupt entry, the steward monitor, external interrupts (R325 to R330). -/

namespace Sys2Proof.Machine

/-! ### Loads, major 0x0B -/

/-- Bytes of a load kind. -/
def loadSize (kind : Nat) : Nat :=
  match kind with
  | 0 => 1
  | 1 => 1
  | 2 => 2
  | 3 => 2
  | 4 => 4
  | 5 => 4
  | _ => 8

/-- The register value that a load of a kind gives. -/
def loadExt (kind v : Nat) : Nat :=
  match kind with
  | 0 => wrapInt 64 (sint 8 v)
  | 2 => wrapInt 64 (sint 16 v)
  | 4 => sext32 v
  | _ => v

/-- One load: base plus signed byte offset. A remote load holds the core until its response (R335). -/
def State.coreLoadInsn (s : State) (c kind : Nat) (rd ra : BitVec 6) (off : BitVec 11) : State :=
  let word := wordM 0x0B rd.toNat ra.toNat kind off.toNat
  s.coreStep c word fun s =>
    if !(regOk rd.toNat && regOk ra.toNat) then illegal s word
    else
      let va := ((s.core c).reg ra.toNat + immOf 11 off.toNat) % 2 ^ 64
      let n := loadSize kind
      match s.coreLoad c va n (kind == 7) (s.userMode c) with
      | (s, .ok bs) => .done (s.modCore c fun k => k.setReg rd.toNat (loadExt kind (leNat bs)))
      | (s, .trap a d v) => .trap s a d v
      | (s, .waits) => .waits s
      | (s, .remote pkg a) => .stall (s.coreIssue c 1 pkg a n [] (.core c rd.toNat kind)) va

def execLb (c : Nat) (rd ra : BitVec 6) (off : BitVec 11) (s : State) : Res := .next (s.coreLoadInsn c 0 rd ra off)
def execLbu (c : Nat) (rd ra : BitVec 6) (off : BitVec 11) (s : State) : Res := .next (s.coreLoadInsn c 1 rd ra off)
def execLh (c : Nat) (rd ra : BitVec 6) (off : BitVec 11) (s : State) : Res := .next (s.coreLoadInsn c 2 rd ra off)
def execLhu (c : Nat) (rd ra : BitVec 6) (off : BitVec 11) (s : State) : Res := .next (s.coreLoadInsn c 3 rd ra off)
def execLw (c : Nat) (rd ra : BitVec 6) (off : BitVec 11) (s : State) : Res := .next (s.coreLoadInsn c 4 rd ra off)
def execLwu (c : Nat) (rd ra : BitVec 6) (off : BitVec 11) (s : State) : Res := .next (s.coreLoadInsn c 5 rd ra off)
def execLd (c : Nat) (rd ra : BitVec 6) (off : BitVec 11) (s : State) : Res := .next (s.coreLoadInsn c 6 rd ra off)
def execLdAq (c : Nat) (rd ra : BitVec 6) (off : BitVec 11) (s : State) : Res := .next (s.coreLoadInsn c 7 rd ra off)

/-! ### Stores, major 0x0C -/

/-- Bytes of a store kind. -/
def storeSize (kind : Nat) : Nat :=
  match kind with
  | 0 => 1
  | 1 => 2
  | 2 => 4
  | 4 => 4
  | _ => 8

/-- One store; SW.RL and SD.RL are naturally aligned and wait for every earlier remote access (R334). -/
def State.coreStoreInsn (s : State) (c kind : Nat) (rd ra : BitVec 6) (off : BitVec 11) : State :=
  let word := wordM 0x0C rd.toNat ra.toNat kind off.toNat
  let rel := 4 ≤ kind
  s.coreStep c word fun s =>
    if !(regOk rd.toNat && regOk ra.toNat) then illegal s word
    else if rel && s.waitsFor (coreEngine c) then .waits s
    else
      let k := s.core c
      let va := (k.reg ra.toNat + immOf 11 off.toNat) % 2 ^ 64
      let bs := leBytes (storeSize kind) (k.reg rd.toNat)
      match s.coreStore c va bs rel (s.userMode c) with
      | (s, .ok _) => .done s
      | (s, .trap a d v) => .trap s a d v
      | (s, .waits) => .waits s
      | (s, .remote pkg a) => .done (s.coreIssue c 2 pkg a bs.length bs (.core c 0 8))

def execSb (c : Nat) (rd ra : BitVec 6) (off : BitVec 11) (s : State) : Res := .next (s.coreStoreInsn c 0 rd ra off)
def execSh (c : Nat) (rd ra : BitVec 6) (off : BitVec 11) (s : State) : Res := .next (s.coreStoreInsn c 1 rd ra off)
def execSw (c : Nat) (rd ra : BitVec 6) (off : BitVec 11) (s : State) : Res := .next (s.coreStoreInsn c 2 rd ra off)
def execSd (c : Nat) (rd ra : BitVec 6) (off : BitVec 11) (s : State) : Res := .next (s.coreStoreInsn c 3 rd ra off)
def execSwRl (c : Nat) (rd ra : BitVec 6) (off : BitVec 11) (s : State) : Res := .next (s.coreStoreInsn c 4 rd ra off)
def execSdRl (c : Nat) (rd ra : BitVec 6) (off : BitVec 11) (s : State) : Res := .next (s.coreStoreInsn c 5 rd ra off)

/-! ### Atomics, major 0x0D -/

/-- The value that an atomic stores: fn 0 add, 1 min, 2 max, 3 minu, 4 maxu, 5 swap, 6 compare-and-swap with `cmp`; none when nothing
is stored. -/
def atomicNew (fn w old x cmp : Nat) : Option Nat :=
  match fn with
  | 0 => some ((old + x) % 2 ^ w)
  | 1 => some (iMin w true old x).1
  | 2 => some (iMax w true old x).1
  | 3 => some (iMin w false old x).1
  | 4 => some (iMax w false old x).1
  | 5 => some x
  | _ => if old = cmp then some x else none

/-- Read, modify and write an aligned place: the old value. An atomic that meets a poisoned line is not performed, as a store, and
what rd receives the spec does not state. -/
def State.coreRmw (s : State) (c fn n va x cmp : Nat) : State × MRes :=
  let r := s.placesOf c .write (s.userMode c) [(va, n)]
  match r.1.accessTrap c (0x10 + fn) va n true r.2 with
  | some t => (r.1, t)
  | none =>
    match r.2 with
    | .cached _ a _ :: _ =>
      match r.1.coreOwn c (a / 64) with
      | (s, .waits) => (s, .waits)
      | (s, .poison) =>
        let s := s.coreAbort c
        (s.freed, .ok (leBytes n s.free1))
      | (s, .ok d) =>
        let old := ((leBytes 64 d.toNat).drop (a % 64)).take n
        match atomicNew fn (8 * n) (leNat old) x cmp with
        | some v => (s.coreWrite c (a / 64) (patchLine d (a % 64) (leBytes n v)), .ok old)
        | none => (s, .ok old)
    | .device a :: _ =>
      let q := r.1.deviceLoad c a n
      match atomicNew fn (8 * n) (leNat q.2) x cmp with
      | some v => (q.1.deviceStore c a (leBytes n v), .ok q.2)
      | none => (q.1, .ok q.2)
    | .far pkg a :: _ => (r.1, .remote pkg a)
    | _ => (r.1, .ok (zeros n))

/-- ATOMIC: fn [7] aq, [6] rl, [5] 64-bit, [4] 0, [3:0] operation. The 4-byte old value is sign-extended as LW's. -/
def execAtomic (c : Nat) (rd ra rb : BitVec 6) (fn : BitVec 8) (s : State) : Res :=
  let word := wordR 0x0D rd.toNat ra.toNat rb.toNat fn.toNat
  let op := bits fn.toNat 3 0
  let n := if bit fn.toNat 5 then 8 else 4
  .next (s.coreStep c word fun s =>
    if !(regOk rd.toNat && regOk ra.toNat && regOk rb.toNat) || bit fn.toNat 4 || 6 < op then illegal s word
    else if bit fn.toNat 6 && s.waitsFor (coreEngine c) then .waits s
    else
      let k := s.core c
      let x := k.reg rb.toNat % 2 ^ (8 * n)
      let cmp := k.reg rd.toNat % 2 ^ (8 * n)
      match s.coreRmw c op n (k.reg ra.toNat) x cmp with
      | (s, .ok bs) => .done (s.modCore c fun k => k.setReg rd.toNat (loadExt (if n = 8 then 6 else 4) (leNat bs)))
      | (s, .trap a d v) => .trap s a d v
      | (s, .waits) => .waits s
      | (s, .remote pkg a) =>
        let data := if op = 6 then leBytes n cmp ++ leBytes n x else leBytes n x
        .stall (s.coreIssue c (0x10 + op) pkg a n data (.core c rd.toNat (if n = 8 then 17 else 16))) (k.reg ra.toNat))

/-! ### Fences and TLBINV, major 0x0E -/

/-- FENCE.ACQ: loads complete before the core goes on. -/
def execFenceAcq (c : Nat) (s : State) : Res := .next (s.coreStep c (wordR 0x0E 0 0 0 0) fun s => .done s)

/-- FENCE.REL and FENCE.FULL wait for every outstanding remote access (R334, R400). -/
def State.coreFence (s : State) (c fn : Nat) : State :=
  s.coreStep c (wordR 0x0E 0 0 0 fn) fun s => if s.waitsFor (coreEngine c) then .waits s else .done s

def execFenceRel (c : Nat) (s : State) : Res := .next (s.coreFence c 1)
def execFenceFull (c : Nat) (s : State) : Res := .next (s.coreFence c 2)

/-- A cached translation that TLBINV by address and ASID drops. -/
def TlbEnt.names (t : TlbEnt) (va asid : Nat) : Bool :=
  t.vpn == va % 2 ^ 48 / 2 ^ (12 + 9 * t.level) && (t.asid == asid || bit t.leaf.toNat 5)

/-- TLBINV: by address (ra) and ASID (rb), or everything when ra is g0 (R333). -/
def execTlbinv (c : Nat) (ra rb : BitVec 6) (s : State) : Res :=
  let word := wordR 0x0E 0 ra.toNat rb.toNat 3
  .next (s.coreStep c word fun s =>
    if !(regOk ra.toNat && regOk rb.toNat) then illegal s word
    else
      let k := s.core c
      let va := k.reg ra.toNat
      let asid := k.reg rb.toNat % 2048
      .done (s.setCore c { k with tlb := if ra = 0 then [] else k.tlb.filter fun t => !(t.names va asid) }))

/-! ### System registers, R323 -/

/-- Least privilege for a read, and the value; none for an unlisted number. ICSEND, which has no read, reads 0. -/
def State.srRead (s : State) (c sr : Nat) : Option (Nat × Nat) :=
  let k := s.core c
  match sr with
  | 0x000 => some (0, k.stateWord)
  | 0x001 => some (0, k.flags.toNat % 128)
  | 0x002 => some (0, k.fpctl.toNat)
  | 0x003 => some (0, (s.time.refNs - k.startRef) * 16 / 5)
  | 0x004 => some (0, s.furrow)
  | 0x005 => some (0, s.time.ns)
  | 0x010 => some (1, k.xpc.toNat)
  | 0x011 => some (1, k.xstate.toNat)
  | 0x012 => some (1, k.xcause.toNat)
  | 0x013 => some (1, k.xval.toNat)
  | 0x014 => some (1, k.xbase.toNat)
  | 0x015 => some (1, k.ier.toNat)
  | 0x016 => some (1, k.ip.toNat)
  | 0x017 => some (1, k.fcmp.toNat)
  | 0x018 => some (1, 0)
  | 0x020 => some (1, k.ptroot.toNat)
  | 0x030 => some (1, k.spbase.toNat)
  | 0x031 => some (1, k.splimit.toNat)
  | 0x032 => some (1, k.spptr.toNat)
  | 0x033 => some (1, k.hi * 16 + k.lo)
  | _ => none

/-- MFSR. -/
def execMfsr (c : Nat) (rd : BitVec 6) (sr : BitVec 12) (s : State) : Res :=
  let word := wordS 0x12 rd.toNat sr.toNat 3
  .next (s.coreStep c word fun s =>
    if !(regOk rd.toNat) then illegal s word
    else
      match s.srRead c sr.toNat with
      | none => illegal s word
      | some (p, v) =>
        if (s.core c).priv.toNat < p then .trap s 0x04 0 word else .done (s.modCore c fun k => k.setReg rd.toNat v))

/-- What a write of XSTATE leaves: priv 2 and 3 are discarded on a user core (R322), and a window that is not there. -/
def Cpu.xstateNew (k : Cpu) (v : Nat) : Nat :=
  let old := k.xstate.toNat
  let priv := if 2 ≤ bits v 1 0 then bits old 1 0 else bits v 1 0
  let wsel := if 10 < bits v 11 8 then bits old 11 8 else bits v 11 8
  bits v 15 12 * 2 ^ 12 + wsel * 2 ^ 8 + bits v 4 2 * 4 + priv

/-- What a write of a system register comes to. -/
inductive SrRes where
  | unlisted
  | ignored
  | illegal
  | waits
  | ok (s : State)
  deriving DecidableEq, Repr

/-- A write, by a core that has the privilege. -/
def State.srWrite (s : State) (c sr v : Nat) : SrRes :=
  let k := s.core c
  let set := fun (k : Cpu) => SrRes.ok (s.setCore c k)
  let area := BitVec.ofNat 64 (v - v % 128)
  match sr with
  | 0x000 => set { k with tw := bit v 3, ie := bit v 2 }
  | 0x001 => set { k with flags := BitVec.ofNat 8 (v % 128) }
  | 0x002 => if v % 8 = 4 || 6 ≤ v % 8 then .illegal else set { k with fpctl := BitVec.ofNat 3 v }
  | 0x003 => .ignored
  | 0x004 => .ignored
  | 0x005 => .ignored
  | 0x010 => set { k with xpc := BitVec.ofNat 64 v }
  | 0x011 => set { k with xstate := BitVec.ofNat 64 (k.xstateNew v) }
  | 0x012 => set { k with xcause := BitVec.ofNat 64 (v % 2 ^ 16) }
  | 0x013 => set { k with xval := BitVec.ofNat 64 v }
  | 0x014 => set { k with xbase := BitVec.ofNat 64 (v - v % 2 ^ 13) }
  | 0x015 => set { k with ier := BitVec.ofNat 5 v }
  | 0x016 => .ignored
  | 0x017 =>
    let f := v % 2 ^ 48
    set { k with
      fcmp := BitVec.ofNat 48 f, ip := if s.furrow < f then BitVec.ofNat 5 (setBits k.ip.toNat 0 0 0) else k.ip }
  | 0x018 =>
    let t := v % 128
    if t < 96 && s.corePart t == s.corePart c then .ok (s.raiseIrq t 1 c) else .ignored
  | 0x020 => set { k with ptroot := BitVec.ofNat 64 v }
  | 0x030 => if k.engineBusy then .waits else set { k with spbase := area }
  | 0x031 => if k.engineBusy then .waits else set { k with splimit := area }
  | 0x032 => if k.engineBusy then .waits else set { k with spptr := area }
  | 0x033 =>
    let hi := bits v 7 4
    let lo := bits v 3 0
    if hi < 2 || 9 < hi || lo < 1 || hi - 1 < lo then .illegal else set { k with hi := hi, lo := lo }
  | _ => .unlisted

/-- Least privilege for a write: user for FLAGS and FPCTL, and for the registers that ignore writes. -/
def srWritePriv (sr : Nat) : Nat :=
  if sr = 1 ∨ sr = 2 ∨ sr = 3 ∨ sr = 4 ∨ sr = 5 ∨ sr = 0x16 then 0 else 1

/-- MTSR: the source register stands in the rd field. -/
def execMtsr (c : Nat) (rs : BitVec 6) (sr : BitVec 12) (s : State) : Res :=
  let word := wordS 0x12 rs.toNat sr.toNat 4
  .next (s.coreStep c word fun s =>
    if !(regOk rs.toNat) || (s.srRead c sr.toNat).isNone then illegal s word
    else if (s.core c).priv.toNat < srWritePriv sr.toNat then
      (match s.srWrite c sr.toNat ((s.core c).reg rs.toNat) with
       | .illegal => illegal s word
       | _ => .trap s 0x04 0 word)
    else
      match s.srWrite c sr.toNat ((s.core c).reg rs.toNat) with
      | .unlisted => illegal s word
      | .illegal => illegal s word
      | .ignored => .done s
      | .waits => .waits s
      | .ok s => .done s)

/-! ### SYSCALL, BRK, XRET, WFI -/

/-- SYSCALL: XVAL is the code, XPC the next instruction (R327). -/
def execSyscall (c : Nat) (code : BitVec 12) (s : State) : Res :=
  .next (s.coreStep c (wordS 0x12 0 code.toNat 0) fun s => .trapNext s 0x0D 0 code.toNat)

/-- BRK. -/
def execBrk (c : Nat) (s : State) : Res :=
  let word := wordS 0x12 0 0 1
  .next (s.coreStep c word fun s => .trap s 0x0E 0 word)

/-- XRET at xact 1 (R328); at xact 0 it is illegal. -/
def execXret (c : Nat) (s : State) : Res :=
  let word := wordS 0x12 0 0 2
  .next (s.coreStep c word fun s =>
    let k := s.core c
    let x := k.xstate.toNat
    if !k.xact then illegal s word
    else if k.xpc.toNat % 4 != 0 then .trap s 0x09 0 k.xpc.toNat
    else
      .jump (s.setCore c { k with priv := BitVec.ofNat 2 x, ie := bit x 2, tw := bit x 3, wsel := bits x 11 8, xact := false })
        k.xpc.toNat)

/-- WFI: waits until an interrupt is pending, enabled or not. -/
def execWfi (c : Nat) (s : State) : Res :=
  .next (s.coreStep c (wordS 0x12 0 0 5) fun s =>
    .done (s.modCore c fun k => { k with run := if k.ip = 0 then .wfi else k.run }))

/-! ### Events of a core -/

/-- FURROW_TIMER: FURROW has reached FCMP. -/
def execFurrowTimer (c : Nat) (s : State) : Res :=
  if s.up && c < 96 && (s.core c).started && (s.core c).fcmp.toNat ≤ s.furrow then .next (s.raiseIrq c 0 0) else .next s

/-- INTERRUPT_ENTRY: the lowest pending enabled interrupt is taken between two instructions. -/
def execInterruptEntry (c : Nat) (s : State) : Res :=
  if s.coreRuns c then
    match (s.core c).irq with
    | some i => .next (s.takeIrq c i)
    | none => .next s
  else .next s

/-- EXTERNAL_INTERRUPT. -/
def execExternalInterrupt (c : Nat) (source : W64) (s : State) : Res :=
  if s.up && c < 96 && (s.core c).started then .next (s.raiseIrq c 2 source.toNat) else .next s

/-- DOUBLE_TRAP_MONITOR (R330): the error record with sh0 to sh2, double_trap and state 2, CORE_HALTED at the partition's
running cores. -/
def execDoubleTrapMonitor (c : Nat) (s : State) : Res :=
  let k := s.core c
  if s.up && c < 96 && k.run = .frozen then
    let data := (below 3).flatMap fun i => leBytes 8 (sget 0 k.shadow i).toNat
    let s := s.setCore c { k with run := .doubleTrap }
    let s := s.errRecord { event := 9, cls := 5, sev := none, part := some (s.corePart c), loc := c, addr := 0, data := data }
    .next ((s.setFlag aCpuStatus 62).raisePart (s.corePart c) 3 c)
  else .next s

/-- CORE_START: CPU_CORE_CTL action start. -/
def execCoreStart (c : Nat) (s : State) : Res := if s.up && c < 96 then .next (s.coreStart c) else .next s

/-- CORE_HALT: CPU_CORE_CTL action halt. -/
def execCoreHalt (c : Nat) (s : State) : Res := if s.up && c < 96 then .next (s.coreHalt c) else .next s

end Sys2Proof.Machine
end

