-- ==== Sys2Proof/Machine/CoreFp.lean ====
section
/-! DEFINITION. Cusojo scalar floating point and the number types that converts of the core and of Twill share (R188 to R197, R336
to R338, R341, R348): majors 0x13 to 0x16. -/

namespace Sys2Proof.Machine

/-! ### Number types of converts, R338 and R348 -/

/-- A convert type: a float format, or an integer type by width and sign. -/
inductive NumTy where
  | flt (f : Fmt)
  | int (w : Nat) (signed : Bool)
  deriving DecidableEq, Repr

/-- The types by number; scalar converts use 0 to 7. -/
def numTy (n : Nat) : Option NumTy :=
  match n with
  | 0 => some (.flt fp64)
  | 1 => some (.flt fp32)
  | 2 => some (.flt fp16)
  | 3 => some (.flt bf16)
  | 4 => some (.int 32 true)
  | 5 => some (.int 32 false)
  | 6 => some (.int 64 true)
  | 7 => some (.int 64 false)
  | 8 => some (.int 8 true)
  | 9 => some (.int 8 false)
  | 10 => some (.int 16 true)
  | 11 => some (.int 16 false)
  | _ => none

def NumTy.width : NumTy → Nat
  | .flt f => f.width
  | .int w _ => w

def NumTy.isFlt : NumTy → Bool
  | .flt _ => true
  | .int _ _ => false

/-- One element converted (R193): the pattern in the destination's width, and the flags. -/
def convNum (src dst : NumTy) (mode : Nat) (wrap : Bool) (x : Nat) : Nat × Nat :=
  match src, dst with
  | .flt f, .flt g => convFF g mode 0 (fdecode f x)
  | .flt f, .int w sg => convFI w sg mode 0 (fdecode f x)
  | .int w sg, .flt g => convIF g mode 0 (ival w sg x)
  | .int w sg, .int v tg => if wrap then wrapKeep v tg (ival w sg x) else satInt v tg (ival w sg x)

/-- Rounding codes that a Cusojo or Twill instruction may name (R188): 0 to 3 and 5. -/
def rcOk (rc : Nat) : Bool := rc < 4 || rc == 5

/-! ### Scalar floating point -/

/-- An FP instruction with tw 0 (R325); an illegal one is ILLEGAL_INSN first, the lowest cause. -/
def State.coreFp (s : State) (c word : Nat) (ok : Bool) (body : State → CRes) : State :=
  s.coreStep c word fun s =>
    if !ok then illegal s word
    else if !(s.core c).tw then .trap s 0x05 0 word
    else body s

/-- One of the nine operations of major 0x13 in a format, rounding by a code; none for an unlisted function. -/
def fpOp (f : Fmt) (mode fn a b : Nat) : Option FRes :=
  match fn with
  | 0 => some (fadd f mode a b)
  | 1 => some (fsub f mode a b)
  | 2 => some (fmul f mode a b)
  | 3 => some (fdiv f mode a b)
  | 4 => some (fsqrt f mode a)
  | 5 => some (fmaxmin f true a b)
  | 6 => some (fmaxmin f false a b)
  | 7 => some (fabs f a)
  | 8 => some (fneg f a)
  | _ => none

/-- The operations with one operand do not name fb. -/
def fpUnary (fn : Nat) : Bool := fn == 4 || fn == 7 || fn == 8

/-- FP32 or FP64. -/
def fpFmt (single : Bool) : Fmt := if single then fp32 else fp64

/-- An operand register in a format. -/
def Cpu.fop (k : Cpu) (single : Bool) (n : Nat) : Nat := if single then k.freg n % 2 ^ 32 else k.freg n

/-- SCALAR_FP. -/
def execScalarFp (c : Nat) (fd fa fb : BitVec 6) (fn : BitVec 8) (s : State) : Res :=
  let word := wordR 0x13 fd.toNat fa.toNat fb.toNat fn.toNat
  let one := bit fn.toNat 7
  let g := fn.toNat % 128
  .next (s.coreFp c word (g < 9 && fd.toNat < 32 && fa.toNat < 32 && (fpUnary g || fb.toNat < 32)) fun s =>
    let k := s.core c
    match fpOp (fpFmt one) k.fpctl.toNat g (k.fop one fa.toNat) (k.fop one fb.toNat) with
    | some (r, e) => .done (s.setCore c ((k.setFreg fd.toNat r).orFlag e))
    | none => illegal s word)

/-- FUSED_MULTIPLY_ADD: fc stands in [7:2], the format in [1], negation of the product in [0]. -/
def execFusedMultiplyAdd (c : Nat) (fd fa fb fc : BitVec 6) (single neg : Bool) (s : State) : Res :=
  let word := wordR 0x14 fd.toNat fa.toNat fb.toNat (fc.toNat * 4 + 2 * b2n single + b2n neg)
  .next (s.coreFp c word (fd.toNat < 32 && fa.toNat < 32 && fb.toNat < 32 && fc.toNat < 32) fun s =>
    let k := s.core c
    let r := ffma (fpFmt single) k.fpctl.toNat neg (k.fop single fa.toNat) (k.fop single fb.toNat) (k.fop single fc.toNat)
    .done (s.setCore c ((k.setFreg fd.toNat r.1).orFlag r.2)))

/-- What an integer register holds after a convert: INT32 sign-extended, UINT32 zero-extended (R336). -/
def convExt (n v : Nat) : Nat := if n = 4 then sext32 v else v

/-- CONVERT: [13:10] source, [9:6] destination, [5:3] rounding code, [2] wrap, [1:0] zero. -/
def execConvert (c : Nat) (rd ra : BitVec 6) (src dst : BitVec 4) (rc : BitVec 3) (wrap : Bool) (low : BitVec 2) (s : State) :
    Res :=
  let word :=
    0x15 * 2 ^ 26 + rd.toNat * 2 ^ 20 + ra.toNat * 2 ^ 14 + src.toNat * 2 ^ 10 + dst.toNat * 2 ^ 6 + rc.toNat * 8
      + 4 * b2n wrap + low.toNat
  let regs := (if src.toNat < 4 then ra.toNat < 32 else regOk ra.toNat) && (if dst.toNat < 4 then rd.toNat < 32 else regOk rd.toNat)
  .next (s.coreFp c word (src.toNat < 8 && dst.toNat < 8 && rcOk rc.toNat && low = 0 && regs) fun s =>
    let k := s.core c
    match numTy src.toNat, numTy dst.toNat with
    | some t, some u =>
      let x := (if t.isFlt then k.freg ra.toNat else k.reg ra.toNat) % 2 ^ t.width
      let r := convNum t u rc.toNat wrap x
      let k' := if u.isFlt then k.setFreg rd.toNat r.1 else k.setReg rd.toNat (convExt dst.toNat r.1)
      .done (s.setCore c (k'.orFlag r.2))
    | _, _ => illegal s word)

/-- FP_COMPARE: fn [6:0] 0 eq, 1 lt, 2 le, 3 unordered (R197). -/
def execFpCompare (c : Nat) (rd fa fb : BitVec 6) (fn : BitVec 8) (s : State) : Res :=
  let word := wordR 0x16 rd.toNat fa.toNat fb.toNat fn.toNat
  let one := bit fn.toNat 7
  let g := fn.toNat % 128
  let cond := if g = 0 then 0 else if g = 1 then 2 else if g = 2 then 3 else 6
  .next (s.coreFp c word (g < 4 && regOk rd.toNat && fa.toNat < 32 && fb.toNat < 32) fun s =>
    let k := s.core c
    let r := fcompare (fpFmt one) cond (k.fop one fa.toNat) (k.fop one fb.toNat)
    .done (s.setCore c ((k.setReg rd.toNat (b2n r.1)).orFlag r.2)))

end Sys2Proof.Machine
end

