-- ==== Sys2Proof/Machine/CoreCache.lean ====
section
/-! DEFINITION. Cache maintenance by cores (R380, R381, R384): major 0x0E, functions 0x10 to 0x1A. -/

namespace Sys2Proof.Machine

/-- A by-address operation on the line containing x[ra]: supervisor only where `sup`; translated as a load (`use` read) or a store
would be; without effect on uncached and unpopulated addresses. -/
def State.coreByAddr (s : State) (c fn : Nat) (ra : BitVec 6) (sup : Bool) (use : Use) (act : State → Nat → State) : State :=
  let word := wordR 0x0E 0 ra.toNat 0 fn
  s.coreStep c word fun s =>
    if !(regOk ra.toNat) then illegal s word
    else if sup && s.userMode c then .trap s 0x04 0 word
    else
      let va := (s.core c).reg ra.toNat
      match s.translate c va use (s.userMode c) with
      | (s, .fault d) => .trap s 0x0A d va
      | (s, .ok g) =>
        match s.dest g with
        | .here a =>
          if a < hbmEnd then
            (match s.maintHeld (a / 64) with
             | (s, true) => .waits s
             | (s, false) => .done (act s (a / 64)))
          else .done s
        | _ => .done s

/-- CLEAN.VA: dirty copies to the system cache, copies kept clean. -/
def execCleanVa (c : Nat) (ra : BitVec 6) (s : State) : Res :=
  .next (s.coreByAddr c 0x10 ra false .read fun s l => s.cleanLine l)

/-- INV.VA: all copies discarded, the system cache's among them, dirty data lost (notes/assumptions 37). -/
def execInvVa (c : Nat) (ra : BitVec 6) (s : State) : Res :=
  .next (s.coreByAddr c 0x11 ra true .write fun s l => (s.discardLine l).discardSc l)

/-- CLINV.VA. -/
def execClinvVa (c : Nat) (ra : BitVec 6) (s : State) : Res :=
  .next (s.coreByAddr c 0x12 ra false .read fun s l => (s.cleanLine l).discardLine l)

/-- ZERO.VA. -/
def execZeroVa (c : Nat) (ra : BitVec 6) (s : State) : Res :=
  .next (s.coreByAddr c 0x13 ra false .write fun s l => s.zeroOwn c l)

/-- INVZERO.VA. -/
def execInvzeroVa (c : Nat) (ra : BitVec 6) (s : State) : Res :=
  .next (s.coreByAddr c 0x14 ra true .write fun s l => s.zeroHome l)

/-- CLEAN.VA.MEM. -/
def execCleanVaMem (c : Nat) (ra : BitVec 6) (s : State) : Res :=
  .next (s.coreByAddr c 0x15 ra false .read fun s l => (s.cleanLine l).flushSc l)

/-- CLINV.VA.MEM. -/
def execClinvVaMem (c : Nat) (ra : BitVec 6) (s : State) : Res :=
  .next (s.coreByAddr c 0x16 ra false .read fun s l => (((s.cleanLine l).flushSc l).discardLine l).discardSc l)

/-- A window operation starts: it ends with WINDOW_OPERATION_DONE. A window that is not in use names no range. -/
def State.winStart (s : State) (w : Nat) (acquire : Bool) : State :=
  if s.flag (aCacheWinBase w) 0 then { s with cache := { s.cache with wins := s.cache.wins ++ [(w, acquire)] } } else s

/-- WIN: release when rb is g0, else acquire. -/
def execWin (c : Nat) (ra rb : BitVec 6) (s : State) : Res :=
  let word := wordR 0x0E 0 ra.toNat rb.toNat 0x17
  .next (s.coreStep c word fun s =>
    if !(regOk ra.toNat && regOk rb.toNat) then illegal s word
    else if s.userMode c then .trap s 0x04 0 word
    else .done (s.winStart ((s.core c).reg ra.toNat % 8) (rb != 0)))

/-- The entry that a set/way operand names for core `c`; none when a value is out of range for the level. -/
def swKey (c x : Nat) : Option Nat :=
  let way := x % 32
  let set := bits x 53 32
  let place := fun (level inst : Nat) => if set < levelSets level && way < levelWays level then some (lineKey level inst set way) else none
  match bits x 63 60 with
  | 0 => place 1 c
  | 1 => place 0 c
  | 2 => place 2 c
  | 3 => place 3 (c / 8)
  | 4 => if bits x 59 54 < 48 then place 4 (bits x 59 54) else none
  | _ => none

/-- A set/way operation. -/
def State.coreBySet (s : State) (c fn : Nat) (ra : BitVec 6) (act : State → Nat → State) : State :=
  let word := wordR 0x0E 0 ra.toNat 0 fn
  s.coreStep c word fun s =>
    if !(regOk ra.toNat) then illegal s word
    else
      match swKey c ((s.core c).reg ra.toNat) with
      | none => illegal s word
      | some k => if s.userMode c then .trap s 0x04 0 word else .done (act s k)

/-- CLEAN.SW. -/
def execCleanSw (c : Nat) (ra : BitVec 6) (s : State) : Res := .next (s.coreBySet c 0x18 ra fun s k => s.cleanEntry k)

/-- INV.SW. -/
def execInvSw (c : Nat) (ra : BitVec 6) (s : State) : Res := .next (s.coreBySet c 0x19 ra fun s k => s.evictEntry k false)

/-- CLINV.SW. -/
def execClinvSw (c : Nat) (ra : BitVec 6) (s : State) : Res := .next (s.coreBySet c 0x1A ra fun s k => s.evictEntry k true)

end Sys2Proof.Machine
end

