-- ==== Sys2Proof/Machine/CmdPart.lean ====
section
/-! DEFINITION. Partitions (R107 to R109, R146, R147) and programs from the host's side: PROG_LOAD with the checks of R111, R152 and
R248, PROG_RUN and TRAIN_STEP (R112), the end of a program, and the window operations around it (R384). -/

namespace Sys2Proof.Machine

/-! ### PART_CREATE, R107 and R146 -/

/-- First and count for a die. -/
def Cmd.run (c : Cmd) (d : Nat) : Nat × Nat := (c.parm (16 + 2 * d) 1, c.parm (17 + 2 * d) 1)

/-- A run of logical tiles on a die meets another partition's. -/
def State.runMeets (s : State) (p d first count : Nat) : Bool :=
  (below 16).any fun x =>
    x != p && match s.partRun x d with
      | some (f, n) => overlap first count f n
      | none => false

def chkPartCreate (s : State) (c : Cmd) : Chk :=
  let bad := fun (d : Nat) =>
    let (f, n) := c.run d
    n != 0 && (s.active < f + n || s.runMeets c.target d f n)
  Chk.must (c.onlyNamed [(16, 8)] && !(s.partExists c.target) && !((below 4).any bad)) 0x0304

def effPartCreate (s : State) (c : Cmd) : State :=
  let p := c.target
  let s := (below 4).foldl
    (fun s d => s.wr (aTilePart p d) (2 ^ 16 + (c.run d).2 * 2 ^ 8 + (c.run d).1)) s
  let s := (s.partTiles p).foldl (fun s k => s.modTile k Tile.create) s
  c.done s 0 0

/-! ### PART_RESET and PART_DELETE, R108 and R109 -/

def chkPartReset (_s : State) (c : Cmd) : Chk := c.noParams

/-- Started without at_furrow: it takes place at the first furrow that R70's guard leaves. -/
def effPartReset (s : State) (c : Cmd) : State :=
  if 1024 ≤ s.sched.length then c.done s 0x0201 0
  else { s with sched := s.sched ++ [{ furrow := s.firstFurrow, row := 3, kind := .cmd c.q c.seq }] }

/-- The queues of a partition. -/
def State.partQueues (s : State) (p : Nat) : List Nat := (below 64).filter fun q => s.qPart q == p

/-- PART_RESET at its furrow (R117, R142, R314). -/
def State.partResetAct (s : State) (c : Cmd) : State :=
  let p := c.target
  let s := (s.flushQueues (s.partQueues p) c.q c.seq).1
  let ops := s.liveOps fun h => h.part == p
  let ws := ops.map s.hword
  let s := ops.foldl State.cancelOp s
  let s := (s.partCores p).foldl State.coreHalt s
  let s := s.modPart p fun v => { v with clearing := true }
  s.await { c.ctl .partReset p with waits := ws }

/-- The lowest live handle of a partition. -/
def State.lowestLive (s : State) (p : Nat) : Option Nat :=
  match (s.liveOps fun h => h.part == p).map s.hword with
  | [] => none
  | x :: xs => some (xs.foldl min x)

def chkPartDelete (s : State) (c : Cmd) : Chk :=
  (match s.lowestLive c.target with
   | some w => Chk.bad 0x0305 w
   | none => Chk.must (!((s.partQueues c.target).any fun q => q != c.q && s.qEnabled q)) 0x0305 0xFFFFFFFF).andThen
    fun _ => c.noParams

/-- A partition ceases: its tiles cleared and gated, its cores halted, its image discarded. -/
def State.dropPart (s : State) (p : Nat) : State :=
  let ks := s.partTiles p
  let s := (s.partCores p).foldl State.coreHalt s
  let s := ks.foldl (fun s k => s.modTile k Tile.release) s
  let s := (below 4).foldl (fun s d => s.setFld (aTilePart p d) 16 16 0) s
  let s := { s with pwr := { s.pwr with grant := s.pwr.grant.filter fun e => e.1 / 4 != p } }
  s.setPart p { Part.zero with clearing := true }

def effPartDelete (s : State) (c : Cmd) : State := (s.dropPart c.target).await (c.ctl .partDelete c.target)

/-- PARTITION_CLEAR_DONE: the tiles are clear, and the command that asked for it ends. -/
def execPartitionClearDone (p : Nat) (s : State) : Res :=
  if !(s.part p).clearing then .next s
  else
    let s := (s.partTiles p).foldl (fun s k => s.modTile k Tile.clear) s
    .next (s.modPart p fun v => { v with clearing := false }).settle

/-! ### Matrix descriptors, R148 to R152 and R166 -/

/-- The class of a format code (R148); none when the code is reserved. -/
def fmtClass (code : Nat) : Option Nat :=
  match code with
  | 0 => some 0
  | 1 => some 0
  | 2 => some 1
  | 3 => some 1
  | 4 => some 2
  | 5 => some 3
  | 6 => some 4
  | 7 => some 5
  | 8 => some 5
  | 9 => some 6
  | 10 => some 7
  | 11 => some 8
  | _ => none

/-- Bytes of one activation row, by format code. -/
def fmtRowBytes (code : Nat) : Nat := if code = 2 ∨ code = 3 then 48 else if code = 5 ∨ code = 6 then 128 else 64

/-- Bytes of a bay block, by format code. -/
def fmtBlock (code : Nat) : Nat := 64 * fmtRowBytes code

/-- Limb planes, 8 or 7. -/
def limbPlanes (code : Nat) : Nat := if code = 10 then 8 else 7

/-- Elements along K of a row. -/
def fmtK (code : Nat) : Nat := if code = 4 ∨ code = 9 then 128 else 64

/-- A matrix descriptor, R151. -/
structure MDesc where
  w0 : Nat
  w1 : Nat
  w2 : Nat
  w3 : Nat
  deriving DecidableEq, Repr

def MDesc.kind (d : MDesc) : Nat := bits d.w0 63 60
def MDesc.act (d : MDesc) : Nat := bits d.w0 59 56
def MDesc.wt (d : MDesc) : Nat := bits d.w0 55 52
def MDesc.group (d : MDesc) : Nat := bits d.w0 51 49
def MDesc.scaleE4 (d : MDesc) : Bool := bit d.w0 48
def MDesc.rows (d : MDesc) : Nat := bits d.w0 47 40
def MDesc.inReg (d : MDesc) : Bool := bit d.w0 39
def MDesc.toStore (d : MDesc) : Bool := bit d.w0 38
def MDesc.baler (d : MDesc) : Bool := bit d.w0 37
def MDesc.stream (d : MDesc) : Bool := bit d.w0 36
def MDesc.streamTk (d : MDesc) : Nat := bits d.w0 35 32
def MDesc.bank (d : MDesc) : Nat := bits d.w0 31 29
def MDesc.actStride (d : MDesc) : Nat := bits d.w1 37 22
def MDesc.actAddr (d : MDesc) : Nat := bits d.w1 21 0
def MDesc.dstStride (d : MDesc) : Nat := bits d.w2 37 22
def MDesc.dstAddr (d : MDesc) : Nat := bits d.w2 21 0
def MDesc.scaleAddr (d : MDesc) : Nat := bits d.w3 43 22
def MDesc.wtAddr (d : MDesc) : Nat := bits d.w3 21 0

/-- Groups in a row, R207. -/
def MDesc.groups (d : MDesc) : Nat :=
  match d.group with
  | 0 => 0
  | 1 => fmtK d.act / 32
  | 2 => fmtK d.act / 64
  | _ => 1

/-- First byte that no program access may reach (R126). -/
def progEnd : Nat := 0x2E0000

/-- A run of rows in the tile store, as it stands in the descriptor. -/
def storeRun (addr stride rows len : Nat) : Bool :=
  addr % 64 == 0 && stride % 64 == 0 && addr + (rows - 1) * stride + len ≤ progEnd

/-- A run of bytes in the tile registers. -/
def regRun (r n : Nat) : Bool := 4096 * (r % 16) + n ≤ 65536

/-- The geometry of CONV, R166. -/
structure Geo where
  g0 : Nat
  g1 : Nat
  g2 : Nat
  g3 : Nat
  deriving DecidableEq, Repr

def Geo.inW (g : Geo) : Nat := bits g.g0 11 0
def Geo.inH (g : Geo) : Nat := bits g.g0 23 12
def Geo.inD (g : Geo) : Nat := bits g.g0 35 24
def Geo.outW (g : Geo) : Nat := bits g.g0 47 36
def Geo.outH (g : Geo) : Nat := bits g.g0 59 48
def Geo.outD (g : Geo) : Nat := bits g.g1 11 0
def Geo.stride (g : Geo) (i : Nat) : Nat := bits g.g1 (14 + 3 * i) (12 + 3 * i) + 1
def Geo.dil (g : Geo) (i : Nat) : Nat := bits g.g1 (23 + 3 * i) (21 + 3 * i) + 1
def Geo.pad (g : Geo) (i : Nat) : Nat := bits g.g1 (33 + 4 * i) (30 + 4 * i)
def Geo.posStride (g : Geo) : Nat := bits g.g2 15 0
/-- Input positions. -/
def Geo.positions (g : Geo) : Nat := g.inW * g.inH * g.inD

def Geo.ok (g : Geo) : Bool :=
  [g.inW, g.inH, g.inD, g.outW, g.outH, g.outD].all (fun x => x != 0) && bits g.g0 63 60 == 0 && bits g.g1 63 42 == 0
    && bits g.g2 63 16 == 0 && g.g3 == 0 && g.posStride % 64 == 0

/-- The kind, must-be-0 fields, formats and rows, checked for every instruction. -/
def MDesc.formOk (d : MDesc) : Bool :=
  d.kind == 1 && bits d.w0 28 0 == 0 && bits d.w1 63 38 == 0 && bits d.w2 63 38 == 0 && bits d.w3 63 44 == 0
    && (fmtClass d.act).isSome && fmtClass d.act == fmtClass d.wt && d.group ≤ 3
    && (d.group == 0 || ((d.act ≤ 4 || d.act == 7) && (d.wt ≤ 4 || d.wt == 7)))
    && 1 ≤ d.rows && d.rows ≤ 128

def MDesc.limb (d : MDesc) : Bool := d.act == 10 || d.act == 11

/-- Where the result rows go. -/
def MDesc.dstOk (d : MDesc) : Bool :=
  if d.toStore then storeRun d.dstAddr d.dstStride d.rows 256 else regRun d.dstAddr (256 * d.rows)

/-- Where the activation rows come from, for MMUL and MMULT. -/
def MDesc.actOk (d : MDesc) : Bool :=
  (d.baler || (if d.inReg then regRun d.actAddr (d.rows * fmtRowBytes d.act)
               else storeRun d.actAddr d.actStride d.rows (fmtRowBytes d.act)))
    && (d.group == 0 || d.scaleAddr + 4 * (d.rows - 1) + d.groups ≤ progEnd)

/-- The activation planes of LIMB. -/
def MDesc.limbActOk (d : MDesc) : Bool :=
  let last := 8192 * (limbPlanes d.act - 1)
  if d.inReg then regRun d.actAddr (last + 64 * d.rows)
  else storeRun d.actAddr d.actStride d.rows 64 && storeRun (d.actAddr + last) d.actStride d.rows 64

/-- The checks of R152 on the fields that one M instruction uses; `low` is its operand field. -/
def MDesc.ok (d : MDesc) (geo : Option Geo) (op low : Nat) : Bool :=
  let keep := bit low 0
  d.formOk && match op with
    | 1 => storeRun d.wtAddr 0 1 (fmtBlock d.wt + (if d.group = 0 then 0 else 256))
    | 2 => !d.limb && d.actOk && (keep || d.dstOk)
    | 3 => !d.limb && d.wt != 4 && d.wt != 9 && d.group == 0 && d.actOk && (keep || d.dstOk)
    | 4 =>
      !d.limb && (keep || d.dstOk) && match geo with
        | none => false
        | some g =>
          let far := (g.positions - 1) * g.posStride
          g.ok && (if d.inReg then regRun d.actAddr (far + fmtRowBytes d.act) else storeRun d.actAddr 0 1 (far + fmtRowBytes d.act))
            && (d.group == 0 || d.scaleAddr + 4 * (g.positions - 1) + d.groups ≤ progEnd)
    | 5 => d.limb && d.limbActOk && storeRun d.wtAddr 0 1 (4096 * limbPlanes d.wt)
    | _ => d.limb || d.dstOk

/-! ### Shuttle descriptors, R246 and R248 -/

/-- A Shuttle descriptor. -/
structure XDesc where
  x0 : Nat
  x1 : Nat
  x2 : Nat
  x3 : Nat
  deriving DecidableEq, Repr

def XDesc.kind (d : XDesc) : Nat := bits d.x0 63 60
def XDesc.esize (d : XDesc) : Nat := 2 ^ bits d.x0 59 58
def XDesc.ndim (d : XDesc) : Nat := bits d.x0 57 55
def XDesc.perm (d : XDesc) (j : Nat) : Nat := bits d.x0 (42 + 3 * j) (40 + 3 * j)
def XDesc.src (d : XDesc) : Nat := bits d.x0 39 38
def XDesc.dst (d : XDesc) : Nat := bits d.x0 37 36
def XDesc.accOp (d : XDesc) : Nat := bits d.x0 35 34
def XDesc.accType (d : XDesc) : Nat := bits d.x0 33 32
def XDesc.unordered (d : XDesc) : Bool := bit d.x0 31
def XDesc.fence (d : XDesc) : Bool := bit d.x0 30
def XDesc.rsToDst (d : XDesc) : Bool := bit d.x0 29
def XDesc.stream (d : XDesc) : Bool := bit d.x0 28
def XDesc.streamTk (d : XDesc) : Nat := bits d.x0 27 24
def XDesc.oclass (d : XDesc) : Nat := bits d.x0 23 22
def XDesc.block (d : XDesc) : Nat := 32 * 2 ^ bits d.x0 21 20
def XDesc.tfmt (d : XDesc) : Nat := bits d.x0 19 18
def XDesc.smooth (d : XDesc) : Bool := bit d.x0 17
def XDesc.layout (d : XDesc) : Nat := bits d.x3 21 0
def XDesc.aux (d : XDesc) : Nat := bits d.x3 43 22

/-- Bytes of an element of acc_type. -/
def accBytes (t : Nat) : Nat :=
  match t with
  | 0 => 4
  | 1 => 8
  | 2 => 4
  | _ => 2

/-- R248: word 0 and word 3, for the X instruction `op`. -/
def XDesc.ok (d : XDesc) (op : Nat) : Bool :=
  let n := d.ndim
  bits d.x0 16 0 == 0 && bits d.x3 63 44 == 0 && d.layout % 32 == 0 && d.kind == op + 1 && 1 ≤ n && n ≤ 5
    && (below n).all (fun v => ((below n).filter fun j => d.perm j == v).length == 1)
    && d.src != 3 && (d.dst != 3 || op == 1) && (d.accOp == 0 || (op == 3 && accBytes d.accType == d.esize))
    && (!d.stream || d.streamTk != 0) && bits d.x0 21 20 != 3 && d.tfmt != 3

/-! ### PROG_LOAD, R111 -/

/-- Number at a byte offset of an image. -/
def imgNum (img : List Byte) (off n : Nat) : Nat := leNat ((img.drop off).take n)

/-- Word `w` of descriptor slot `i` of an image. -/
def imgDsc (img : List Byte) (i w : Nat) : Nat := imgNum img (64 + 32 * i + 8 * w) 8

def imgM (img : List Byte) (i : Nat) : MDesc := ⟨imgDsc img i 0, imgDsc img i 1, imgDsc img i 2, imgDsc img i 3⟩
def imgX (img : List Byte) (i : Nat) : XDesc := ⟨imgDsc img i 0, imgDsc img i 1, imgDsc img i 2, imgDsc img i 3⟩

def imgGeo (img : List Byte) (i : Nat) : Option Geo :=
  if i = 31 then none
  else some ⟨imgDsc img (i + 1) 0, imgDsc img (i + 1) 1, imgDsc img (i + 1) 2, imgDsc img (i + 1) 3⟩

/-- Slot `n` of bundle `b`: 0 S, 1 M, 2 V, 3 X. -/
def imgSlot (img : List Byte) (b n : Nat) : Nat := imgNum img (1152 + 16 * b + 4 * n) 4

/-- The header of an image: magic, counts, entry, and bytes that must be 0. -/
def imgHeadOk (img : List Byte) : Bool :=
  let n := imgNum img 4 2
  imgNum img 0 4 == 0x4D475250 && 1 ≤ n && n ≤ 4096 && imgNum img 6 2 < n && imgNum img 8 2 ≤ 16
    && img.length == 1152 + 16 * n && ((img.drop 10).take 54).all (fun b => b == 0)
    && (below 16).all fun i =>
      let e := imgNum img (1088 + 4 * i) 4
      bits e 15 14 == 0 && bits e 31 20 == 0

/-- The first M instruction whose descriptor fails R152: its descriptor slot. -/
def imgBadM (img : List Byte) : Option Nat :=
  ((below (imgNum img 4 2)).find? fun b =>
    let w := imgSlot img b 1
    let op := bits w 31 27
    let i := bits w 18 14
    1 ≤ op && op ≤ 6 && !((imgM img i).ok (imgGeo img i) op (bits w 18 0))).map fun b => bits (imgSlot img b 1) 18 14

/-- The first X instruction whose descriptor fails R248: its descriptor slot. -/
def imgBadX (img : List Byte) : Option Nat :=
  ((below (imgNum img 4 2)).find? fun b =>
    let w := imgSlot img b 3
    let op := bits w 31 27
    1 ≤ op && op ≤ 4 && !((imgX img (bits w 18 14)).ok op)).map fun b => bits (imgSlot img b 3) 18 14

/-- The checks of an image. -/
def imgChk (img : List Byte) : Chk :=
  (Chk.must (imgHeadOk img) 0x0304).andThen fun _ =>
    match imgBadM img with
    | some i => .bad 0x0304 i
    | none =>
      match imgBadX img with
      | some i => .bad 0x0601 i
      | none => .ok

/-- A partition has a long operation that is not an idle collective. -/
def State.busyOp (s : State) (p : Nat) : Bool :=
  s.handles.any fun e => e.2.state.live && e.2.part == p && s.queryCode (s.hword e.1) e.2 != 6

def chkProgLoad (s : State) (c : Cmd) : Chk :=
  let len := c.parm 24 4
  (Chk.all
    [Chk.must (!(s.busyOp c.target)) 0x0305,
     Chk.must (c.onlyNamed [(16, 8), (24, 4)] && 1152 < len && len ≤ 1152 + 65536) 0x0304, c.addrOk s (c.parm 16 8)]).andThen
    fun _ =>
      match c.block 0 with
      | none => .need (c.parm 16 8) len
      | some img => imgChk img

def effProgLoad (s : State) (c : Cmd) : State :=
  let p := c.target
  let img := (c.block 0).getD []
  let s := { s with retB := mwrite s.retB (imageBase p) img }
  let s := s.modPart p fun v => { v with loaded := true, imgLen := img.length }
  let s := (s.partTiles p).foldl (fun s k => s.loadTile p k) s
  c.done s 0 0

/-! ### PROG_RUN and TRAIN_STEP, R112, R124, R262, R268 -/

/-- A SOLVE_BATCH of the partition is in progress. -/
def State.solving (s : State) (p : Nat) : Bool :=
  s.handles.any fun e => e.2.state.live && e.2.part == p && e.2.opcode.toNat == opSOLVE

/-- The first descriptor slot of the loaded image whose Shuttle descriptor has unordered set. -/
def State.unorderedSlot (s : State) (p : Nat) : Option Nat :=
  (below 32).find? fun i =>
    let w := s.imageVal p (64 + 32 * i) 8
    2 ≤ bits w 63 60 && bits w 63 60 ≤ 5 && bit w 31

/-- What both runs check; `good` is what their own parameters need. -/
def chkRun (s : State) (c : Cmd) (named : List (Nat × Nat)) (good : Bool) : Chk :=
  if s.solving c.target then .hold
  else
    (Chk.all [Chk.must (s.part c.target).loaded 0x0305, Chk.must (c.onlyNamed named && good) 0x0304]).andThen fun _ =>
      match s.unorderedSlot c.target with
      | some i => if s.globalDet then .bad 0x0E01 i else .ok
      | none => .ok

def chkProgRun (s : State) (c : Cmd) : Chk := chkRun s c [(16, 32)] true

def chkTrainStep (s : State) (c : Cmd) : Chk :=
  chkRun s c [(16, 32), (48, 6)] (s.flag (aCkptPartLatest c.target) 49 && c.parm 48 6 == s.latestImage c.target)

/-- The partition's valid windows start a release or an acquire (R384). -/
def State.partWindows (s : State) (p : Nat) (acquire : Bool) : State :=
  ((below 8).filter fun w => s.fld (aCacheWinLimit w) 3 0 == p).foldl (fun s w => s.winStart w acquire) s

/-- A window operation of a partition is in progress. -/
def State.winBusy (s : State) (p : Nat) (acquire : Bool) : Bool :=
  s.cache.wins.any fun e => e.2 == acquire && s.fld (aCacheWinLimit e.1) 3 0 == p

/-- The partition is in power phase 0 (R500). -/
def State.phaseZero (s : State) (p : Nat) : State := s.setFld (aPwrPart p) 35 32 0

/-! ### The end of a program -/

/-- The stochastic-rounding base of a partition becomes the largest sr_counter of its tiles (R244). -/
def State.nextBase (s : State) (p : Nat) : State :=
  s.wr (aVecPartBase p) (((s.partTiles p).map fun k => (s.tile k).vec.sr.toNat).foldl max 0)

/-- An operation whose tiles have ended writes its final record once its windows are acquired (R384). -/
def State.opFinish (s : State) (i : Nat) : State :=
  match s.hslot i with
  | none => s
  | some h =>
    match h.ending with
    | some (_, st, d) => if h.state.live && h.late && !(s.winBusy h.part true) then
        let s := if h.isProg then s.nextBase h.part else s
        s.endOp i st.toNat d.toNat
      else s
    | none => s

/-- The tiles of an operation have ended with a status: the acquires start. -/
def State.opEnds (s : State) (i status detail : Nat) : State :=
  match s.hslot i with
  | none => s
  | some h =>
    let s := s.modHslot i fun h =>
      { h with late := true, ending := some (s.furrow, BitVec.ofNat 16 status, BitVec.ofNat 64 detail) }
    (s.partWindows h.part true).opFinish i

/-- Every program whose tiles have all halted ends (R112). -/
def State.progsEnd (s : State) : State :=
  (s.liveOps fun h => h.isProg && !h.late && h.ending.isNone && h.state != .cancelling
      && h.tiles.all fun t => decide ((s.tile t).run = .halted)).foldl
    (fun s i =>
      match s.hslot i with
      | some h => s.opEnds i 0 (if h.opcode.toNat = opTRAINSTEP then h.parm 48 6 else 0)
      | none => s) s

/-- The tiles of a program start, after the releases of the partition's windows. -/
def effProgRun (s : State) (c : Cmd) : State :=
  let p := c.target
  match s.startLong c.q c.seq p (s.partTiles p) with
  | (s, none) => s
  | (s, some i) => (((s.beginProg i 0).phaseZero p).partWindows p false).progsEnd

/-- PROGRAM_HALTED: a tile that executed HALT has its queues and engines empty. -/
def execProgramHalted (t : Nat) (s : State) : Res :=
  let x := s.tile t
  let prog := ((s.opOfTile t).bind s.hslot).map HRec.isProg
  if prog == some true && (x.run = .running || x.run = .suspending) && x.stopped && x.excPend.isNone && x.qm.isEmpty && x.qv.isEmpty
      && x.qx.isEmpty && x.em.isEmpty && x.ev.isEmpty && x.ex.isEmpty then
    .next (s.modTile t fun x => { x with run := .halted }).progsEnd
  else .next s

/-- The lines of a window. -/
def State.winLines (s : State) (w : Nat) : Nat × Nat :=
  (64 * s.fld (aCacheWinBase w) 47 12, 64 * s.fld (aCacheWinLimit w) 47 12 + 63)

/-- WINDOW_OPERATION_DONE: the oldest operation on a window has walked the directory and written back. -/
def execWindowOperationDone (n : Nat) (s : State) : Res :=
  match s.cache.wins.find? fun e => e.1 == n with
  | none => .next s
  | some e =>
    let (lo, hi) := s.winLines n
    let s := if e.2 then s.acquireRange lo hi else s.releaseRange lo hi
    let s := { s with cache := { s.cache with wins := s.cache.wins.erase e } }
    .next ((s.liveOps fun h => h.late).foldl State.opFinish s)

end Sys2Proof.Machine
end

