-- ==== Sys2Proof/Machine/CmdMem.lean ====
section
/-! DEFINITION. MEM_COPY and MEM_FILL (R101, R110): transfers of a partition, 4 KiB destination chunk by chunk, each chunk read whole
and then written whole; pieces in other packages are fabric requests of up to 64 naturally aligned bytes (R393). -/

namespace Sys2Proof.Machine

/-! ### Ranges -/

/-- The engine number under which the firmware issues requests: the steward pair in service (R393; notes/assumptions 45). -/
def State.stewardEngine (s : State) : Nat := if s.fld aRasSteward 57 56 = 1 then 769 else 768

/-- Size of the largest naturally aligned piece at `a` of at most `n` bytes. -/
def natSize (a n : Nat) : Nat := (([64, 32, 16, 8, 4, 2] : List Nat).find? fun k => a % k == 0 && k ≤ n).getD 1

/-- Cut [a, a + n) into naturally aligned pieces: offset from the start, and length; `fuel` pieces are enough. -/
def natPieces : Nat → Nat → Nat → Nat → List (Nat × Nat)
  | 0, _, _, _ => []
  | fuel + 1, a, off, n =>
    if n = 0 then []
    else
      let k := natSize (a + off) n
      (off, k) :: natPieces fuel a (off + k) (n - k)

/-- The package that an address names, 0 for the own one. -/
def State.pkgOf (s : State) (g : Nat) : Nat :=
  match s.dest g with
  | .remote p _ => p
  | _ => 0

/-- A tile of another partition, or of none, has part of its window in [a, a + n). -/
def State.foreignTile (s : State) (p a n : Nat) : Bool :=
  (below 624).any fun k =>
    a < tileBase k + 0x400000 && tileBase k < a + n && s.isMapped k && !(s.tile k).retired && s.tilePart? k != some p

/-- Whether partition `p` may reach [a, a + n): its keys and allow_global for another package (R403, R263), its own tiles here. -/
def State.mayReach (s : State) (p g n op : Nat) : Bool :=
  let a := bits g 47 0
  match s.dest g with
  | .here a => !(s.foreignTile p a n)
  | .remote k _ =>
    s.flag (aShtlPartCfg p) 16
      && (upFrom (a / 2 ^ 21) (if n = 0 then 0 else (a + n - 1) / 2 ^ 21 + 1 - a / 2 ^ 21)).all fun u => s.keyOk p k (u * 2 ^ 21) op
  | .invalid => false

/-- A range stays within the local addresses of one package. -/
def rangeFits (g n : Nat) : Bool := bits g 47 0 + n ≤ 2 ^ 48

/-- The destination package is not 0xFFFF (R30). -/
def destValid (g : Nat) : Chk := Chk.must (bits g 63 48 != 0xFFFF) 0x0C01

/-! ### Checks, R110 -/

/-- Source and destination overlap. -/
def State.rangesMeet (s : State) (a b n : Nat) : Bool :=
  s.pkgOf a == s.pkgOf b && overlap (bits a 47 0) n (bits b 47 0) n

def chkMemCopy (s : State) (c : Cmd) : Chk :=
  let src := c.parm 16 8
  let dst := c.parm 24 8
  let n := c.parm 32 8
  Chk.all
    [Chk.must (c.onlyNamed [(16, 24)] && 1 ≤ n && n < 2 ^ 40 && rangeFits src n && rangeFits dst n) 0x0304,
     destValid src, destValid dst, Chk.must (!(s.rangesMeet src dst n)) 0x0304,
     Chk.must (s.mayReach c.target src n 1 && s.mayReach c.target dst n 2) 0x0302]

def chkMemFill (s : State) (c : Cmd) : Chk :=
  let dst := c.parm 16 8
  let n := c.parm 24 8
  Chk.all
    [Chk.must (c.onlyNamed [(16, 24)] && dst % 8 == 0 && n % 8 == 0 && rangeFits dst n) 0x0304, destValid dst,
     Chk.must (s.mayReach c.target dst n 2) 0x0302]

/-! ### The transfer -/

/-- Source (none for a fill), destination and length of an operation. -/
def HRec.memSrc (h : HRec) : Option Nat := if h.opcode.toNat = opMEMCOPY then some (h.parm 16 8) else none
def HRec.memDst (h : HRec) : Nat := if h.opcode.toNat = opMEMCOPY then h.parm 24 8 else h.parm 16 8
def HRec.memLen (h : HRec) : Nat := if h.opcode.toNat = opMEMCOPY then h.parm 32 8 else h.parm 24 8

/-- Offset in the transfer at which destination chunk `j` begins. -/
def HRec.chunkAt (h : HRec) (j : Nat) : Nat := min h.memLen (if j = 0 then 0 else 4096 * j - h.memDst % 4096)

/-- Whether every chunk is done. -/
def HRec.memOver (h : HRec) : Bool := h.chunkAt h.chunks == h.memLen

/-- The bytes of the pattern for chunk `j`. -/
def HRec.fillBytes (h : HRec) (j : Nat) : List Byte :=
  (List.replicate ((h.chunkAt (j + 1) - h.chunkAt j) / 8) (leBytes 8 (h.parm 32 8))).flatten

def MemJob.fresh (u : Bool) : MemJob := { buf := [], left := 0, writing := false, unpop := u }

/-- Issue the pieces of [g, g + n) of another package as requests of the operation in slot `i`. -/
def State.memIssue (s : State) (i part op g n : Nat) (data : List Byte) : State :=
  let ps := natPieces n (bits g 47 0) 0 n
  let s := s.modHslot i fun h => { h with job := { h.job with left := ps.length, writing := op != 1 } }
  ps.foldl
    (fun s p =>
      s.fabIssue s.stewardEngine part 0 op (bits g 63 48) (bits g 47 0 + p.1) p.2 ((data.drop p.1).take p.2)
        (.mem (s.hword i) p.1)) s

/-- The current chunk holds its final contents. -/
def State.memChunkDone (s : State) (i : Nat) : State :=
  s.modHslot i fun h => { h with chunks := h.chunks + 1, job := MemJob.fresh h.job.unpop }

/-- Write the data of the current chunk: at once here, as requests in another package. -/
def State.memWrite (s : State) (i : Nat) (bs : List Byte) : State :=
  match s.hslot i with
  | none => s
  | some h =>
    let g := h.memDst + h.chunkAt h.chunks
    match s.dest g with
    | .here a =>
      let r := s.writeMem a bs
      (r.1.modHslot i fun h => { h with job := { h.job with unpop := h.job.unpop || !r.2 } }).memChunkDone i
    | _ => s.memIssue i h.part 2 g bs.length bs

/-- Work through chunks while the operation runs and none of its requests is outstanding; a poisoned block ends it. -/
def memChunks : Nat → State → Nat → State
  | 0, s, _ => s
  | fuel + 1, s, i =>
    match s.hslot i with
    | none => s
    | some h =>
      if h.state != .running || h.job.left != 0 || h.memOver then s
      else
        let n := h.chunkAt (h.chunks + 1) - h.chunkAt h.chunks
        match h.memSrc with
        | none => memChunks fuel (s.memWrite i (h.fillBytes h.chunks)) i
        | some src =>
          match s.dest (src + h.chunkAt h.chunks) with
          | .here a =>
            let r := s.readMem false a n
            if r.poison then s.endOp i 0x0901 0
            else
              let s := s.modHslot i fun h => { h with job := { h.job with unpop := h.job.unpop || r.unpop } }
              memChunks fuel (s.memWrite i r.data) i
          | _ => s.memIssue i h.part 1 (src + h.chunkAt h.chunks) n []

/-- Chunks left, and one more. -/
def HRec.memFuel (h : HRec) : Nat := h.memLen / 4096 + 3

/-- Some side of the transfer lies in another package. -/
def State.memRemote (s : State) (h : HRec) : Bool :=
  (match h.memSrc with
   | some g => s.pkgOf g != 0
   | none => false) || s.pkgOf h.memDst != 0

/-- Begin or go on with the remote part of a transfer. -/
def State.memGo (s : State) (i : Nat) : State :=
  match s.hslot i with
  | some h => if s.memRemote h then memChunks h.memFuel s i else s
  | none => s

/-- A request of a MEM_COPY or MEM_FILL is answered: status, and the data of a read. -/
def State.memAnswer (s : State) (w off status : Nat) (bs : List Byte) : State :=
  match s.handle? w with
  | none => s
  | some (i, h) =>
    if !h.state.live || h.job.left = 0 then s
    else if status != 0 && status != 0x0102 then
      (if h.state = .cancelling then s.modHslot i fun h => { h with job := MemJob.fresh h.job.unpop } else s.endOp i status 0)
    else
      let s := s.modHslot i fun h =>
        { h with
          job :=
            { h.job with
              left := h.job.left - 1, unpop := h.job.unpop || status == 0x0102
              buf := if h.job.writing then h.job.buf else mwrite h.job.buf off bs } }
      if h.job.left != 1 then s
      else if h.job.writing then (s.memChunkDone i).memGo i
      else if h.state = .cancelling then s
      else
        match s.hslot i with
        | none => s
        | some h => (s.memWrite i (mread h.job.buf 0 (h.chunkAt (h.chunks + 1) - h.chunkAt h.chunks))).memGo i

/-- A transfer starts. -/
def effMem (s : State) (c : Cmd) : State :=
  match s.startLong c.q c.seq c.target [] with
  | (s, none) => s
  | (s, some i) => s.memGo i

/-- MEM_COPY_FILL_DONE: what lies in this package is transferred, the last transfer is acknowledged: the final record with the bytes
written; with an unpopulated address touched, its status (notes/assumptions 44). -/
def execMemCopyFillDone (h : Nat) (s : State) : Res :=
  match s.hslot h with
  | none => .next s
  | some r =>
    if r.state = .running && (r.opcode.toNat = opMEMCOPY || r.opcode.toNat = opMEMFILL) && r.job.left = 0 then
      let s := memChunks r.memFuel s h
      match s.hslot h with
      | none => .next s
      | some r =>
        if r.state = .running && r.job.left = 0 && r.memOver then
          (if r.job.unpop then .next (s.endOp h 0x0102 0) else .next (s.endOp h 0 r.memLen))
        else .next s
    else .next s

end Sys2Proof.Machine
end

