-- ==== Sys2Proof/Machine/Power.lean ====
section
/-! DEFINITION. Power and heat (R490 to R508): the average-power cap and the grants of each tick, the gating pattern of a furrow, the
phase tables, the regulator alert and the floor state, the sensors of the dies. Powers are in milliwatts. -/

namespace Sys2Proof.Machine

/-! ### Cap and window, R492, R493, R505 -/

def State.capW (s : State) : Nat := s.fld aPwrCap 11 0

/-- The cap after thermal steps, in watts: 85% at step 1, 70% above. -/
def State.effCapOf (cap step : Nat) : Nat := if step = 0 then cap else if step = 1 then cap * 85 / 100 else cap * 70 / 100

def State.thermStep (s : State) : Nat := s.fld aPwrStatus 51 50

/-- The effective cap follows the set cap and the thermal step. -/
def State.setEffCap (s : State) : State := s.setFld aPwrMeasure 15 0 (State.effCapOf s.capW s.thermStep)

/-- The floor state is in force. -/
def State.floored (s : State) : Bool := s.flag aPwrStatus 49

/-- A cap takes effect: the window's history is as if the package had drawn exactly the cap. -/
def State.putCap (s : State) (cap win : Nat) : State :=
  let s := (s.setFld aPwrCap 11 0 cap).setFld aPwrCap 20 16 win
  { s with pwr := { s.pwr with hist := [], excess := 0 } }.setEffCap

/-- Ticks in a window. -/
def State.winTicks (s : State) : Nat := 1000 * s.fld aPwrCap 20 16

/-- Energy of the last `n` ticks, in microjoules; a tick before the cap took effect counts as the cap. -/
def State.energy (s : State) (n : Nat) : Nat :=
  (s.pwr.hist.take n).sum + (n - s.pwr.hist.length) * (1000 * s.capW)

/-- The window average, mW. -/
def State.avgMw (s : State) : Nat := s.energy s.winTicks / max 1 s.winTicks

/-! ### Grants, R494 -/

/-- The phase table's entry for a partition's phase in force: p_tile, p_core and w, where the entry is valid. -/
def State.phaseEntry (s : State) (p : Nat) : Option (Nat × Nat × Nat) :=
  let e := s.rd (aPwrPhase p (s.fld (aPwrPart p) 35 32))
  if bits e 39 32 = 0 then none else some (bits e 15 0, bits e 31 16, bits e 39 32)

/-- p_tile and w of R494. -/
def State.tileNeed (s : State) (p : Nat) : Nat × Nat :=
  match s.phaseEntry p with
  | some (t, _, w) => (t, w)
  | none => (4722, 1)

/-- t(p, d). -/
def State.tileCount (s : State) (p d : Nat) : Nat := ((s.partRun p d).getD (0, 0)).2

/-- need(p) on a die. -/
def State.needOf (s : State) (p d : Nat) : Nat := s.tileCount p d * (s.tileNeed p).1

/-- Milliwatts left for tiles, R494 and R496. -/
def State.availMw (s : State) (nontile : Nat) : Nat :=
  let cap := 1000 * s.fld aPwrMeasure 15 0
  if s.globalDet then cap - 1000 * s.fld aPwrCfg 11 0 - s.pwr.excess
  else cap * s.winTicks - s.energy (s.winTicks - 1) - nontile

/-- n(p, d): `avail` over all dies, the sums of need over the package and of need and w * need on the die. A p_tile of 0.1 W or
less leaves the quotient open: a free value. -/
def State.grantOf (s : State) (avail total sumD sumW p d : Nat) : Nat :=
  let t := s.tileCount p d
  let (pt, w) := s.tileNeed p
  let need := t * pt
  if t = 0 then 0
  else if sumD * total ≤ avail * sumD then t
  else if pt ≤ 100 then s.free1 % t + 1
  else
    let num := avail * sumD * w * need
    let den := total * sumW
    if need * den ≤ num then t else max 1 ((num - 100 * t * den) / (den * (pt - 100)))

/-- The grants of a tick into PWR_PART. -/
def State.setGrants (s : State) (nontile : Nat) : State :=
  let avail := s.availMw nontile
  let ps := (below 16).filter s.partExists
  let total := (ps.flatMap fun p => (below 4).map fun d => s.needOf p d).sum
  ps.foldl
    (fun s p =>
      ((below 4).foldl
        (fun s d =>
          let sumD := (ps.map fun x => s.needOf x d).sum
          let sumW := (ps.map fun x => (s.tileNeed x).2 * s.needOf x d).sum
          s.setFld (aPwrPart p) (8 * d + 7) (8 * d) (s.grantOf avail total sumD sumW p d)) s).freed) s

/-! ### Gating, R495 and R497 -/

/-- While a collective step of the partition is issued and not decided, its pattern stays (R499). -/
def State.stepOpen (s : State) (p : Nat) : Bool := s.colls.any fun e => e.2.part == p && e.2.run == .run

/-- The grants in force follow those of the tick, but for the partitions that R499 holds; then every tile of a partition runs or is
gated by the pattern of this furrow. The floor state overrides every grant (R504). -/
def State.gateFurrow (s : State) : State :=
  ((below 16).filter s.partExists).foldl
    (fun s p =>
      (below 4).foldl
        (fun s d =>
          match s.partRun p d with
          | none => s
          | some (first, t) =>
            let n := if s.stepOpen p || s.floored then sget 0 s.pwr.grant (4 * p + d) else s.fld (aPwrPart p) (8 * d + 7) (8 * d)
            let s := { s with pwr := { s.pwr with grant := sput 0 s.pwr.grant (4 * p + d) n } }
            (below t).foldl
              (fun s i =>
                match s.mapped? d (first + i) with
                | none => s
                | some k =>
                  let off := n != 0 && !s.floored && n ≤ (i + t - s.furrow * n % t) % t
                  s.modTile k fun x => { x with gated := off }) s) s) s

/-- Running user cores of a partition. -/
def State.liveCores (s : State) (p : Nat) : List Nat := (s.partCores p).filter fun c => (s.core c).started

/-- Cores that stay on when `x` mW have to be shed by all partitions together, in proportion to their core power. -/
def State.coresOn (s : State) (x : Nat) (p : Nat) : Nat :=
  let m := (s.liveCores p).length
  let pc := fun p => (((s.phaseEntry p).map fun e => e.2.1).getD 0) * (s.liveCores p).length
  let all := ((below 16).map pc).sum
  max (min 1 m) (if all = 0 then 0 else m - (x * m + all - 1) / all)

/-- Gate user cores in rotation, by the furrow (R495, the pattern of R497). -/
def State.gateCores (s : State) (x : Nat) : State :=
  (below 16).foldl
    (fun s p =>
      let cs := s.liveCores p
      let m := cs.length
      let on := if x = 0 then m else s.coresOn x p
      (cs.zip (below m)).foldl
        (fun s e => s.modCore e.1 fun k => { k with gated := on ≤ (e.2 + m - s.furrow * on % m) % m }) s) s

/-- Every grant is one tile, or all there is. -/
def State.atMinimum (s : State) : Bool :=
  (below 16).all fun p => (below 4).all fun d => s.fld (aPwrPart p) (8 * d + 7) (8 * d) ≤ 1

/-- What the tiles' minimum leaves too high is taken from user cores, then from the tile clock (R495). -/
def State.shed (s : State) : State :=
  let cap := 1000 * s.fld aPwrMeasure 15 0
  let avg := s.avgMw
  if s.floored then s
  else if avg ≤ cap then { s with pwr := { s.pwr with duty := 1 } }.gateCores 0
  else if !s.atMinimum then s.gateCores 0
  else
    let least := (below 16).all fun p => ((s.liveCores p).filter fun c => !(s.core c).gated).length ≤ 1
    let s := if least then { s with pwr := { s.pwr with duty := 16 } } else s
    let s := s.gateCores (avg - cap)
    if (below 96).any fun c => (s.core c).gated then s.setFlag aPwrStatus 60 else s

/-! ### Ticks, R491, R494, R496, R501 -/

/-- p + (m - p) / 16, to whole milliwatts; which way half a milliwatt goes is a free value. -/
def learned (p m free : Nat) : Nat :=
  let x := 15 * p + m
  min 65535 (if x % 16 < 8 then x / 16 else if x % 16 = 8 then x / 16 + free % 2 else x / 16 + 1)

/-- The entry of a partition's phase learns from the measurement. -/
def State.learn (s : State) (m : PowerSample) (p : Nat) : State :=
  match s.phaseEntry p with
  | none => s
  | some (t, c, _) =>
    let a := aPwrPhase p (s.fld (aPwrPart p) 35 32)
    let s :=
      match sfind? m.partTileMw p with
      | some v => (s.setFld a 15 0 (learned t v s.free1)).freed
      | none => s
    match sfind? m.partCoreMw p with
    | some v => (s.setFld a 31 16 (learned c v s.free1)).freed
    | none => s

/-- R496. -/
def State.detCap (s : State) : State :=
  let cap := 1000 * s.fld aPwrMeasure 15 0
  let avg := s.avgMw
  if s.globalDet && cap * 101 < avg * 100 then
    let s' := { s with pwr := { s.pwr with excess := avg - cap } }
    if s.pwr.excess = 0 then (s'.setFlag aPwrStatus 61).detEvent 9 none 0 else s'
  else { s with pwr := { s.pwr with excess := 0 } }

/-- POWER_TICK: the measurement of the last tick, the correction of R496, the grants, what R495 sheds, and learning. -/
def execPowerTick (m : PowerSample) (s : State) : Res :=
  if !s.boot.alive then .next s
  else
    let tick := m.tileMw + m.nontileMw
    let s := { s with pwr := { s.pwr with hist := (tick :: s.pwr.hist).take 16000 } }
    let s := ((s.setFld aPwrMeasure 63 48 (m.tileMw / 1000)).setFld aPwrMeasure 47 32 (m.nontileMw / 1000)).setFld
      aPwrMeasure 31 16 (tick / 1000)
    let s := (s.setFld aPwrStatus 15 0 (s.avgMw / 1000)).detCap
    let s := (s.setGrants m.nontileMw).shed
    if s.flag aPwrCfg 16 && !s.globalDet then .next ((below 16).foldl (fun s p => s.learn m p) s) else .next s

/-! ### The floor state, R503 to R506 -/

/-- What holds the floor state in force. -/
def State.floorCause (s : State) : Bool := s.pwr.alertHold || s.pwr.hbmTrip || s.thermStep == 3

/-- Every user core is gated, or none is. -/
def State.allCores (s : State) (off : Bool) : State :=
  (below 96).foldl (fun s c => s.modCore c fun k => { k with gated := off }) s

/-- The floor state is entered, or entered again while it was ending. -/
def State.floorEnter (s : State) : State :=
  if s.floored && !s.pwr.exiting then s
  else
    let s := { s with pwr := { s.pwr with duty := 16, floorHold := true, exiting := false } }
    (((s.setFld aPwrStatus 49 49 1).setFlag aPwrStatus 62).allCores true).detEvent 1 none 0

/-- When no cause is left, the state starts to end. -/
def State.floorLeave (s : State) : State :=
  if s.floored && !s.floorCause then { s with pwr := { s.pwr with exiting := true } } else s

/-- One step of the return at a furrow boundary (R504): HBM traffic and user cores, then the tile duty by halves, and at the last
the state ends and a held cap applies. -/
def State.floorStep (s : State) : State :=
  if !(s.floored && s.pwr.exiting) then s
  else if s.pwr.floorHold then { s with pwr := { s.pwr with floorHold := false } }.allCores false
  else if 2 < s.pwr.duty then { s with pwr := { s.pwr with duty := s.pwr.duty / 2 } }
  else
    let cap := s.pwr.heldCap
    let s := { s with pwr := { s.pwr with duty := 1, exiting := false, heldCap := none } }.setFld aPwrStatus 49 49 0
    match cap with
    | some (c, w) => s.putCap c w
    | none => s

/-- VR_ALERT: VR_ALERT_N goes low; it is honoured once PWROK has risen (R535). -/
def execVrAlert (s : State) : Res :=
  let s := { s with pins := { s.pins with vrAlertN := false } }
  if s.pins.pwrok && !s.pwr.tripped then
    .next ({ s.setFld aPwrStatus 48 48 1 with pwr := { s.pwr with alertHold := true } }.floorEnter)
  else .next s

/-- VR_ALERT_RELEASE: it is high again. -/
def execVrAlertRelease (s : State) : Res :=
  .next ({ s with pins := { s.pins with vrAlertN := true } }.setFld aPwrStatus 48 48 0)

/-- FLOOR_EXIT: it has been high for 100 us. -/
def execFloorExit (s : State) : Res :=
  if s.pins.vrAlertN && s.pwr.alertHold then
    .next ({ s with pwr := { s.pwr with alertHold := false } }.floorLeave)
  else .next s

/-! ### Temperature, R505 and R507 -/

/-- The step whose threshold a temperature exceeds, with thresholds for steps 1, 2 and 3. -/
def stepAbove (a b c t : Nat) : Nat := if c < t then 3 else if b < t then 2 else if a < t then 1 else 0

/-- From a step down: as far as the temperature has fallen 3 degrees below the entry threshold of each step. -/
def stepDown (a b c t cur : Nat) : Nat :=
  let s3 := if 3 ≤ cur && t + 3 ≤ c then 2 else min cur 3
  let s2 := if s3 = 2 && t + 3 ≤ b then 1 else s3
  if s2 = 1 && t + 3 ≤ a then 0 else s2

/-- The step after a sample (R305, R505). -/
def thermNext (a b c t cur : Nat) : Nat := if cur ≤ stepAbove a b c t then stepAbove a b c t else stepDown a b c t cur

/-- The package trips (R507): an error record, whose event no rule states; every clock domain but 17 and the retention domain
stops. -/
def State.trip (s : State) : State :=
  let e : Err :=
    { event := s.free1 % 256, cls := 10, sev := some 4, part := none, loc := 0, addr := 0, data := [] }
  let s := s.freed.errRecord e
  { s with
    boot := { s.boot with alive := false }, pwr := { s.pwr with tripped := true }
    pins := { s.pins with thermTripN := false } }

/-- DIE_TEMP_SAMPLE: the hottest die's temperature. Which die it is the row does not say: the detail of the timing event is a
free value. -/
def execDieTempSample (temp : Nat) (s : State) : Res :=
  if !s.boot.alive then .next s
  else
    let s := s.setFld aPwrStatus 47 40 (min 255 temp)
    if 115 < temp then .next s.trip
    else
      let old := s.thermStep
      let new := thermNext 95 100 105 temp old
      if new = old then .next s
      else
        let s := ((s.setFld aPwrStatus 51 50 new).setEffCap.detEvent 3 none (s.free1 % 4)).freed
        .next (if new = 3 then s.floorEnter else s.floorLeave)

/-! ### CAP_SET and PHASE_TABLE, R492, R502, R508 -/

def chkCapSet (_s : State) (c : Cmd) : Chk :=
  Chk.all
    [Chk.must (1200 ≤ c.parm 16 2 && c.parm 16 2 ≤ 3600 && 1 ≤ c.parm 18 1 && c.parm 18 1 ≤ 16) 0x1101,
     Chk.must (c.onlyNamed [(16, 3)]) 0x0304]

/-- A cap that arrives in the floor state is held; a scheduled one is thereby delayed, a breach of its queue's partition. -/
def effCapSet (s : State) (c : Cmd) : State :=
  let s :=
    if s.floored then
      let s := { s with pwr := { s.pwr with heldCap := some (c.parm 16 2, c.parm 18 1) } }
      if pAtFurrow c.pkt then s.breach 1 (s.qPart c.q) (s.qPart c.q) 0xFF else s
    else s.putCap (c.parm 16 2) (c.parm 18 1)
  c.done s 0 0

/-- Entry `k` of the table that PHASE_TABLE carries. -/
def Cmd.phase (c : Cmd) (k : Nat) : Nat := bits (c.dnum (8 * k) 8) 39 0

def chkPhaseTable (s : State) (c : Cmd) : Chk :=
  Chk.all
    [Chk.must (!s.globalDet) 0x0E01, Chk.must (pParamLen c.pkt == 128) 0x0304,
     Chk.must ((below 16).all fun k => bits (c.phase k) 15 0 ≤ 20000 && bits (c.phase k) 31 16 ≤ 20000) 0x0304]

def effPhaseTable (s : State) (c : Cmd) : State :=
  c.done ((below 16).foldl (fun s k => s.wr (aPwrPhase c.target k) (c.phase k)) s) 0 0

end Sys2Proof.Machine
end

