-- ==== Sys2Proof/Machine/HbmRows.lean ====
section
/-! DEFINITION. The stacked memory's own rows (R295 to R310): block reads and writes, the narrow path, the patrol scrub, the stacks'
temperature, migration. -/

namespace Sys2Proof.Machine

/-- A request reaches a populated block of a stack that issues; others wait for their stack (R306). -/
def State.hbmServes (s : State) (a : Nat) : Bool := s.boot.alive && a < hbmEnd && !(s.stack (hbmStack a)).stopped

/-- HBM_READ: the block of an address is read with so many symbols in error; what the requester gets is kept. -/
def execHbmRead (addr bad : Nat) (s : State) : Res :=
  if s.hbmServes addr then
    let (s, d) := s.hbmJudge addr bad
    .next { s with hbm := { s.hbm with lastRead := some (addr - addr % 64, d) } }
  else .next s

/-- HBM_WRITE: bytes within one block. -/
def execHbmWrite (addr : Nat) (data : List Byte) (s : State) : Res :=
  if s.hbmServes addr && addr % 64 + data.length ≤ 64 then .next (s.hbmPut addr data) else .next s

/-- NARROW_REQUEST: 8, 16 or 32 bytes, naturally aligned; it waits in the coalescer with those of its block. -/
def execNarrowRequest (wr : Bool) (addr size : Nat) (data : BitVec 256) (s : State) : Res :=
  if s.boot.alive && addr < hbmEnd && (size = 8 || size = 16 || size = 32) && addr % size = 0 then
    let n : Narrow :=
      if wr then { wr := true, bad := false, off := addr % 64, size := size, data := data }
      else
        let p := s.hbm.poisoned addr
        { wr := false, bad := p, off := addr % 64, size := size
          data := if p then 0 else BitVec.ofNat 256 (mval s.hbm.mem addr size) }
    let s := if wr then s.hbmPut addr (leBytes size data.toNat) else s
    .next { s with hbm := { s.hbm with coal := sins s.hbm.coal (addr / 64) (sget [] s.hbm.coal (addr / 64) ++ [n]) } }
  else .next s

/-- COALESCER_TIMEOUT: 64 cycles of domain 8 have passed since the block's first request. -/
def execCoalescerTimeout (block : Nat) (s : State) : Res :=
  if s.hbmServes (64 * block) then .next (s.drainBlock block) else .next s

/-- SCRUB_READ: the patrol scrub reads a block; with a write to it since, its correction is discarded. -/
def execScrubRead (addr bad : Nat) (written : Bool) (s : State) : Res :=
  if s.hbmServes addr then
    if written && bad != 1 then .next s else .next (s.hbmJudge addr bad).1
  else .next s

/-- HBM_TEMP_SAMPLE: above 105 degrees the stack stops and the package enters the floor state, until it has fallen below 102 (R306,
R506); the throttle step follows R305, and its change is a timing event. -/
def execHbmTempSample (stack temp : Nat) (s : State) : Res :=
  if !(s.boot.alive && stack < 8) then .next s
  else
    let a := aHbmStackStatus stack
    let s := (s.setFld a 39 32 (min 255 temp)).setFld a 47 40 (max (s.fld a 47 40) (min 255 temp))
    let old := s.fld a 31 30
    let new := thermNext 85 90 95 temp old
    let s := if new = old then s else (s.setFld a 31 30 new).detEvent 2 none stack
    let v := s.stack stack
    if 105 < temp then
      let s := (s.setStack stack { v with stopped := true }).setFlag a 63
      .next ({ s with pwr := { s.pwr with hbmTrip := true } }.floorEnter)
    else if v.stopped && temp < 102 then
      let s := s.setStack stack { v with stopped := false }
      if (below 8).any fun k => (s.stack k).stopped then .next s
      else .next ({ s with pwr := { s.pwr with hbmTrip := false } }.floorLeave)
    else .next s

/-- Granules of a pseudo-channel, R294. -/
def pcGranules : Nat := 5859375

/-- MIGRATION_COPY: the next granule of the first retired pseudo-channel of a stack is copied; where a granule lies changes nothing
that a requester sees (R310). -/
def execMigrationCopy (stack : Nat) (s : State) : Res :=
  if s.boot.alive && stack < 8 then
    let v := s.stack stack
    match v.mig with
    | [] => .next s
    | (n, u) :: rest =>
      .next (s.setStack stack { v with mig := if u + 1 < pcGranules then (n, u + 1) :: rest else rest })
  else .next s

end Sys2Proof.Machine
end

