-- ==== Sys2Proof/Machine/Ras.lean ====
section
/-! DEFINITION. Fault containment and self-repair (R466 to R489): tile faults and spare tiles, the steward pairs, ERRLOG_READ and REPAIR, and the
bandwidth shares of a window. -/

namespace Sys2Proof.Machine

/-! ### Tile faults, R469 to R473 -/

/-- The spare that takes a retired tile's number: the lowest physical index of the die that serves no number and is not retired. -/
def State.spare? (s : State) (d : Nat) : Option Nat :=
  ((below 156).map fun n => 156 * d + n).find? fun k => !s.isMapped k && !(s.tile k).retired

/-- Requests of tiles whose responses are discarded. -/
def State.abandon (s : State) (ks : List Nat) : State :=
  { s with
    fab :=
      { s.fab with
        outst := s.fab.outst.map fun o =>
          match o.isFor with
          | .tile t _ => if ks.contains t then { o with isFor := .nobody } else o
          | _ => o } }

/-- The tile is retired: it reads RETIRED, and the repair record names it. -/
def State.retireTile (s : State) (k : Nat) : State :=
  let s := s.setTile k { Tile.zero with retired := true }
  { s with
    ras :=
      { s.ras with
        badTiles := s.ras.badTiles ++ [k]
        map := s.ras.map.filter fun e => !(e.1 / 156 == k / 156 && e.2 == k % 156 + 1) } }

/-- The operation on the tiles, if its work is not over: it has not fixed its end, and no cancellation is on its way. -/
def State.faultOp (s : State) (k : Nat) : Option Nat :=
  (s.opOfTile k).bind fun i =>
    match s.hslot i with
    | some h => if h.ending.isNone && h.state != .cancelling && !(h.late && h.isProg) then some i else none
    | none => none

/-- A spare serves logical tile `l` of a partition: cleared, powered, its image loaded, a tile of the operations that had `k`. -/
def State.takeSpare (s : State) (p k l x : Nat) : State :=
  let s := { s with ras := { s.ras with map := sput 0 s.ras.map (156 * (k / 156) + l) (x % 156 + 1) } }
  let s := s.setTile x { Tile.zero with gated := false }
  let s := if (s.part p).loaded then s.loadTile p x else s
  { s with
    handles := smapv s.handles fun _ h =>
      if h.state.live then { h with tiles := h.tiles.map fun t => if t = k then x else t } else h }

/-- The partition's operation stops and is rolled back; it starts again from its beginning at the next furrow boundary, or, when it is
suspended, at its RESUME. -/
def State.stopForRepair (s : State) (i : Nat) : State :=
  match s.hslot i with
  | none => s
  | some h =>
    if h.state = .suspended then s
    else
      let s := h.tiles.foldl (fun s t => s.modTile t fun x => { x.discard with run := .running, stopped := true, save := none }) s
      let s := (s.abandon h.tiles).rollback i
      s.modHslot i fun h => { h with resumeAt := some s.nextFurrow, late := false }

/-- A fault of a tile that cannot be corrected, or REPAIR's retirement of it (R471). -/
def State.tileFault (s : State) (k : Nat) : State :=
  if (s.tile k).retired then s
  else
    let part := s.tilePart? k
    let s := s.errRecord { event := 2, cls := 1, sev := none, part := part, loc := locTile s k, addr := 0, data := [] }
    match part, s.logical? k with
    | some p, some l =>
      let op := s.faultOp k
      let susp := (op.bind s.hslot).any fun h => h.state == .suspended
      let s := (match op with
        | some i => s.stopForRepair i
        | none => s).detEvent 7 (some p) 0
      match s.spare? (k / 156) with
      | some x =>
        let s := (s.retireTile k).takeSpare p k l x
        match op with
        | some _ =>
          s.modTile x fun t => { t with run := if susp then .suspended else .running, stopped := true }
        | none => s
      | none =>
        let ops := s.liveOps fun h => h.part == p && !h.tiles.isEmpty
        let s := ops.foldl
          (fun s i =>
            match s.hslot i with
            | some h => (((s.haltTiles h.tiles).abandon h.tiles).rollback i).endOp i 0x0305 ((k / 156) * 256 + k % 156)
            | none => s) s
        ((s.dropPart p).setPart p Part.zero).retireTile k
    | _, _ => s.retireTile k

/-- An operation starts again from its beginning: its tiles, with the furrows since its start in their bias (R471); the solves of a
batch (R284). -/
def State.startAgain (s : State) (i : Nat) : State :=
  match s.hslot i with
  | none => s
  | some h =>
    if h.isProg then s.beginProg i (aheadOf s.furrow h.startFurrow)
    else if h.opcode.toNat = opSOLVE then
      let s := h.tiles.foldl (fun s k => s.modTile k Tile.solve) s
      { s with batches := smapv s.batches fun _ b => if b.handle = s.hword i then { b with stopped := [] } else b }
    else s

/-- A corrected error of a tile store (R467): counted without a record; above tile_ce_threshold within 24 hours, with
auto_tile_retire, it is a tile fault. -/
def State.tileCorrected (s : State) (k : Nat) : State :=
  let ce := (s.ras.tileCe.filter fun e => s.time.refNs < e.2 + 24 * nsPerHour) ++ [(k, s.time.refNs)]
  let s := { s with ras := { s.ras with tileCe := ce } }
  if s.flag aRasCfg 0 && s.fld aRasCfg 31 16 < (ce.filter fun e => e.1 == k).length then s.tileFault k else s

/-- TILE_FAULT. -/
def execTileFault (t : Nat) (corrected : Bool) (s : State) : Res :=
  if s.up && t < 624 && !(s.tile t).retired then .next (if corrected then s.tileCorrected t else s.tileFault t) else .next s

/-! ### Steward pairs, R477 to R481 -/

/-- The state field of a pair. -/
def pairLo (n : Nat) : Nat := if n = 0 then 54 else 56

def State.pairState (s : State) (n : Nat) : Nat := s.fld aRasSteward (pairLo n + 1) (pairLo n)

/-- The pair in service. -/
def State.activePair (s : State) : Option Nat := (below 2).find? fun n => s.pairState n == 1

/-- The pair in service is retired, and the standby pair takes over. -/
def State.failover (s : State) (n : Nat) : State :=
  let s := (s.setFld aRasSteward (pairLo n + 1) (pairLo n) 2).setFlag aRasStatus 60
  let m := 1 - n
  if s.pairState m = 0 then s.setFld aRasSteward (pairLo m + 1) (pairLo m) 1 else s

/-- An outcome of R478: 1 mismatch, 2 comparator fault, 3 delay-register fault, 4 double trap. -/
def State.stewardFault (s : State) (outcome : Nat) : State :=
  match s.activePair with
  | none => s
  | some n =>
    let s := if outcome ≤ 3 then s.setFld aRasSteward 53 52 outcome else s
    (s.errRecord
      { event := 5 + outcome, cls := 7, sev := none, part := none, loc := n, addr := 0, data := [] }).failover n

/-- LOCKSTEP_INJECTION: the comparator's rails at the injection; all but 10 is a comparator fault. -/
def execLockstepInjection (reported : Nat) (s : State) : Res :=
  if s.up && s.activePair.isSome then
    let s := { s with ras := { s.ras with injectBit := s.ras.injectBit + 1 } }.setFld aRasSteward 47 0 s.furrow
    if reported = 2 then .next s else .next (s.stewardFault 2)
  else .next s

/-- STEWARD_MISMATCH. -/
def execStewardMismatch (outcome : Nat) (s : State) : Res :=
  if s.up && 1 ≤ outcome && outcome ≤ 4 then .next (s.stewardFault outcome) else .next s

/-! ### ERRLOG_READ, R484 -/

/-- Index of the oldest record that is kept. -/
def State.oldestRec (s : State) : Nat := (s.ras.recs.head?.map fun e => e.1).getD (s.fld aRasStatus 31 0)

def chkErrlog (s : State) (c : Cmd) : Chk :=
  Chk.all
    [Chk.must (s.oldestRec ≤ c.parm 16 4 && 1 ≤ c.parm 20 2 && c.parm 20 2 ≤ 1024) 0x0304, c.addrOk s (c.parm 24 8)]

def effErrlog (s : State) (c : Cmd) : State :=
  let rs := (s.ras.recs.filter fun e => c.parm 16 4 ≤ e.1).take (c.parm 20 2)
  c.done (s.dmaWrite c.q (c.parm 24 8) (rs.flatMap fun e => leBytes 64 e.2.toNat)) 0 rs.length

/-! ### REPAIR, R485 -/

/-- A link goes DOWN (R392, R466): an error record, a timing event, and what it carried is issued again. -/
def State.linkFails (s : State) (n : Nat) : State :=
  let s := (s.setLinkState n 4).errRecord
    { event := 2, cls := 3, sev := none, part := none, loc := n, addr := 0, data := [] }
  (s.detEvent 6 none n).linkLost n

/-- A lane moves to the spare (R388); a second failure takes the link DOWN. Lane 4 is the spare itself. -/
def State.laneFails (s : State) (n lane : Nat) : State :=
  if s.flag (aFabLinkStatus n) 7 then s.linkFails n
  else if 4 ≤ lane then s
  else (((s.setFld (aFabLinkStatus n) 7 7 1).setFld (aFabLinkStatus n) 10 8 lane)).detEvent 6 none n

def chkRepair (s : State) (c : Cmd) : Chk :=
  let x := c.parm 17 1
  let y := c.parm 18 1
  match c.parm 16 1 with
  | 0 => Chk.must (x < 4 && y < 156 && c.parm 19 1 == 0 && !(s.tile (156 * x + y)).retired) 0x0304
  | 1 => Chk.must (x < 8 && y < 32 && c.parm 19 1 == 0 && !(s.pcRetired x y)) 0x0304
  | 2 => Chk.must (x < 64 && y < 4 && c.parm 19 1 == 0 && s.linkUp x && !(s.flag (aFabLinkStatus x) 7)) 0x0304
  | 3 =>
    (Chk.must (c.parm 17 3 == 0) 0x0304).andThen fun _ =>
      Chk.must
        ((s.flag aCacheMode 0 || s.flag aCacheStatus 2) && (s.flag aCacheMode 1 || s.flag aCacheStatus 4)) 0x0B01
  | 4 => Chk.must (c.parm 17 3 == 0 && s.activePair.isSome && (below 2).any fun n => s.pairState n == 0) 0x0304
  | _ => .bad 0x0304 0

def effRepair (s : State) (c : Cmd) : State :=
  let x := c.parm 17 1
  let y := c.parm 18 1
  match c.parm 16 1 with
  | 0 => c.done (s.tileFault (156 * x + y)) 0 0
  | 1 =>
    let t := s.askRetire x y
    if t.pcRetired x y then c.done t 0 0 else c.done t 0x0304 0
  | 2 => c.done (s.laneFails x y) 0 0
  | 3 => c.done (s.setFld aCacheMode 1 0 3) 0 0
  | _ =>
    match s.activePair with
    | some n => c.done (s.failover n) 0 0
    | none => c.done s 0x0304 0

/-! ### Die-to-die modules, R22 -/

/-- Modules of connection `conn`, in the order of R20: four of the Seposha ring, four Seposha to Cusojo, four Varirayr to Seposha, two Varirayr
to Cusojo. -/
def modulesOf (conn : Nat) : Nat := if conn < 4 then 8 else if conn < 8 then 4 else if conn < 12 then 6 else 2

/-- D2D_MODULE_FAIL: the module is disabled, and its connection goes on with the others. -/
def execD2dModuleFail (conn module : Nat) (s : State) : Res :=
  if s.boot.alive && conn < 14 && module < modulesOf conn && !(bit (sget 0 s.fab.d2d conn) module) then
    let s := { s with fab := { s.fab with d2d := smod 0 s.fab.d2d conn fun m => m + 2 ^ module } }
    .next (s.errRecord { event := 2, cls := 4, sev := none, part := none, loc := 8 * conn + module, addr := 0, data := [] })
  else .next s

/-! ### Shares, R488 -/

/-- One partition's traffic over the window: below its share, a breach. -/
def State.judgeShare (s : State) (o : ShareObs) : State :=
  let a := aRasPartShare o.part
  let share := if o.resource < 64 then s.fld a 7 0 else s.fld a 15 8
  if o.part < 16 && o.holder < 16 && o.resource < 72 && o.waiting && o.percent < share
      && (o.cause = 2 || o.cause = 4 || o.cause = 5) then
    s.breach o.cause o.part o.holder (if o.resource < 64 then o.resource else o.resource - 64)
  else s

/-- SHARE_WINDOW_END. -/
def execShareWindowEnd (obs : List ShareObs) (s : State) : Res := if s.up then .next (obs.foldl State.judgeShare s) else .next s

end Sys2Proof.Machine
end

