-- ==== Sys2Proof/Machine/TileCtl.lean ====
section
/-! DEFINITION. The control core of a tile (R125 to R145): issuing a bundle with its encoding checks and its S slot, furrow waits, safe
points, SYNC, completion and tokens of the engines, deadlock, and the entry into EXCEPTION. -/

namespace Sys2Proof.Machine

/-! ### Scalars and engines -/

/-- A scalar register; s0 reads 0 (R124). -/
def Tile.sreg (t : Tile) (i : Nat) : Nat := if i = 0 then 0 else (sget 0 t.s i).toNat

/-- Write a scalar register; s0 ignores it. -/
def Tile.setSreg (t : Tile) (i v : Nat) : Tile := if i = 0 then t else { t with s := sput 0 t.s i (BitVec.ofNat 64 v) }

/-- The slot number of an engine: 1 M, 2 V, 3 X. -/
def engSlot : Engine → Nat
  | .m => 1
  | .v => 2
  | .x => 3

/-- Queue and started instructions of an engine. -/
def Tile.queued (t : Tile) : Engine → List QEnt
  | .m => t.qm
  | .v => t.qv
  | .x => t.qx

def Tile.setQueued (t : Tile) (e : Engine) (l : List QEnt) : Tile :=
  match e with
  | .m => { t with qm := l }
  | .v => { t with qv := l }
  | .x => { t with qx := l }

def Tile.begun (t : Tile) : Engine → List QEnt
  | .m => t.em
  | .v => t.ev
  | .x => t.ex

def Tile.setBegun (t : Tile) (e : Engine) (l : List QEnt) : Tile :=
  match e with
  | .m => { t with em := l }
  | .v => { t with ev := l }
  | .x => { t with ex := l }

/-- Entries of a queue, R129. -/
def queueDepth : Engine → Nat
  | .m => 16
  | .v => 32
  | .x => 32

/-- A tile that executes: its program runs, and neither gating nor DEBUG_HALT nor a fault holds it. -/
def State.tileRuns (s : State) (k : Nat) : Bool :=
  let t := s.tile k
  s.up && (t.run == .running || t.run == .suspending) && !t.gated && !t.debug && !t.retired

/-! ### Encoding faults, R131, R132, R143 and R145 -/

/-- The S slot: ops, fn, sel and SAFEPT numbers of R131. -/
def sIllegal (w : W32) : Bool :=
  let o := slotLow w
  match slotOp w with
  | 0x02 => 10 < bits o 3 0
  | 0x0B => 3 < bits o 3 0
  | 0x0C => bits o 13 0 == 0
  | op => 0x0E < op

/-- The V slot: the codes and zero fields of R225, R226 and R234. -/
def vIllegal (w : W32) : Bool :=
  let o := slotLow w
  match slotOp w with
  | 0x00 => false
  | 0x01 => 13 < bits o 4 0
  | 0x02 => 22 < bits o 4 0
  | 0x03 => 6 < bits o 5 3 || bits o 2 0 != 0
  | 0x04 => 6 < bits o 9 7 || bits o 1 0 != 0
  | 0x05 => 6 < bits o 9 7 || bits o 5 0 != 0
  | 0x06 => 0x12 < bits o 10 6 || 0x12 < bits o 5 1
  | 0x07 => if bit o 6 then bits o 4 0 != 0 else bit o 0
  | 0x08 => 2 < bits o 10 8 || bits o 3 0 != 0
  | 0x09 => bits o 13 0 != 0
  | 0x0A => 1 < bits o 13 11 || bits o 8 0 != 0
  | _ => true

/-- The X slot: ops of R132, and the bits of R246 that must be 0. -/
def xIllegal (w : W32) : Bool := 4 < slotOp w || (slotOp w != 0 && bits (slotLow w) 3 0 != 0)

/-- Slot `n` of a bundle: 0 S, 1 M, 2 V, 3 X (R128). -/
def bundleSlot (b : BitVec 128) (n : Nat) : W32 := BitVec.ofNat 32 (b.toNat >>> (32 * n))

/-- An encoding fault in a slot. -/
def slotIllegal (b : BitVec 128) (n : Nat) : Bool :=
  let w := bundleSlot b n
  match n with
  | 0 => sIllegal w
  | 1 => 6 < slotOp w
  | 2 => vIllegal w
  | _ => xIllegal w

/-! ### The S slot, R131 and R203 -/

/-- The ALU: no flags, 64-bit wrap, shifts by the full count of rt. -/
def sAlu (fn a b : Nat) : Nat :=
  match fn with
  | 0 => (a + b) % 2 ^ 64
  | 1 => (a + 2 ^ 64 - b) % 2 ^ 64
  | 2 => a &&& b
  | 3 => a ||| b
  | 4 => a ^^^ b
  | 5 => (iShl 64 a b).1
  | 6 => (iShr 64 a b).1
  | 7 => (iSar 64 a b).1
  | 8 => (a * b) % 2 ^ 64
  | 9 => b2n (sint 64 a < sint 64 b)
  | _ => b2n (a < b)

/-- What SYS answers, R131: index in the partition on this die, die, tiles of the partition on this die, program furrow. -/
def State.sysRead (s : State) (k p sel : Nat) : Nat :=
  let r := (s.partRun p (k / 156)).getD (0, 0)
  match sel with
  | 0 => (s.logical? k).getD 0 - r.1
  | 1 => k / 156
  | 2 => r.2
  | _ => s.progFurrow (s.tile k)

/-- The tile whose safe points change the power phase (R500): the lowest logical tile on the lowest die of the partition. -/
def State.leadTile (s : State) (p : Nat) : Option Nat := (s.partTiles p).head?

/-- A SAFEPT of the lead tile whose number the image maps changes the partition's power phase at the next furrow (R500). -/
def State.phaseAsk (s : State) (k p number : Nat) : State :=
  if s.leadTile p = some k then
    match s.imagePhase p number with
    | some ph => { s with sched := s.sched ++ [{ furrow := s.nextFurrow, row := 1, kind := .phase p ph }] }
    | none => s
  else s

/-- A signed 9-bit immediate. -/
def imm9 (o : Nat) : Int := sint 9 o

/-- The effect of an S slot on its tile, whose pc already names the next bundle; the cause of a fault that depends on state. -/
def State.sAct (s : State) (k p : Nat) (t : Tile) (pc : Nat) (w : W32) : Tile × Option Nat :=
  let o := slotLow w
  let rd := bits o 18 14
  let rs := t.sreg (bits o 13 9)
  let ad := wrapInt 64 ((rs : Int) + 8 * imm9 o)
  let br := fun (c : Bool) => if c then { t with pc := wrapInt 13 ((pc : Int) + imm9 o) } else t
  let bad := if progEnd < ad + 8 then some 2 else if ad % 8 ≠ 0 then some 3 else none
  match slotOp w with
  | 0x01 => (t.setSreg rd (wrapInt 64 ((rs : Int) + imm9 o)), none)
  | 0x02 => (t.setSreg rd (sAlu (bits o 3 0) rs (t.sreg (bits o 8 4))), none)
  | 0x03 => (t.setSreg rd ((t.sreg rd * 2 ^ 14 + bits o 13 0) % 2 ^ 64), none)
  | 0x04 => if bad.isSome then (t, bad) else (t.setSreg rd (mval t.store ad 8), none)
  | 0x05 => if bad.isSome then (t, bad) else ({ t with store := mstore t.store ad 8 (t.sreg rd) }, none)
  | 0x06 => (br (t.sreg rd == rs), none)
  | 0x07 => (br (t.sreg rd != rs), none)
  | 0x08 => (br (sint 64 (t.sreg rd) < sint 64 rs), none)
  | 0x09 => ({ t with pc := bits o 11 0 }, none)
  | 0x0B => (t.setSreg rd (s.sysRead k p (bits o 3 0)), none)
  | 0x0C =>
    let n := bits o 13 0
    let k0 := match s.opOfTile k with
      | some i => ((s.hslot i).map fun h => h.safeNo).getD 0
      | none => 0
    ({ t with safeptLast := n, atSafe := t.run == .suspending && k0 ≤ n }, none)
  | 0x0D => ({ t with stopped := true }, none)
  | 0x0E => (t, some 10)
  | _ => (t, none)

/-! ### Issue, R129, R130, R133, R135 and R139 -/

/-- The queue entry of a slot: with the scalar registers as they stood before the S slot of its bundle (R130). -/
def Tile.entry (t : Tile) (e : Engine) (w : W32) (pc : Nat) : QEnt :=
  let o := slotLow w
  let rs := match e with
    | .v =>
      match slotOp w with
      | 0x03 => bits o 11 8
      | 0x04 => bits o 6 2
      | 0x09 => bits o 18 14
      | 0x0A => bits o 18 14
      | _ => bits o 10 7
    | _ => bits o 13 9
  let rt := bits o 8 4
  { word := w, bundle := pc, ord := t.issued, x := BitVec.ofNat 64 (t.sreg rs), y := BitVec.ofNat 64 (t.sreg rt)
    sr := false }

/-- A slot takes a queue entry, unless it is op 0 with take and post both 0. -/
def slotQueues (w : W32) : Bool := slotOp w != 0 || slotTake w != 0 || slotPost w != 0

/-- Whether the queue of a slot has room. -/
def Tile.roomFor (t : Tile) (e : Engine) (w : W32) : Bool := !(slotQueues w) || (t.queued e).length < queueDepth e

def Tile.enqueue (t : Tile) (e : Engine) (w : W32) (pc : Nat) : Tile :=
  if slotQueues w then t.setQueued e (t.queued e ++ [t.entry e w pc]) else t

/-- The time stands on the boundary of the current furrow. -/
def State.onEdge (s : State) : Bool := s.boundary s.furrow == (s.time.ns : Int)

/-- FWAIT meets its target: held for the edge, or late because the edge lies behind. -/
def State.fwaitStart (s : State) (k : Nat) (w : W32) : State :=
  let t := s.tile k
  let o := slotLow w
  let target := wrapInt 48 ((t.sreg (bits o 18 14) : Int) + imm9 o)
  let pf := s.progFurrow t
  s.modTile k fun t =>
    { t.take (slotTake w) with fwait := .hold target (decide (target < pf) || (decide (target = pf) && !s.onEdge)) }

/-- A bundle that nothing holds back issues: M, V and X are queued, S executes and posts. -/
def State.issueNow (s : State) (k p : Nat) (b : BitVec 128) : State :=
  let t := s.tile k
  let pc := t.pc
  let w := bundleSlot b 0
  let t := if slotOp w = 0x0A then t else t.take (slotTake w)
  let t := ((t.enqueue .m (bundleSlot b 1) pc).enqueue .v (bundleSlot b 2) pc).enqueue .x (bundleSlot b 3) pc
  let ord := t.issued
  let r := s.sAct k p { t with pc := (pc + 1) % 2 ^ 13, issued := t.issued + 1, fwait := .free } pc w
  let s := s.setTile k r.1
  match r.2 with
  | some cause => s.tileExc k ord pc 0 cause
  | none =>
    let s := if slotOp w = 0x0C then s.phaseAsk k p (bits (slotLow w) 13 0) else s
    s.tilePost k (slotPost w) ord pc 0

/-- BUNDLE_ISSUE. -/
def State.bundleIssue (s : State) (k p : Nat) : State :=
  let t := s.tile k
  if t.stopped || t.excPend.isSome || t.atSafe || s.winBusy p false then s
  else if s.imageCount p ≤ t.pc then s.tileExc k t.issued t.pc 0 9
  else
    let b := sget 0 t.bundles t.pc
    match (below 4).filter (slotIllegal b) with
    | n :: more =>
      let s := s.tileExc k t.issued t.pc n 1
      if more.isEmpty then s else s.modTile k fun t => { t with excMore := true }
    | [] =>
      let w := bundleSlot b 0
      let room := t.roomFor .m (bundleSlot b 1) && t.roomFor .v (bundleSlot b 2) && t.roomFor .x (bundleSlot b 3)
      if slotOp w = 0x0A then
        match t.fwait with
        | .free => if t.canTake (slotTake w) then s.fwaitStart k w else s
        | .hold _ _ => s
        | .go => if room then s.issueNow k p b else s
      else if room && t.canTake (slotTake w) then s.issueNow k p b
      else s

/-- BUNDLE_ISSUE: the tile issues its next bundle, if nothing holds it back. -/
def execBundleIssue (t : Nat) (s : State) : Res :=
  match s.tilePart? t with
  | some p => .next (if s.tileRuns t then s.bundleIssue t p else s)
  | none => .next s

/-- FWAIT_RELEASE: the target is reached, or had passed when the tile came to the wait (R139). -/
def execFwaitRelease (t : Nat) (s : State) : Res :=
  let x := s.tile t
  if !(s.tileRuns t) then .next s
  else
    match x.fwait with
    | .hold target late =>
      if s.progFurrow x < target then .next s
      else if late then
        .next (s.setTile t { x with fwait := .go, furrowLate := true, lateCount := satAdd 16 x.lateCount 1 })
      else .next (s.setTile t { x with fwait := .go })
    | _ => .next s

/-! ### Safe points, R140 -/

/-- Queues and engines are empty. -/
def Tile.drained (t : Tile) : Bool :=
  t.qm.isEmpty && t.qv.isEmpty && t.qx.isEmpty && t.em.isEmpty && t.ev.isEmpty && t.ex.isEmpty

/-- SAFEPOINT_SAVE: at the chosen safe point, with the queues empty: a live bank or combiner lets the tile go on; otherwise it saves and is
SUSPENDED. -/
def execSafepointSave (t : Nat) (s : State) : Res :=
  let x := s.tile t
  if !(s.tileRuns t && x.atSafe && x.drained && x.excPend.isNone) then .next s
  else if x.mx.accLive != 0 || x.mx.combLive then .next (s.setTile t { x with atSafe := false })
  else .next (s.setTile t { x with save := some x.saveArea, run := .suspended })

/-! ### Engines, R132 to R136 -/

/-- The head of an engine's queue, if it can start: the take token is there (R133). -/
def State.engHead (s : State) (k : Nat) (e : Engine) : Option QEnt :=
  if s.tileRuns k then
    match (s.tile k).queued e with
    | h :: _ => if (s.tile k).canTake (slotTake h.word) then some h else none
    | [] => none
  else none

/-- The head of a queue starts: its token is taken, and it joins the started instructions. -/
def State.engStart (s : State) (k : Nat) (e : Engine) (h : QEnt) : State :=
  s.modTile k fun t => (((t.take (slotTake h.word)).setQueued e ((t.queued e).drop 1)).setBegun e (t.begun e ++ [h]))

/-- SYNC: op 0 at the head of a queue; it takes no time, so behind nothing it completes at once. -/
def execSync (t : Nat) (eng : Engine) (s : State) : Res :=
  match s.engHead t eng with
  | some h =>
    if slotOp h.word != 0 then .next s
    else if ((s.tile t).begun eng).isEmpty then
      let s := s.modTile t fun x => (x.take (slotTake h.word)).setQueued eng ((x.queued eng).drop 1)
      .next (s.tilePost t (slotPost h.word) h.ord h.bundle (engSlot eng))
    else .next (s.engStart t eng h)
  | none => .next s

/-- Completed SYNCs at the front of the started instructions post in turn. -/
def syncsDone : Nat → State → Nat → Engine → State
  | 0, s, _, _ => s
  | fuel + 1, s, k, e =>
    match (s.tile k).begun e with
    | h :: more =>
      if slotOp h.word = 0 then
        syncsDone fuel ((s.modTile k fun t => t.setBegun e more).tilePost k (slotPost h.word) h.ord h.bundle (engSlot e)) k e
      else s
    | [] => s

/-- An X instruction is complete only when every one of its requests is answered (R134). -/
def Tile.answered (t : Tile) (e : Engine) (h : QEnt) : Bool := e != .x || t.jobs.all fun j => j.ent.ord != h.ord

/-- What the completion of an M instruction shows in TILE_MX_STATUS: a loaded bay bank; a bank kept live, or not (R165). -/
def Mx.complete (m : Mx) (d : MDesc) (w : W32) : Mx :=
  let o := slotLow w
  let banks := if d.limb then 2 ^ limbPlanes d.act - 1 else 2 ^ d.bank
  match slotOp w with
  | 0 => m
  | 1 => { m with bayValid := BitVec.ofNat 2 (m.bayValid.toNat ||| 2 ^ bits o 3 3) }
  | _ =>
    if bit o 0 then { m with accLive := BitVec.ofNat 8 (m.accLive.toNat ||| banks) }
    else { m with accLive := BitVec.ofNat 8 (m.accLive.toNat - (m.accLive.toNat &&& banks)) }

/-- The descriptor that an M instruction names. -/
def Tile.mdesc (t : Tile) (w : W32) : MDesc :=
  let i := 4 * bits (slotLow w) 18 14
  ⟨(sget 0 t.dsc i).toNat, (sget 0 t.dsc (i + 1)).toNat, (sget 0 t.dsc (i + 2)).toNat, (sget 0 t.dsc (i + 3)).toNat⟩

/-- What completion changes beside the token. -/
def Tile.complete (t : Tile) (e : Engine) (h : QEnt) : Tile :=
  match e with
  | .m => { t with mx := t.mx.complete (t.mdesc h.word) h.word }
  | .v => if h.sr then { t with vec := { t.vec with sr := t.vec.sr + 1 } } else t
  | .x => t

/-- ENGINE_COMPLETE: the oldest started instruction of an engine completes; its results are in place, its token is posted, and an SR convert
advances sr_counter (R192). -/
def execEngineComplete (t : Nat) (eng : Engine) (s : State) : Res :=
  let x := s.tile t
  if !(s.up && (x.run == .running || x.run == .suspending) && !x.gated && !x.debug && !x.retired) then .next s
  else
    match x.begun eng with
    | h :: more =>
      if x.answered eng h then
        let s := s.modTile t fun x => (x.complete eng h).setBegun eng more
        .next (syncsDone more.length (s.tilePost t (slotPost h.word) h.ord h.bundle (engSlot eng)) t eng)
      else .next s
    | [] => .next s

/-! ### Deadlock and exception entry, R138, R144 and R145 -/

/-- The stalled instructions that R138 names: heads of the queues, and the S slot of the bundle held at issue: order, bundle, slot. -/
def Tile.stalled (t : Tile) : List (Nat × Nat × Nat) :=
  let hd := fun (e : Engine) => (t.queued e).head?.toList.map fun h => (4 * h.ord + engSlot e, h.bundle, engSlot e)
  hd .m ++ hd .v ++ hd .x ++ (if t.stopped || t.atSafe then [] else [(4 * t.issued, t.pc, 0)])

/-- The earliest of them. -/
def earliest : List (Nat × Nat × Nat) → Option (Nat × Nat × Nat)
  | [] => none
  | x :: xs => some (xs.foldl (fun m y => if y.1 < m.1 then y else m) x)

/-- Nothing executes and nothing can start. -/
def State.tileStuck (s : State) (k p : Nat) : Bool :=
  let t := s.tile k
  let b := sget 0 t.bundles t.pc
  let room := t.roomFor .m (bundleSlot b 1) && t.roomFor .v (bundleSlot b 2) && t.roomFor .x (bundleSlot b 3)
  let sReady := !(t.stopped || t.atSafe)
    && (s.imageCount p ≤ t.pc || (below 4).any (slotIllegal b) || (room && t.canTake (slotTake (bundleSlot b 0))))
  t.em.isEmpty && t.ev.isEmpty && t.ex.isEmpty && decide (t.fwait = .free) && t.excPend.isNone && !(s.winBusy p false)
    && (s.engHead k .m).isNone && (s.engHead k .v).isNone && (s.engHead k .x).isNone && !sReady

/-- TOKEN_DEADLOCK: 2^stall_log2 tclk have passed without progress. -/
def execTokenDeadlock (t : Nat) (s : State) : Res :=
  match s.tilePart? t with
  | none => .next s
  | some p =>
    if s.tileRuns t && s.tileStuck t p then
      match earliest (s.tile t).stalled with
      | some (o, b, n) => .next (s.tileExc t (o / 4) b n 5)
      | none => .next s
    else .next s

/-- An operation ends because of a fault, at the next furrow boundary: the first one counts (R144, R263). -/
def State.opFault (s : State) (i status : Nat) (detail : W64) : State :=
  s.modHslot i fun h =>
    if h.ending.isSome then h else { h with ending := some (s.nextFurrow, BitVec.ofNat 16 status, detail) }

/-- TILE_EXCEPTION_ENTRY: the started instructions have completed, or 256 tclk have passed: what still runs is abandoned, and the
operation ends at the next furrow boundary. -/
def execTileExceptionEntry (t : Nat) (s : State) : Res :=
  let x := s.tile t
  match x.excPend with
  | none => .next s
  | some (_, w) =>
    let s := s.setTile t { x.discard with run := .exception, exc := w, stopped := true }
    let s := { s with
      fab := { s.fab with
        outst := s.fab.outst.map fun (o : Outst) =>
          match o.isFor with
          | .tile k _ => if k = t then { o with isFor := .nobody } else o
          | _ => o } }
    match s.opOfTile t with
    | some i => .next (s.opFault i 0x0401 w)
    | none => .next s

end Sys2Proof.Machine
end

