-- ==== Sys2Proof/Machine/TileMx.lean ====
section
/-! DEFINITION. The matrix arrays of a tile (R148 to R171, R207 to R213): weight bay, products in their fixed order with and without group
scales, implicit convolution, exact limb products and the combiner's intake (R238, R239), and the drain of results. -/

namespace Sys2Proof.Machine

/-! ### Elements -/

/-- The float format of a code, R148; none for integers. -/
def mxFloat (code : Nat) : Option Fmt :=
  match code with
  | 0 => some e4m3
  | 1 => some e5m2
  | 2 => some e3m2
  | 3 => some e2m3
  | 4 => some e2m1
  | 5 => some bf16
  | 6 => some fp16
  | _ => none

/-- Bits of an element. -/
def mxBits (code : Nat) : Nat :=
  match code with
  | 2 => 6
  | 3 => 6
  | 4 => 4
  | 9 => 4
  | 5 => 16
  | 6 => 16
  | _ => 8

/-- Element `i` of a packed run (R183). -/
def elemAt (w x i : Nat) : Nat := bits x (w * i + w - 1) (w * i)

/-- An element as an exact value; INT8 under group scaling is its number, whose 2^-6 R212 brings in as E. -/
def mxVal (code x : Nat) : FVal :=
  match mxFloat code with
  | some f => fdecode f x
  | none =>
    let v := if code = 8 then (x : Int) else sint (mxBits code) x
    .fin (v < 0) v.natAbs 0

/-- An integer element. -/
def mxInt (code x : Nat) : Int := if code = 8 then (x : Int) else sint (mxBits code) x

/-- A group scale: E8M0 or FP8 E4M3 (R184, R208). -/
def scaleVal (isE4 : Bool) (x : Nat) : FVal :=
  if isE4 then fdecode e4m3 x else if x = 255 then .nan false else .fin false 1 ((x : Int) - 127)

/-! ### Column sums, R156, R157, R212 and R213 -/

/-- A value rounded to FP32. -/
def toFp32 (v : FVal) : Nat := (froundV fp32 0 0 v).1

/-- Add terms to a sum in their order, each addition rounded; a fresh sum starts from the first term. -/
def sumTerms (start : Option Nat) (ts : List Nat) : Nat :=
  (ts.foldl (fun (a : Option Nat) t => some (match a with
    | none => t
    | some x => (fadd fp32 0 x t).1)) start).getD 0

/-- The exact sum of two values. -/
def exactAdd (a b : FVal) : FVal :=
  match a, b with
  | .nan _, _ => .nan false
  | _, .nan _ => .nan false
  | .inf n, .inf m => if n = m then .inf n else .nan false
  | .inf n, _ => .inf n
  | _, .inf n => .inf n
  | .fin n1 m1 e1, .fin n2 m2 e2 =>
    let e := min e1 e2
    let x := smant n1 (m1 <<< (e1 - e).toNat) + smant n2 (m2 <<< (e2 - e).toNat)
    .fin (x < 0) x.natAbs e

/-- A value that is zero is +0. -/
def plusZero (v : FVal) : FVal :=
  match v with
  | .fin _ 0 e => .fin false 0 e
  | x => x

/-- T_g: scales times the exact group sum, rounded once. -/
def groupTerm (isInt : Bool) (sa sw : FVal) (ps : List FVal) : Nat :=
  let p := ps.foldl exactAdd (.fin false 0 0)
  let p := if isInt then (fmulV p (.fin false 1 (-12))).1 else p
  toFp32 (plusZero (fmulV (fmulV sa sw).1 p).1)

/-- One activation row as it enters an array: its bytes, none for a row of zeros that reads nothing (R167), and its group scales. -/
structure MRow where
  data : Option Nat
  scales : List Nat
  deriving DecidableEq, Repr

/-- The weight that meets element k in column n: bay element (k, n), or (n, k) for MMULT (R160). -/
def wtAt (code : Nat) (trans : Bool) (bay k n : Nat) : Nat := elemAt (mxBits code) bay (if trans then 64 * n + k else 64 * k + n)

/-- The new accumulator value of column `n`: without group scales, floats in ascending k, integers exact within the row and added with
saturation; with them, term by term. The second part says whether an integer sum saturated. -/
def columnSum (d : MDesc) (trans : Bool) (bay swArea : Nat) (row : MRow) (start : Option Nat) (n : Nat) : Nat × Bool :=
  let ks := below (fmtK d.act)
  let a := fun k => elemAt (mxBits d.act) (row.data.getD 0) k
  let w := fun k => wtAt d.wt trans bay k n
  if d.group ≠ 0 then
    let g := d.groups
    let len := fmtK d.act / g
    let term := fun j =>
      if row.data.isNone then 0
      else groupTerm (d.act == 7) (scaleVal d.scaleE4 ((nth row.scales j).getD 0)) (scaleVal d.scaleE4 (elemAt 8 swArea (4 * n + j)))
        ((upFrom (j * len) len).map fun k => (fmulV (mxVal d.act (a k)) (mxVal d.wt (w k))).1)
    (sumTerms start ((below g).map term), false)
  else if (mxFloat d.act).isSome then
    (sumTerms start (ks.map fun k => toFp32 (fmulV (mxVal d.act (a k)) (mxVal d.wt (w k))).1), false)
  else
    let x := (ks.map fun k => mxInt d.act (a k) * mxInt d.wt (w k)).sum
    let r := satInt 32 true (sint 32 (start.getD 0) + x)
    (r.1, r.2 != 0)

/-- An FP32 pattern is infinite or NaN. -/
def nonfinite (x : Nat) : Bool := bits x 30 23 == 255

/-- One row enters: its 64 columns of the bank. -/
def Mx.addRow (m : Mx) (d : MDesc) (trans acc : Bool) (bay swArea : Nat) (r : Nat) (row : MRow) : Mx :=
  (below 64).foldl
    (fun m n =>
      let key := d.bank * 8192 + r * 64 + n
      let v := columnSum d trans bay swArea row (if acc then some (sget 0 m.acc key).toNat else none) n
      let isF := d.group != 0 || (mxFloat d.act).isSome
      { m with
        acc := sput 0 m.acc key (BitVec.ofNat 32 v.1), accSat := m.accSat || v.2
        accNonfinite := m.accNonfinite || (isF && nonfinite v.1) }) m

/-- Clear an accumulator bank. -/
def Mx.clearBank (m : Mx) (b : Nat) : Mx :=
  { m with acc := sclear m.acc (b * 8192) 8192, accLive := BitVec.ofNat 8 (m.accLive.toNat - (m.accLive.toNat &&& 2 ^ b)) }

/-- Rows of an instruction against a bay bank (R154, R158, R161). -/
def Mx.multiply (m : Mx) (d : MDesc) (trans acc : Bool) (bank : Nat) (rows : List MRow) : Mx :=
  let bay := mval m.bay (16384 * bank) (fmtBlock d.wt)
  let swArea := mval m.bay (16384 * bank + fmtBlock d.wt) 256
  let m := if acc then m else m.clearBank d.bank
  (rows.foldl (fun (r : Mx × Nat) row => (r.1.addRow d trans acc bay swArea r.2 row, r.2 + 1)) (m, 0)).1

/-! ### Results, R161 to R164 -/

/-- The 256 bytes of a row of a bank. -/
def Mx.rowBytes (m : Mx) (b r : Nat) : List Byte := (below 64).flatMap fun n => leBytes 4 (sget 0 m.acc (b * 8192 + r * 64 + n)).toNat

/-- Where result row `r` goes. -/
def MDesc.dstRow (d : MDesc) (y r : Nat) : Nat :=
  if d.toStore then (d.dstAddr + y) % 2 ^ 64 + r * d.dstStride else 4096 * (d.dstAddr % 16) + 256 * r

/-- The result rows stay within the program's tile store, or within the registers. -/
def MDesc.dstFits (d : MDesc) (y rows : Nat) : Bool :=
  rows == 0 || d.dstRow y (rows - 1) + 256 ≤ (if d.toStore then progEnd else 65536)

/-- Write result rows of the named bank. -/
def Tile.putRows (t : Tile) (d : MDesc) (y rows : Nat) : Tile :=
  (below rows).foldl
    (fun t r =>
      let bs := t.mx.rowBytes d.bank r
      if d.toStore then { t with store := mwrite t.store (d.dstRow y r) bs } else { t with treg := mwrite t.treg (d.dstRow y r) bs }) t

/-- Stream posts of an instruction: one for each 16 result rows and one for a final partial group (R164). -/
def State.streamPosts (s : State) (k : Nat) (h : QEnt) (d : MDesc) (rows : Nat) : State :=
  if d.stream then tilePostN ((rows + 15) / 16) s k d.streamTk 1 h else s

/-- The end of a multiplying instruction: with keep 0 its rows go to the destination and the bank is cleared. -/
def State.mFinish (s : State) (k : Nat) (h : QEnt) (d : MDesc) (y rows : Nat) : State :=
  if bit (slotLow h.word) 0 then s
  else
    let s := s.modTile k fun t => let t := t.putRows d y rows; { t with mx := t.mx.clearBank d.bank }
    s.streamPosts k h d rows

/-! ### Where rows come from, R150, R153, R172, R177 and R210 -/

/-- First byte of the Baler area of a tile's partition. -/
def State.balerBase (s : State) (k : Nat) : Nat := 4096 * s.fld (aBayBalerCfg ((s.tilePart? k).getD 0)) 21 12

/-- The oldest released batch with rows to enter, or of 0 rows. -/
def Tile.batch? (t : Tile) : Option Batch := t.bal.batches.head?

/-- Slots of the rows that an instruction takes from the oldest batch: no more than its rows. -/
def MDesc.slots (d : MDesc) (b : Batch) : List Nat := (b.slots.drop b.taken).take d.rows

/-- H of R210. -/
def MDesc.halves (d : MDesc) : Nat := if d.group = 3 && fmtK d.act = 64 then 2 else 1

/-- A tile-store offset formed from a descriptor and a scalar whose bits [5:0] count as 0. -/
def offAdd (a x : Nat) : Nat := (a + (x - x % 64)) % 2 ^ 64

/-- Base addresses of the rows of MMUL and MMULT, and whether they lie in the registers. -/
def State.mAddrs (s : State) (k : Nat) (d : MDesc) (x : Nat) : Bool × List Nat :=
  if d.baler then
    match (s.tile k).batch? with
    | some b => (false, (d.slots b).map fun n => s.balerBase k + 256 * n)
    | none => (false, [])
  else if d.inReg then (true, (below d.rows).map fun r => 4096 * (d.actAddr % 16) + r * fmtRowBytes d.act)
  else (false, (below d.rows).map fun r => offAdd d.actAddr x + r * d.actStride)

/-- A run at a tile-store offset is outside what a program may reach. -/
def beyond (a n : Nat) : Bool := progEnd < a + n

/-- Offset of the first scale byte of row `r` (R210). -/
def MDesc.scaleAt (d : MDesc) (x r : Nat) : Nat := d.scaleAddr + (x / 64 / d.halves) * 512 + 4 * r

/-- The rows of MMUL and MMULT; none when an address is out of range (R153). -/
def State.mRows (s : State) (k : Nat) (d : MDesc) (x : Nat) : Option (List MRow) :=
  let t := s.tile k
  let (inReg, as) := s.mAddrs k d x
  let n := fmtRowBytes d.act
  let sc := if d.group = 0 then [] else (below as.length).map fun r => d.scaleAt x r
  if (!inReg && as.any fun a => beyond a n) || (inReg && as.any fun a => decide (65536 < a + n)) || sc.any fun a => beyond a d.groups then none
  else some (as.zipIdx.map fun e =>
    { data := some (mval (if inReg then t.treg else t.store) e.1 n)
      scales := if d.group = 0 then [] else (mread t.store (d.scaleAt x e.2) d.groups).map fun b => b.toNat })

/-! ### Starting an M instruction -/

/-- Whether an instruction that reads a bay bank has to wait for a BAYLD into it (R159), or for a batch of the Baler (R177). -/
def Tile.mWaits (t : Tile) (h : QEnt) (d : MDesc) : Bool :=
  let reads := slotOp h.word == 2 || slotOp h.word == 3 || slotOp h.word == 4
  (reads && t.em.any fun e => slotOp e.word == 1 && bits (slotLow e.word) 3 3 == bits (slotLow h.word) 3 3)
    || (reads && slotOp h.word != 4 && d.baler && t.batch?.isNone)

/-- The geometry of CONV: the descriptor slot after the named one. -/
def Tile.geo (t : Tile) (w : W32) : Option Geo :=
  let i := bits (slotLow w) 18 14
  if i = 31 then none
  else
    let j := 4 * (i + 1)
    some ⟨(sget 0 t.dsc j).toNat, (sget 0 t.dsc (j + 1)).toNat, (sget 0 t.dsc (j + 2)).toNat, (sget 0 t.dsc (j + 3)).toNat⟩

/-- An instruction does not start in its engine because of a fault that depends on state (R145). -/
def State.engFault (s : State) (k : Nat) (e : Engine) (h : QEnt) (cause : Nat) : State :=
  (s.modTile k fun t => t.take (slotTake h.word)).entExc k (engSlot e) h cause

/-- What an instruction comes to when it starts: the state it leaves, or a fault. -/
abbrev Effect := Except Nat State

/-- The head of the M queue starts, if it is of opcode `op`, and takes effect. A descriptor that PROG_LOAD would have refused, which only
a changed bundle buffer can name, raises ILLEGAL_OP (notes/assumptions 46). -/
def State.mStart (s : State) (k op : Nat) (f : State → QEnt → MDesc → Effect) : State :=
  match s.engHead k .m with
  | none => s
  | some h =>
    let t := s.tile k
    let d := t.mdesc h.word
    if slotOp h.word ≠ op ∨ t.mWaits h d then s
    else if !(d.ok (t.geo h.word) op (slotLow h.word)) then s.engFault k .m h 1
    else
      match f (s.engStart k .m h) h d with
      | .error cause => s.engFault k .m h cause
      | .ok s => s

/-! ### BAYLD, R159 and R209 -/

/-- Bytes that a BAYLD copies: the block, and the scale area when the descriptor has groups. -/
def MDesc.loadBytes (d : MDesc) : Nat := fmtBlock d.wt + (if d.group = 0 then 0 else 256)

def effBayld (k : Nat) (s : State) (h : QEnt) (d : MDesc) : Effect :=
  let b := bits (slotLow h.word) 3 3
  .ok (s.modTile k fun t =>
    { t with
      mx :=
        { t.mx with
          bay := mwrite t.mx.bay (16384 * b) (mread t.store d.wtAddr d.loadBytes)
          bayValid := BitVec.ofNat 2 (t.mx.bayValid.toNat - (t.mx.bayValid.toNat &&& 2 ^ b)) } })

/-- BAYLD copies a weight block, and its scales, into a bay bank. -/
def execBayld (t : Nat) (s : State) : Res := .next (s.mStart t 1 (effBayld t))

/-! ### MMUL and MMULT, R150 and R160 -/

/-- The slots of a batch free as its rows enter, and the batch is consumed with its last row; rows held at the mesh interface take the
freed slots (R173, R177). -/
def Tile.consume (t : Tile) (d : MDesc) : Tile :=
  match t.bal.batches with
  | [] => t
  | b :: more =>
    let gone := d.slots b
    let b' := { b with taken := b.taken + gone.length }
    { t with
      bal :=
        { t.bal with
          used := t.bal.used.filter fun n => !(gone.contains n)
          batches := if b'.slots.length ≤ b'.taken then more else b' :: more } }

/-- A row enters the lowest free slot and joins the unassigned rows; the row at slot offset 0, its tag at 128 (R172, R173). -/
def Tile.balerPut (t : Tile) (base furrow : Nat) (row : BitVec 1024) (tag : W64) : Tile :=
  match (below 256).find? fun n => !(t.bal.used.contains n) with
  | none => { t with bal := { t.bal with heldRows := t.bal.heldRows ++ [(row, tag)], fullStalls := satAdd 16 t.bal.fullStalls 1 } }
  | some n =>
    { t with
      store := mwrite (mwrite t.store (base + 256 * n) (leBytes 128 row.toNat)) (base + 256 * n + 128) (leBytes 8 tag.toNat)
      bal := { t.bal with used := t.bal.used ++ [n], waiting := t.bal.waiting ++ [(n, furrow)] } }

/-- Held rows enter while slots are free. -/
def Tile.balerRefill : Nat → Tile → Nat → Nat → Tile
  | 0, t, _, _ => t
  | fuel + 1, t, base, furrow =>
    match t.bal.heldRows with
    | [] => t
    | (row, tag) :: more =>
      if 256 ≤ t.bal.used.length then t
      else Tile.balerRefill fuel ({ t with bal := { t.bal with heldRows := more } }.balerPut base furrow row tag) base furrow

/-- What MMUL and MMULT share. -/
def effMul (trans : Bool) (k : Nat) (s : State) (h : QEnt) (d : MDesc) : Effect :=
  let o := slotLow h.word
  let y := h.y.toNat - h.y.toNat % 64
  match s.mRows k d h.x.toNat with
  | none => .error 2
  | some rows =>
    if !(bit o 0) && !(d.dstFits y rows.length) then .error 2
    else
      let base := s.balerBase k
      let fur := s.furrow
      let s := s.modTile k fun t =>
        let t := { t with mx := t.mx.multiply d trans (bit o 1) (bits o 3 3) rows }
        if d.baler then let t := t.consume d; t.balerRefill t.bal.heldRows.length base fur else t
      .ok (s.mFinish k h d y rows.length)

/-- MMUL multiplies activation rows by a bay block into an accumulator bank. -/
def execMmul (t : Nat) (s : State) : Res := .next (s.mStart t 2 (effMul false t))

/-- MMULT multiplies by the transposed bay block. -/
def execMmult (t : Nat) (s : State) : Res := .next (s.mStart t 3 (effMul true t))

/-! ### CONV, R166, R167 and R211 -/

/-- The input position of output position `p` under a tap; none when a coordinate falls outside the input. -/
def Geo.inputPos (g : Geo) (tap p : Nat) : Option Nat :=
  let at_ := fun (x i : Nat) => (x * g.stride i + bits tap (8 * i + 7) (8 * i) * g.dil i : Int) - g.pad i
  let ix := at_ (p % g.outW) 0
  let iy := at_ (p / g.outW % g.outH) 1
  let iz := at_ (p / g.outW / g.outH) 2
  if 0 ≤ ix && ix < g.inW && 0 ≤ iy && iy < g.inH && 0 ≤ iz && iz < g.inD then
    some (((iz * g.inH + iy) * g.inW + ix).toNat)
  else none

/-- One row of CONV; none when an address is out of range. -/
def convRow (t : Tile) (d : MDesc) (g : Geo) (x p : Nat) : Option MRow :=
  let c := bits x 39 24
  let n := fmtRowBytes d.act
  match g.inputPos x p with
  | none => some { data := none, scales := [] }
  | some pos =>
    let off := pos * g.posStride + c * n
    let a := if d.inReg then 4096 * (d.actAddr % 16) + off else d.actAddr + off
    let sc := d.scaleAddr + ((c / d.halves) * g.positions + pos) * 4
    if (if d.inReg then decide (65536 < a + n) else beyond a n) || (d.group != 0 && beyond sc d.groups) then none
    else some
      { data := some (mval (if d.inReg then t.treg else t.store) a n)
        scales := if d.group = 0 then [] else (mread t.store sc d.groups).map fun b => b.toNat }

def effConv (k : Nat) (s : State) (h : QEnt) (d : MDesc) : Effect :=
  let o := slotLow h.word
  let t := s.tile k
  match t.geo h.word with
  | none => .error 1
  | some g =>
    match (below d.rows).mapM fun r => convRow t d g h.x.toNat (h.y.toNat + r) with
    | none => .error 2
    | some rows =>
      if !(bit o 0) && !(d.dstFits 0 rows.length) then .error 2
      else
        let s := s.modTile k fun t => { t with mx := t.mx.multiply d false (bit o 1) (bits o 3 3) rows }
        .ok (s.mFinish k h d 0 rows.length)

/-- CONV computes one filter tap for one block of input channels. -/
def execConv (t : Nat) (s : State) : Res := .next (s.mStart t 4 (effConv t))

/-! ### The combiner's intake, R169, R170, R238, R239 and R242 -/

/-- Add to a 128-bit sum with saturation; whether it saturated. -/
def comb128 (c : BitVec 128) (x : Int) : BitVec 128 × Bool :=
  let r := satInt 128 true (c.toInt + x)
  (BitVec.ofNat 128 r.1, r.2 != 0)

/-- A row of the diagonal banks lands in the combiner: it replaces the row's sums when the row is fresh. -/
def Tile.landRow (t : Tile) (planes r : Nat) : Tile :=
  let fresh := sget false t.mx.combFresh r
  let t := { t with mx := { t.mx with combFresh := sput false t.mx.combFresh r false, combLive := true } }
  (below 64).foldl
    (fun t n =>
      let key := r * 64 + n
      let c0 : BitVec 128 := if fresh then 0 else sget 0 t.mx.comb key
      let v := (below planes).foldl
        (fun (a : BitVec 128 × Bool) b =>
          let w := comb128 a.1 (sint 32 (sget 0 t.mx.acc (b * 8192 + key)).toNat * (2 : Int) ^ (8 * b))
          (w.1, a.2 || w.2)) (c0, false)
      { t with
        mx := { t.mx with comb := sput 0 t.mx.comb key v.1 }
        vec := if v.2 then { t.vec with flags := orFlags t.vec.flags fSAT } else t.vec }) t

/-- Clear the diagonal banks and their product counts. -/
def Mx.clearDiag (m : Mx) (planes : Nat) : Mx := { (below planes).foldl Mx.clearBank m with limbCount := [] }

/-- Every diagonal bank is spilled and cleared (R169). -/
def Tile.spill (t : Tile) (planes : Nat) : Tile :=
  let t := (below 128).foldl (fun t r => t.landRow planes r) t
  let live := t.mx.accLive
  { t with mx := { t.mx.clearDiag planes with spillCount := satAdd 16 t.mx.spillCount 1, accLive := live } }

/-- Rows of the diagonal banks go to the combiner (R170); with keep 0 the banks are cleared. -/
def Tile.drainLimb (t : Tile) (planes rows : Nat) (keep : Bool) : Tile :=
  let t := (below rows).foldl (fun t r => t.landRow planes r) t
  if keep then t else { t with mx := t.mx.clearDiag planes }

/-! ### LIMB, R168 and R169 -/

/-- A byte of a limb plane: the top plane is signed. -/
def limbByte (planes p x : Nat) : Int := if p + 1 = planes then sint 8 x else (x : Int)

/-- One pass: plane i of the activations times plane j of the weights into diagonal i + j - (planes - 1), after a spill if the bank would
pass 32,768 products. `act` gives the 64 bytes of a row of a plane as a number, `wt` a weight plane. -/
def Tile.limbPass (t : Tile) (planes rows i j : Nat) (act : Nat → Nat → Nat) (wt : Nat) : Tile :=
  let b := i + j + 1 - planes
  let t := if 32768 < sget 0 t.mx.limbCount b + 64 then t.spill planes else t
  let add := fun (m : SMap W32) (r n : Nat) =>
    let x := ((below 64).map fun k => limbByte planes i (elemAt 8 (act i r) k) * limbByte planes j (elemAt 8 wt (64 * k + n))).sum
    smod 0 m (b * 8192 + r * 64 + n) fun v => BitVec.ofInt 32 (v.toInt + x)
  { t with
    mx :=
      { t.mx with
        acc := (below rows).foldl (fun m r => (below 64).foldl (fun m n => add m r n) m) t.mx.acc
        limbCount := smod 0 t.mx.limbCount b fun v => v + 64 } }

/-- Base of activation row `r` of plane `i`. -/
def MDesc.limbAt (d : MDesc) (x i r : Nat) : Nat :=
  if d.inReg then 4096 * (d.actAddr % 16) + 8192 * i + 64 * r else offAdd d.actAddr x + 8192 * i + r * d.actStride

/-- The passes in their order: j ascending, for each j the paired i ascending. -/
def limbPairs (planes : Nat) : List (Nat × Nat) :=
  (below planes).flatMap fun j => ((below planes).filter fun i => planes ≤ i + j + 1).map fun i => (i, j)

def effLimb (k : Nat) (s : State) (h : QEnt) (d : MDesc) : Effect :=
  let o := slotLow h.word
  let ps := limbPlanes d.act
  let x := h.x.toNat
  let t := s.tile k
  let bad := (below ps).any fun i => (below d.rows).any fun r =>
    let a := d.limbAt x i r
    if d.inReg then decide (65536 < a + 64) else beyond a 64
  if bad then .error 2
  else
    let act := fun (i r : Nat) => mval (if d.inReg then t.treg else t.store) (d.limbAt x i r) 64
    let wt := fun (j : Nat) => mval t.store (d.wtAddr + 4096 * j) 4096
    let first := s.free1 % 2
    let bay := [ps - 2, ps - 1].foldl
      (fun m j => mwrite m (16384 * ((first + j) % 2)) (mread t.store (d.wtAddr + 4096 * j) 4096)) t.mx.bay
    let mx := { t.mx with bay := bay, bayValid := 0, combQ64 := d.act == 10 }
    let mx := if bit o 1 then mx
      else { mx.clearDiag ps with combFresh := (below 128).map fun r => (r, true) }
    let t := (limbPairs ps).foldl (fun t e => t.limbPass ps d.rows e.1 e.2 act (wt e.2)) { t with mx := mx }
    let t := if bit o 0 then t else t.drainLimb ps d.rows false
    .ok ((s.setTile k t).freed)

/-- LIMB performs the passes of an exact limb product into the diagonal banks. Which bay bank takes its first weight plane is not stated:
a free value. -/
def execLimb (t : Nat) (s : State) : Res := .next (s.mStart t 5 (effLimb t))

/-! ### DRAIN, R163 and R170 -/

def effDrain (k : Nat) (s : State) (h : QEnt) (d : MDesc) : Effect :=
  let keep := bit (slotLow h.word) 0
  if d.limb then .ok (s.modTile k fun t => t.drainLimb (limbPlanes d.act) d.rows keep)
  else
    let y := h.y.toNat - h.y.toNat % 64
    if !(d.dstFits y d.rows) then .error 2
    else
      let s := s.modTile k fun t =>
        let t := t.putRows d y d.rows
        if keep then t else { t with mx := t.mx.clearBank d.bank }
      .ok (s.streamPosts k h d d.rows)

/-- DRAIN writes an accumulator bank to its destination, or the diagonal banks to the combiner. -/
def execDrain (t : Nat) (s : State) : Res := .next (s.mStart t 6 (effDrain t))

/-! ### The Baler, R172 to R176 -/

/-- Post the partition's Baler token (R176). A tile that runs no program keeps its tokens. -/
def State.balerPost (s : State) (k p : Nat) : State :=
  let t := s.tile k
  if t.run = .running ∨ t.run = .suspending then s.tilePost k (s.fld (aBayBalerCfg p) 47 44) t.issued t.pc 1 else s

/-- The batch record, R172. -/
def balerRecord (tags : List Nat) (slots : List Nat) (furrow : Nat) : List Byte :=
  let n := slots.length
  let tagBytes := (tags.flatMap fun x => leBytes 8 x) ++ zeros (8 * (64 - n))
  let slotBytes := (slots.map fun x => BitVec.ofNat 8 x) ++ zeros (64 - n)
  leBytes 2 n ++ leBytes 6 furrow ++ tagBytes ++ slotBytes

/-- Batches that are due are released while their record overwrites no unconsumed batch's. -/
def balerFlush : Nat → State → Nat → Nat → State
  | 0, s, _, _ => s
  | fuel + 1, s, k, p =>
    let t := s.tile k
    match t.bal.formed with
    | [] => s
    | slots :: more =>
      let num := t.bal.released
      if t.bal.batches.any fun b => b.num + 16 ≤ num then s
      else
        let base := s.balerBase k
        let tags := slots.map fun n => mval t.store (base + 256 * n + 128) 8
        let t := { t with
          store := mwrite t.store (base + 65536 + 1024 * (num % 16)) (balerRecord tags slots s.furrow)
          bal := { t.bal with
            formed := more, released := num + 1
            batches := t.bal.batches ++ [{ num := num, slots := slots, taken := 0 }] } }
        balerFlush fuel ((s.setTile k t).balerPost k p) k p

/-- A batch of the oldest unassigned rows, up to batch_max, falls due. -/
def Tile.balerForm (t : Tile) (most : Nat) : Tile :=
  { t with
    bal := { t.bal with
      formed := t.bal.formed ++ [(t.bal.waiting.take most).map fun e => e.1], waiting := t.bal.waiting.drop most } }

/-- Form batches until no row is unassigned. -/
def Tile.balerFormAll : Nat → Tile → Nat → Tile
  | 0, t, _ => t
  | fuel + 1, t, most => if t.bal.waiting.isEmpty then t else Tile.balerFormAll fuel (t.balerForm most) most

/-- Batches that fall due now outside deterministic mode (R174): batch_max rows wait, or the oldest row's time has come. -/
def State.balerDue (s : State) (k p : Nat) : Bool :=
  let t := s.tile k
  let c := aBayBalerCfg p
  s.fld c 43 37 ≤ t.bal.waiting.length || match t.bal.waiting with
    | (_, f) :: _ => reached (furrowAdd f (s.fld c 55 48)) s.furrow
    | [] => false

/-- Release what is due. -/
def State.balerTry (s : State) (k p : Nat) : State :=
  let t := s.tile k
  let t := if !s.globalDet && s.balerDue k p then t.balerForm (s.fld (aBayBalerCfg p) 43 37) else t
  balerFlush (t.bal.formed.length + 1) (s.setTile k t) k p

/-- The start of a furrow at a tile's Baler (R174, R175). -/
def State.balerFurrow (s : State) (k p : Nat) : State :=
  let c := aBayBalerCfg p
  if !(s.flag c 63) then s
  else if s.globalDet then
    if s.furrow % s.fld c 55 48 = 0 then
      let t := s.tile k
      let most := s.fld c 43 37
      let t := if t.bal.waiting.isEmpty then t.balerForm most else t.balerFormAll t.bal.waiting.length most
      balerFlush (t.bal.formed.length + 1) (s.setTile k t) k p
    else s
  else s.balerTry k p

/-- A row arrives at a tile's Baler (R173); whether the tile takes it: its partition has an enabled Baler (R260). -/
def State.balerArrive (s : State) (k : Nat) (row : BitVec 1024) (tag : W64) : State × Bool :=
  match s.tilePart? k with
  | none => (s, false)
  | some p =>
    if s.up && s.flag (aBayBalerCfg p) 63 && !(s.tile k).retired then
      let base := s.balerBase k
      let f := s.furrow
      (s.modTile k fun t => t.balerPut base f row tag, true)
    else (s, false)

/-- BALER_RELEASE: the Baler releases a batch that is due. -/
def execBalerRelease (t : Nat) (s : State) : Res :=
  match s.tilePart? t with
  | some p => .next (if s.up && s.flag (aBayBalerCfg p) 63 then s.balerTry t p else s)
  | none => .next s

/-- BALER_ROW_ARRIVAL: a Baler-append row arrives at a tile. -/
def execBalerRowArrival (t : Nat) (row : BitVec 1024) (tag : W64) (s : State) : Res := .next (s.balerArrive t row tag).1

end Sys2Proof.Machine
end

