-- ==== Sys2Proof/Machine/TileX.lean ====
section
/-! DEFINITION. The Shuttle of a tile (R245 to R263, R218 to R220): MOVE, GATHER, SCATTER and TEDDER between the tile store, the tile
registers, global memory and Balers; accumulation at the destination; requests to other packages and their answers. -/

namespace Sys2Proof.Machine

/-! ### Descriptor and layout record, R246 and R247 -/

/-- The descriptor that an X instruction names. -/
def Tile.xdesc (t : Tile) (w : W32) : XDesc :=
  let i := 4 * bits (slotLow w) 18 14
  ⟨(sget 0 t.dsc i).toNat, (sget 0 t.dsc (i + 1)).toNat, (sget 0 t.dsc (i + 2)).toNat, (sget 0 t.dsc (i + 3)).toNat⟩

/-- An X instruction at work: its opcode (1 MOVE, 2 GATHER, 3 SCATTER, 4 TEDDER), descriptor, layout words, and the scalars added to the
source base and to the destination base. -/
structure XIns where
  op : Nat
  d : XDesc
  lay : List Nat
  srcAdd : Nat
  dstAdd : Nat
  deriving DecidableEq, Repr

def Tile.xins (t : Tile) (h : QEnt) (lay : List Nat) : XIns :=
  let d := t.xdesc h.word
  { op := slotOp h.word, d := d, lay := lay, srcAdd := if d.rsToDst then h.y.toNat else h.x.toNat
    dstAdd := if d.rsToDst then h.x.toNat else h.y.toNat }

/-- The 12 words of the record. -/
def Tile.layWords (t : Tile) (d : XDesc) : List Nat := (below 12).map fun i => mval t.store (d.layout + 8 * i) 8

def XIns.word (x : XIns) (i : Nat) : Nat := (nth x.lay i).getD 0
def XIns.ext (x : XIns) (i : Nat) : Nat := bits (x.word i) 63 40 + 1
def XIns.ss (x : XIns) (i : Nat) : Int := sint 40 (x.word i)
def XIns.ds (x : XIns) (i : Nat) : Int := sint 40 (x.word (5 + i))
def XIns.lim (x : XIns) : Nat := bits (x.word 10) 63 40 + 1
def XIns.gdim (x : XIns) : Nat := bits (x.word 10) 39 37
def XIns.idxAddr (x : XIns) : Nat := bits (x.word 10) 21 0
def XIns.perm (x : XIns) (j : Nat) : Nat := x.d.perm j
def XIns.dims (x : XIns) : List Nat := below x.d.ndim

/-- GATHER and SCATTER use an index tensor. -/
def XIns.indexed (x : XIns) : Bool := x.op == 2 || x.op == 3

/-- Element sizes of the two sides (R261). -/
def XIns.sSize (x : XIns) : Nat := if x.op = 4 then (if x.d.tfmt = 0 then 4 else 2) else x.d.esize
def XIns.dSize (x : XIns) : Nat := if x.op = 4 then 4 else x.d.esize

/-- The record fits R247, a TEDDER extent R218, and a Baler row R260. -/
def XIns.layOk (x : XIns) : Bool :=
  let p0 := x.perm 0
  x.dims.all (fun i => bits (x.word (5 + i)) 63 40 == 0) && bits (x.word 10) 36 22 == 0
    && (!x.indexed || x.gdim < x.d.ndim) && (x.op != 4 || x.ext p0 % x.d.block == 0)
    && (x.d.dst != 3 || (x.ss p0 == (x.d.esize : Int) && x.ext p0 * x.d.esize ≤ 128))

/-! ### Addresses, R246, R249, R250 -/

/-- The base of a side in its space: an offset, which may fall below 0, or a 64-bit global address. -/
def sideBase (space word add : Nat) : Int :=
  match space with
  | 0 => (bits word 21 0 : Int) + sint 64 add
  | 1 => (4096 * (word % 16) : Nat) + sint 64 add
  | _ => ((word + add) % 2 ^ 64 : Nat)

def XIns.srcBase (x : XIns) : Int := sideBase x.d.src x.d.x1 x.srcAdd
def XIns.dstBase (x : XIns) : Int := sideBase x.d.dst x.d.x2 x.dstAdd

/-- The largest multiple of a stride that a dimension reaches, with the index limit in place of the extent for an indexed side. -/
def XIns.reachOf (x : XIns) (dst : Bool) (i : Nat) : Int :=
  let n := if (if dst then x.op == 3 else x.op == 2) && i == x.gdim then x.lim else x.ext i
  ((n : Int) - 1) * (if dst then x.ds i else x.ss i)

/-- Lowest and one past the highest byte that a side touches, from its base. -/
def XIns.reach (x : XIns) (dst : Bool) : Int × Int :=
  let rs := x.dims.map fun i => x.reachOf dst i
  ((rs.map fun r => min 0 r).sum, (rs.map fun r => max 0 r).sum + (if dst then x.dSize else x.sSize))

/-- The fault of a side that leaves its space, or whose scalar changes the package field of the descriptor's `word`, R250. -/
def sideFault (space word : Nat) (base lo hi : Int) : Option Nat :=
  match space with
  | 0 => if base + lo < 0 ∨ (progEnd : Int) < base + hi then some 2 else none
  | 1 => if base + lo < 0 ∨ 65536 < base + hi then some 7 else none
  | 2 =>
    let a := base % 2 ^ 48
    if base / 2 ^ 48 ≠ ((word / 2 ^ 48 : Nat) : Int) ∨ a + lo < 0 ∨ 2 ^ 48 < a + hi then some 7 else none
  | _ => none

/-- Rows of a Baler append, and bytes of one. -/
def XIns.rowLen (x : XIns) : Nat := x.ext (x.perm 0)
def XIns.total (x : XIns) : Nat := (x.dims.map x.ext).prod
def XIns.rowCount (x : XIns) : Nat := x.total / x.rowLen

/-- The tensors beside the data that an instruction reads from the tile store: address and length. -/
def XIns.tables (x : XIns) : List (Nat × Nat) :=
  (if x.indexed then [(x.idxAddr, 4 * x.ext x.gdim)] else [])
    ++ (if x.d.dst = 3 then [(x.idxAddr, 8 * x.rowCount)] else [])
    ++ (if x.op = 4 && x.d.smooth then [(x.d.aux, 4 * x.ext (x.perm 0))] else [])

/-- The fault of an instruction at its start, R250 and R256. -/
def XIns.fault (x : XIns) : Option Nat :=
  if !x.layOk then some 7
  else
    let s := x.reach false
    match sideFault x.d.src x.d.x1 x.srcBase s.1 s.2 with
    | some c => some c
    | none =>
      let r := x.reach true
      match sideFault x.d.dst x.d.x2 x.dstBase r.1 r.2 with
      | some c => some c
      | none => if x.tables.any fun e => progEnd < e.1 + e.2 then some 2 else none

/-! ### Iteration, R249 and R255 -/

/-- Coordinate along perm[j] of the `v`-th element visited: perm[0] varies fastest. -/
def XIns.coord (x : XIns) (v j : Nat) : Nat := v / (((below j).map fun i => x.ext (x.perm i)).prod) % x.ext (x.perm j)

/-- The index of a position of gdim. -/
def Tile.index (t : Tile) (x : XIns) (c : Nat) : Nat := mval t.store (x.idxAddr + 4 * c) 4

/-- Address of the `v`-th element on a side; none when its index skips it. -/
def Tile.elemAddr (t : Tile) (x : XIns) (dst : Bool) (v : Nat) : Option Nat :=
  let terms := (below x.d.ndim).map fun j =>
    let i := x.perm j
    let c := x.coord v j
    let st := if dst then x.ds i else x.ss i
    if (if dst then x.op == 3 else x.op == 2) && i == x.gdim then
      let n := t.index x c
      if x.lim ≤ n then none else some ((n : Int) * st)
    else some ((c : Int) * st)
  if terms.any fun e => e.isNone then none
  else some (((if dst then x.dstBase else x.srcBase) + (terms.map fun e => e.getD 0).sum).toNat)

/-- Indices that are skipped and counted. -/
def Tile.skips (t : Tile) (x : XIns) : Nat :=
  if x.indexed then
    ((below (x.ext x.gdim)).filter fun c => x.lim ≤ t.index x c && t.index x c != 0xFFFFFFFF).length
  else 0

/-! ### Alignment, R251 and R252 -/

/-- A side's contiguous dimension. -/
def XIns.contig (x : XIns) (dst : Bool) : Option Nat :=
  x.dims.find? fun i => (if dst then x.ds i else x.ss i) == ((if dst then x.dSize else x.sSize : Nat) : Int)

/-- A side is aligned. -/
def XIns.aligned (x : XIns) (dst : Bool) : Bool :=
  match x.contig dst with
  | none => false
  | some c =>
    x.ext c * (if dst then x.dSize else x.sSize) % 64 == 0 && (if dst then x.dstBase else x.srcBase) % 64 == 0
      && x.dims.all fun i => i == c || (if dst then x.ds i else x.ss i) % 64 == 0

/-- The instruction runs through the realignment pass. -/
def XIns.realigns (x : XIns) : Bool :=
  x.d.dst != 3 && (x.contig false).isSome && (x.contig true).isSome && !(x.aligned false && x.aligned true)

/-! ### Sets of 64-byte cells, R253 -/

/-- The cells of a list of runs, each once, in the order of first touch. -/
def cellsOf (runs : List (Nat × Nat)) : List Nat :=
  ((runs.flatMap fun r => if r.2 = 0 then [] else upFrom (r.1 / 64) ((r.1 + r.2 - 1) / 64 + 1 - r.1 / 64)).foldl
    (fun (m : SMap Bool × List Nat) c => if (sfind? m.1 c).isSome then m else (sins m.1 c true, c :: m.2)) ([], [])).2.reverse

/-- Source runs of an instruction. -/
def Tile.srcRuns (t : Tile) (x : XIns) : List (Nat × Nat) :=
  (below x.total).filterMap fun v => (t.elemAddr x false v).map fun a => (a, x.sSize)

/-- Destination runs. -/
def Tile.dstRuns (t : Tile) (x : XIns) : List (Nat × Nat) :=
  if x.d.dst = 3 then [(x.dstBase.toNat, 1)]
  else (below x.total).filterMap fun v => (t.elemAddr x true v).map fun a => (a, x.dSize)

/-- The fabric operation of an accumulation, R259; in deterministic mode an ordered add stands in place of a float add. -/
def XDesc.atom (d : XDesc) (det : Bool) : Nat :=
  let f := d.accType == 2 || d.accType == 3
  match d.accOp with
  | 1 => if f then (if det then 0x1C else 0x18) else 0x10
  | 2 => if f then 0x19 else 0x12
  | _ => if f then 0x1A else 0x11

/-- A partition's tile may make the global accesses of an instruction (R263, R403). -/
def State.xAllowed (s : State) (p : Nat) (t : Tile) (x : XIns) : Bool :=
  let op := if x.d.accOp = 0 then 2 else 0x10
  (x.d.src != 2 || (cellsOf (t.srcRuns x)).all fun c => s.mayReach p (64 * c) 64 1)
    && (x.d.dst < 2 || (cellsOf (t.dstRuns x)).all fun c => s.mayReach p (64 * c) 64 op)

/-! ### The Tedder, R218 to R220 -/

/-- One butterfly stage on FP32 patterns. -/
def hadamard (st : Nat) (xs : List Nat) : List Nat :=
  let v := fun (i : Nat) => (nth xs i).getD 0
  (below xs.length).map fun i =>
    if bit i st then (fsub fp32 0 (v (i - 2 ^ st)) (v i)).1 else (fadd fp32 0 (v i) (v (i + 2 ^ st))).1

/-- c[n]. -/
def tedderScale (n : Nat) : Nat := if n = 32 then 0x3E3504F3 else if n = 64 then 0x3E000000 else 0x3DB504F3

/-- A block of n values. -/
def tedderBlock (xs : List Nat) : List Nat :=
  ((below xs.length.log2).foldl (fun xs st => hadamard st xs) xs).map fun v => (fmul fp32 0 v (tedderScale xs.length)).1

/-- A source element widened to FP32. -/
def tedderIn (tfmt v : Nat) : Nat :=
  match tfmt with
  | 0 => v
  | 1 => (convFF fp32 0 0 (fdecode bf16 v)).1
  | _ => (convFF fp32 0 0 (fdecode fp16 v)).1

/-- Cut a list into runs of `n`. -/
def chunksOf {α : Type} : Nat → Nat → List α → List (List α)
  | 0, _, _ => []
  | fuel + 1, n, xs => if xs.isEmpty then [] else xs.take n :: chunksOf fuel n (xs.drop n)

/-- The outputs of TEDDER for its elements in visiting order. -/
def Tile.tedder (t : Tile) (x : XIns) (vs : List Nat) : List Nat :=
  let ins := vs.zipIdx.map fun e =>
    let v := tedderIn x.d.tfmt e.1
    if x.d.smooth then (fmul fp32 0 v (mval t.store (x.d.aux + 4 * x.coord e.2 0) 4)).1 else v
  ((chunksOf vs.length x.d.block ins).map tedderBlock).flatten

/-! ### Updates at the destination, R257 to R259 -/

/-- An element on its way to the destination. -/
abbrev Upd := Nat × Nat

/-- Some order of the updates, drawn from free values (R257). -/
def shuffle (base : Nat) (us : List Upd) : List Upd :=
  us.zipIdx.foldl (fun r e => let k := Config.freeValue (base + e.2) % (r.length + 1); r.take k ++ e.1 :: r.drop k) []

/-- Apply updates to a space of the tile in their order. -/
def applyUpds (m : Mem) (n : Nat) (acc : Option Nat) (us : List Upd) : Mem :=
  us.foldl
    (fun m u => match acc with
      | none => mstore m u.1 n u.2
      | some op => mstore m u.1 n (atomNew op n (mval m u.1 n) u.2 0)) m

/-- Holds of an ordered scatter-accumulate (R258): 128 bytes each tclk, an update to an element whose last one is less than 16 tclk old
waits for it. The state is the tclk, the elements placed in it, the elements' last tclk, and the holds. -/
def heldCount (perClk : Nat) (us : List Upd) : Nat :=
  (us.foldl
    (fun (r : Nat × Nat × SMap Nat × Nat) u =>
      let (now, cnt, last, holds) := if r.2.1 = perClk then (r.1 + 1, 0, r.2.2.1, r.2.2.2) else r
      match sfind? last u.1 with
      | some l => if now < l + 16 then (l + 16, 1, sins last u.1 (l + 16), holds + 1) else (now, cnt + 1, sins last u.1 now, holds)
      | none => (now, cnt + 1, sins last u.1 now, holds)) (0, 0, [], 0)).2.2.2

/-- The bytes of plain writes by cell, in the order of first touch: the later write of a byte stands. -/
def writeCells (n : Nat) (us : List Upd) : List (Nat × List Byte) :=
  let m : SMap Byte := us.foldl (fun m u => ((leBytes n u.2).foldl (fun (r : SMap Byte × Nat) b => (sins r.1 r.2 b, r.2 + 1)) (m, u.1)).1) []
  (cellsOf (us.map fun u => (u.1, n))).flatMap fun c =>
    ((below 64).foldl
      (fun (r : List (Nat × List Byte)) i =>
        let a := 64 * c + i
        match sfind? m a with
        | none => r
        | some b =>
          match r with
          | (a0, bs) :: more => if a0 + bs.length = a then (a0, bs ++ [b]) :: more else (a, [b]) :: r
          | [] => [(a, [b])]) []).reverse

/-- The operation that a tile belongs to keeps what it is about to write in local HBM (R101). -/
def State.keepUndo (s : State) (k a n : Nat) : State :=
  match s.opOfTile k with
  | some i => if a < hbmEnd then s.saveUndo i a n else s
  | none => s

/-- A local global-address write of a Shuttle. -/
def State.xWriteHere (s : State) (k a : Nat) (bs : List Byte) : State :=
  let r := (s.keepUndo k a bs.length).writeMem a bs
  if r.2 then r.1 else r.1.modTile k fun t => { t with sh := { t.sh with unpopSeen := true } }

/-- A poisoned or unanswered cell: poison_seen, and the operation ends at the next furrow (R263). -/
def State.xPoison (s : State) (k status : Nat) : State :=
  let s := s.modTile k fun t => { t with sh := { t.sh with poisonSeen := true } }
  match s.opOfTile k with
  | some i => s.opFault i status 0
  | none => s

/-- A local accumulation at a global address. An ordered float add waits for the next furrow as a request of its own. -/
def State.xAtomHere (s : State) (k p oclass ord op a n v : Nat) : State :=
  if op = 0x1C then
    let h : FabHdr :=
      { op := 0x1C, size := BitVec.ofNat 3 (sizeCode n), oclass := BitVec.ofNat 2 oclass, resp := false
        dst := BitVec.ofNat 16 s.pkgId, src := BitVec.ofNat 16 s.pkgId, engine := BitVec.ofNat 12 k
        part := BitVec.ofNat 4 p, slot := 0, hops := 0, gen := BitVec.ofNat 24 s.fab.nextIdx, addr := BitVec.ofNat 48 a, crcOk := true }
    let o : Outst :=
      { idx := s.fab.nextIdx, hdr := h, data := BitVec.ofNat 512 v, link := 254, via := none, reissued := false, isFor := .tile k ord }
    let s := { s with fab := { s.fab with outst := s.fab.outst ++ [o], nextIdx := s.fab.nextIdx + 1 } }
    (s.keepUndo k a n).orderPut { hdr := h, data := BitVec.ofNat 32 v }
  else
    let r := (s.keepUndo k a n).atomAt op a n v 0
    if r.2.status = 0x0102 then r.1.modTile k fun t => { t with sh := { t.sh with unpopSeen := true } }
    else if r.2.status = 0x0901 then r.1.xPoison k 0x0901
    else r.1

/-- Elements go to global addresses. -/
def State.xGlobal (s : State) (k p ord : Nat) (x : XIns) (us : List Upd) : State :=
  let n := x.dSize
  let pkg := x.dstBase.toNat / 2 ^ 48
  let here := match s.dest x.dstBase.toNat with
    | .here _ => true
    | _ => false
  if x.d.accOp = 0 then
    (writeCells n us).foldl
      (fun s e =>
        let a := e.1 % 2 ^ 48
        if here then s.xWriteHere k a e.2
        else (natPieces 64 a 0 e.2.length).foldl
          (fun s q => s.fabIssue k p x.d.oclass 2 pkg (a + q.1) q.2 ((e.2.drop q.1).take q.2) (.tile k ord)) s) s
  else
    let op := x.d.atom s.globalDet
    us.zipIdx.foldl
      (fun s e =>
        let a := e.1.1 % 2 ^ 48
        let oc := if x.d.unordered then e.2 % 4 else x.d.oclass
        if here then s.xAtomHere k p oc ord op a n e.1.2
        else s.fabIssue k p oc op pkg a n (leBytes n e.1.2) (.tile k ord)) s

/-- The row of a Baler append and its tag, in visiting order. -/
def Tile.balerRows (t : Tile) (x : XIns) (vs : List Nat) : List (BitVec 1024 × W64) :=
  (chunksOf vs.length x.rowLen vs).zipIdx.map fun e =>
    (BitVec.ofNat 1024 (leNat (e.1.flatMap fun v => leBytes x.d.esize v)), BitVec.ofNat 64 (mval t.store (x.idxAddr + 8 * e.2) 8))

/-- Rows go to the Baler of the tile that dst_base names; a refused row raises REMOTE_DENIED (R260). -/
def State.xBaler (s : State) (k : Nat) (h : QEnt) (x : XIns) (rows : List (BitVec 1024 × W64)) : State :=
  let g := x.dstBase.toNat
  match s.dest g with
  | .here a =>
    match s.region a with
    | .tileStore j _ | .tilePage j _ =>
      rows.foldl (fun s r => let y := s.balerArrive j r.1 r.2; if y.2 then y.1 else y.1.entExc k 3 h 6) s
    | _ => s.entExc k 3 h 6
  | _ => rows.foldl (fun s r => s.emit (.balerRow (BitVec.ofNat 64 g) r.1 r.2)) s

/-- The destination of an element of the tile's own space. -/
def State.xTile (s : State) (k : Nat) (x : XIns) (us : List Upd) : State :=
  let acc := if x.d.accOp = 0 then none else some (x.d.atom false)
  let held := if x.d.accOp != 0 && !x.d.unordered then heldCount (128 / x.dSize) us else 0
  s.modTile k fun t =>
    let t := { t with sh := { t.sh with collHeld := satAdd 16 t.sh.collHeld held } }
    if x.d.dst = 0 then { t with store := applyUpds t.store x.dSize acc us }
    else { t with treg := applyUpds t.treg x.dSize acc us }

/-! ### The transfer -/

/-- Requests of an instruction that have no response. -/
def State.xOpen (s : State) (k ord : Nat) : Bool := s.fab.outst.any fun o => o.isFor == .tile k ord

/-- Stream posts, R262. -/
def XIns.posts (x : XIns) (written : Nat) : Nat := if x.d.stream then (written * x.dSize + 4095) / 4096 else 0

/-- Every source element is at hand: `rd` reads the source space. The elements reach the destination; what another package has to
acknowledge is waited for. -/
def State.xMove (s : State) (k p : Nat) (h : QEnt) (x : XIns) (rd : Nat → Nat) : State :=
  let t := s.tile k
  let vs := (below x.total).map fun v => match t.elemAddr x false v with
    | some a => rd a
    | none => 0
  let vs := if x.op = 4 then t.tedder x vs else vs
  let s := s.modTile k fun t =>
    { t with sh := { t.sh with
        realigned := t.sh.realigned || x.realigns, idxSkipped := satAdd 16 t.sh.idxSkipped (t.skips x) } }
  let us := vs.zipIdx.filterMap fun e => (t.elemAddr x true e.2).map fun a => (a, e.1)
  let written := if x.d.dst = 3 then vs.length else us.length
  let (s, us) := if x.op = 3 && x.d.unordered then ({ s with free := s.free + us.length }, shuffle s.free us) else (s, us)
  let s := match x.d.dst with
    | 2 => s.xGlobal k p h.ord x us
    | 3 => s.xBaler k h x (t.balerRows x vs)
    | _ => s.xTile k x us
  let posts := x.posts written
  let s := s.modTile k fun t => { t with jobs := t.jobs.filter fun j => j.ent.ord != h.ord }
  if s.xOpen k h.ord then
    s.modTile k fun t => { t with jobs := t.jobs ++ [{ ent := h, lay := x.lay, buf := [], moved := true, posts := posts }] }
  else tilePostN posts s k x.d.streamTk 3 h

/-- Reads of local memory: what they meet is noted, and a chunk of a digest's region is hashed when it is first read (R441). -/
def State.xNote (s : State) (k : Nat) (cells : List Nat) : State :=
  cells.foldl
    (fun s c =>
      let a := 64 * c % 2 ^ 48
      let s := match s.opOfTile k with
        | some i => if a < hbmEnd then s.hashChunk (s.hword i) (a / 4096) else s
        | none => s
      let r := s.readMem false a 64
      let s := if r.unpop then s.modTile k fun t => { t with sh := { t.sh with unpopSeen := true } } else s
      if r.poison then s.xPoison k 0x0901 else s) s

/-- An instruction starts: from the tile or local memory it moves at once; from another package it reads every cell first. -/
def State.xBegin (s : State) (k p : Nat) (h : QEnt) (x : XIns) : State :=
  let t := s.tile k
  let n := x.sSize
  match x.d.src with
  | 0 => s.xMove k p h x fun a => mval t.store a n
  | 1 => s.xMove k p h x fun a => mval t.treg a n
  | _ =>
    let cells := cellsOf (t.srcRuns x)
    match s.dest x.srcBase.toNat with
    | .here _ =>
      let s := s.xNote k cells
      s.xMove k p h x fun a => leNat (s.readMem false (a % 2 ^ 48) n).data
    | _ =>
      if cells.isEmpty then s.xMove k p h x fun _ => 0
      else
        let s := s.modTile k fun t => { t with jobs := t.jobs ++ [{ ent := h, lay := x.lay, buf := [], moved := false, posts := 0 }] }
        cells.foldl
          (fun s c => s.fabIssue k p x.d.oclass 1 (64 * c / 2 ^ 48) (64 * c % 2 ^ 48) 64 [] (.tile k h.ord)) s

/-- Whether an instruction has to wait: a fence for every earlier instruction (R254); otherwise until the earlier ones have issued their
last request (R253), and, when it reads the tile, until their writes to the tile are there. -/
def State.xWaits (s : State) (k : Nat) (h : QEnt) : Bool :=
  let t := s.tile k
  let d := t.xdesc h.word
  let op := slotOp h.word
  let reads := d.src != 2 || op == 2 || op == 3 || d.dst == 3 || (op == 4 && d.smooth)
  (d.fence && !t.ex.isEmpty)
    || t.jobs.any (fun j => !j.moved && (reads || 2 ≤ (t.xdesc j.ent.word).dst))
    || s.fab.outst.any fun o => o.link == noLink && o.hdr.engine.toNat == k

/-- The head of the X queue starts, if it is of opcode `op`. -/
def State.xStart (s : State) (k op : Nat) : State :=
  match s.engHead k .x, s.tilePart? k with
  | some h, some p =>
    if slotOp h.word ≠ op ∨ s.xWaits k h then s
    else
      let t := s.tile k
      let d := t.xdesc h.word
      if !(d.ok op) then s.engFault k .x h 7
      else if progEnd < d.layout + 96 then s.engFault k .x h 2
      else
        let x := t.xins h (t.layWords d)
        match x.fault with
        | some c => s.engFault k .x h c
        | none => if s.xAllowed p t x then (s.engStart k .x h).xBegin k p h x else s.engFault k .x h 6
  | _, _ => s

/-- An answer to a request of a Shuttle: data, or the zeros and the marks of R263; with the last one the instruction goes on. `o` is no
longer outstanding. -/
def State.tileAnswer (s : State) (k ord : Nat) (o : Outst) (status : Nat) (bytes : List Byte) : State :=
  match (s.tile k).jobs.find? fun j => j.ent.ord == ord with
  | none => s
  | some j =>
    let s := if status = 0 && o.hdr.op = 1 then
        s.modTile k fun t =>
          { t with jobs := t.jobs.map fun v => if v.ent.ord = ord then { v with buf := mwrite v.buf o.hdr.addr.toNat bytes } else v }
      else s
    let s := if status = 0x0102 then s.modTile k fun t => { t with sh := { t.sh with unpopSeen := true } } else s
    let s := if status = 0x0901 ∨ status = 0x0C02 then s.xPoison k status else s
    if s.xOpen k ord then s
    else
      let t := s.tile k
      if j.moved then
        tilePostN j.posts (s.modTile k fun t => { t with jobs := t.jobs.filter fun v => v.ent.ord != ord }) k (t.xdesc j.ent.word).streamTk 3 j.ent
      else
        match t.jobs.find? fun v => v.ent.ord == ord, s.tilePart? k with
        | some v, some p =>
          let x := t.xins j.ent j.lay
          s.xMove k p j.ent x fun a => mval v.buf (a % 2 ^ 48) x.sSize
        | _, _ => s

/-- MOVE copies a strided block. -/
def execMove (t : Nat) (s : State) : Res := .next (s.xStart t 1)

/-- GATHER reads slices that an index tensor selects. -/
def execGather (t : Nat) (s : State) : Res := .next (s.xStart t 2)

/-- SCATTER writes slices by index, accumulating when asked. -/
def execScatter (t : Nat) (s : State) : Res := .next (s.xStart t 3)

/-- TEDDER loads blocks through the rotation. -/
def execTedder (t : Nat) (s : State) : Res := .next (s.xStart t 4)

end Sys2Proof.Machine
end

