-- ==== Sys2Proof/Machine/TwillAlu.lean ====
section
/-! DEFINITION. Twill arithmetic (R340 to R354): configuration, lane access, integer and floating-point lanes, compares, widening and dot
products, converts, moves and reduces. -/

namespace Sys2Proof.Machine

/-! ### Configuration and lanes, R342 to R346 -/

/-- vl, w and G of vcfg. -/
def Cpu.vl (k : Cpu) : Nat := k.vcfg.toNat % 1024
def Cpu.vw (k : Cpu) : Nat := 8 * 2 ^ bits k.vcfg.toNat 11 10
def Cpu.vg (k : Cpu) : Nat := 2 ^ bits k.vcfg.toNat 13 12

/-- A register number that names an operand of group `g`. -/
def grpOk (n g : Nat) : Bool := n % g == 0 && n + g ≤ 32

/-- Element `i` of width `w` of the operand v_n. -/
def Cpu.vel (k : Cpu) (n w i : Nat) : Nat := bits (k.vreg (n + w * i / 512)) (w * i % 512 + w - 1) (w * i % 512)

def Cpu.setVel (k : Cpu) (n w i v : Nat) : Cpu :=
  let r := n + w * i / 512
  k.setVreg r (setBits (k.vreg r) (w * i % 512 + w - 1) (w * i % 512) v)

/-- Mask mk enables element `i`; 0 names no mask. -/
def Cpu.vOn (k : Cpu) (mk i : Nat) : Bool := mk = 0 || bit (sget 0 k.km mk).toNat i

def Cpu.setKm (k : Cpu) (n v : Nat) : Cpu := { k with km := sput 0 k.km n (BitVec.ofNat 512 v) }

/-- Write the active elements of v_n, `w` bits wide: `f` answers element and flags, from the state before the instruction; a
disabled element keeps its bits, or is zero under mz. -/
def Cpu.vmap (k : Cpu) (n w mk : Nat) (mz : Bool) (f : Nat → Nat × Nat) : Cpu :=
  (below k.vl).foldl
    (fun r i =>
      if k.vOn mk i then
        let x := f i
        (r.setVel n w i x.1).orFlag x.2
      else if mz then r.setVel n w i 0
      else r) k

/-- The word of a VR instruction. -/
def wordVR (op : Nat) (f : VRFields) : Nat :=
  op * 2 ^ 26 + f.vd.toNat * 2 ^ 21 + f.va.toNat * 2 ^ 16 + f.vb.toNat * 2 ^ 11 + f.mask.toNat * 2 ^ 9 + b2n f.mz * 2 ^ 8
    + f.fn.toNat

/-- A VR instruction: legal or not by the core's state, VECTOR_DISABLED with tw 0 (R340), and its effect on the thread, none for a
checked variant that traps (R354). -/
def State.twill (s : State) (c op : Nat) (f : VRFields) (ok : Cpu → Bool) (run : Cpu → Option Cpu) : State :=
  let word := wordVR op f
  s.coreStep c word fun s =>
    let k := s.core c
    if !(ok k) then illegal s word
    else if !k.tw then .trap s 0x05 0 word
    else
      match run k with
      | some k' => .done (s.setCore c k')
      | none => .trap s 0x0C 0 word

/-- VCFG: w and G, and vl := min(x[ra], VLMAX), which rd receives. -/
def execVcfg (c : Nat) (rd ra : BitVec 6) (wcode glog2 : BitVec 2) (low : BitVec 10) (s : State) : Res :=
  let word :=
    0x20 * 2 ^ 26 + rd.toNat * 2 ^ 20 + ra.toNat * 2 ^ 14 + wcode.toNat * 2 ^ 12 + glog2.toNat * 2 ^ 10 + low.toNat
  .next (s.coreFp c word (regOk rd.toNat && regOk ra.toNat && low = 0) fun s =>
    let k := s.core c
    let vl := min (k.reg ra.toNat) (512 * 2 ^ glog2.toNat / (8 * 2 ^ wcode.toNat))
    let k := { k with vcfg := BitVec.ofNat 14 (glog2.toNat * 2 ^ 12 + wcode.toNat * 2 ^ 10 + vl) }
    .done (s.setCore c (k.setReg rd.toNat vl)))

/-! ### Integer lanes, major 0x21 -/

/-- Function codes that fn [7] may make unsigned. -/
def vUnsignable (g : Nat) : Bool := (3 ≤ g && g ≤ 7) || g == 12 || g == 20 || g == 21

/-- Functions with one operand. -/
def vUnary (g : Nat) : Bool := 8 ≤ g && g ≤ 11

/-- An integer lane: outer none for an unlisted function, inner none for a checked variant that traps. -/
def vIntOp (g w : Nat) (sg : Bool) (a b : Nat) : Option (Option IRes) :=
  match g with
  | 0 => some (some (iAdd w true a b))
  | 1 => some (some (iSub w true a b))
  | 2 => some (some (iMulLow w true a b))
  | 3 => some (some (iMulHigh w sg a b))
  | 4 => some (some (iDiv w sg a b))
  | 5 => some (some (iRem w sg a b))
  | 6 => some (some (iSatAdd w sg a b))
  | 7 => some (some (iSatSub w sg a b))
  | 8 => some (some (iNeg w true a))
  | 9 => some (some (iAbs w true a))
  | 10 => some (checked (iNeg w true a))
  | 11 => some (checked (iAbs w true a))
  | 12 => some (checked (iDiv w sg a b))
  | 13 => some (some (iAnd a b))
  | 14 => some (some (iOr a b))
  | 15 => some (some (iXor a b))
  | 16 => some (some (iShl w a b))
  | 17 => some (some (iShr w a b))
  | 18 => some (some (iSar w a b))
  | 19 => some (some (iRol w a b))
  | 20 => some (some (iMin w sg a b))
  | 21 => some (some (iMax w sg a b))
  | _ => none

/-- The active and enabled elements. -/
def Cpu.vActive (k : Cpu) (mk : Nat) : List Nat := (below k.vl).filter fun i => k.vOn mk i

/-- TWILL_INTEGER. -/
def execTwillInteger (c : Nat) (f : VRFields) (s : State) : Res :=
  let g := f.fn.toNat % 128
  let uns := bit f.fn.toNat 7
  let op := fun (k : Cpu) (i : Nat) =>
    vIntOp g k.vw (!uns) (k.vel f.va.toNat k.vw i) (k.vel f.vb.toNat k.vw i)
  .next (s.twill c 0x21 f
    (fun k =>
      g < 22 && (!uns || vUnsignable g) && grpOk f.vd.toNat k.vg && grpOk f.va.toNat k.vg
        && (vUnary g || grpOk f.vb.toNat k.vg))
    fun k =>
      if (k.vActive f.mask.toNat).any fun i => op k i == some none then none
      else
        some (k.vmap f.vd.toNat k.vw f.mask.toNat f.mz fun i =>
          match op k i with
          | some (some r) => r
          | _ => (0, 0)))

/-! ### Floating-point lanes, major 0x22 -/

/-- w of 32 or 64. -/
def Cpu.vFp (k : Cpu) : Bool := k.vw == 32 || k.vw == 64

/-- TWILL_FP: 0 to 8 as the scalar operations, 9 va * vb + vd, 10 vd - va * vb. -/
def execTwillFp (c : Nat) (f : VRFields) (s : State) : Res :=
  let g := f.fn.toNat
  .next (s.twill c 0x22 f
    (fun k => g < 11 && k.vFp && grpOk f.vd.toNat k.vg && grpOk f.va.toNat k.vg && (fpUnary g || grpOk f.vb.toNat k.vg))
    fun k =>
      let m := fpFmt (k.vw == 32)
      some (k.vmap f.vd.toNat k.vw f.mask.toNat f.mz fun i =>
        let a := k.vel f.va.toNat k.vw i
        let b := k.vel f.vb.toNat k.vw i
        if 9 ≤ g then ffma m k.fpctl.toNat (g == 10) a b (k.vel f.vd.toNat k.vw i)
        else (fpOp m k.fpctl.toNat g a b).getD (0, 0)))

/-! ### Compares, major 0x23 -/

/-- An integer comparison by code: 0 eq, 1 ne, 2 lt, 3 le, 4 ltu, 5 leu. -/
def vIntCmp (code w a b : Nat) : Bool :=
  match code with
  | 0 => a == b
  | 1 => a != b
  | 2 => decide (sint w a < sint w b)
  | 3 => decide (sint w a ≤ sint w b)
  | 4 => decide (a < b)
  | _ => decide (a ≤ b)

/-- TWILL_COMPARE into k[vd]; an FP compare needs w of 32 or 64 (notes/assumptions 39). -/
def execTwillCompare (c : Nat) (f : VRFields) (s : State) : Res :=
  let code := f.fn.toNat % 128
  let fp := bit f.fn.toNat 7
  let kd := f.vd.toNat
  .next (s.twill c 0x23 f
    (fun k =>
      0 < kd && kd < 4 && (if fp then code < 5 && k.vFp else code < 6) && grpOk f.va.toNat k.vg && grpOk f.vb.toNat k.vg)
    fun k =>
      let m := fpFmt (k.vw == 32)
      let one := fun i =>
        let a := k.vel f.va.toNat k.vw i
        let b := k.vel f.vb.toNat k.vw i
        if fp then fcompare m (if code = 4 then 6 else code) a b else (vIntCmp code k.vw a b, 0)
      some ((below k.vl).foldl
        (fun r i =>
          let old := (sget 0 r.km kd).toNat
          if k.vOn f.mask.toNat i then
            let x := one i
            (r.setKm kd (setBits old i i (b2n x.1))).orFlag x.2
          else if f.mz then r.setKm kd (setBits old i i 0)
          else r) k))

/-! ### Widening and dot products, major 0x24 -/

/-- A widening instruction: exact products of w-bit elements into 2w-bit elements of group 2G, or added to them (R350). -/
def State.twillWiden (s : State) (c fn : Nat) (f : VRFields) (sg acc : Bool) : State :=
  let f := { f with fn := BitVec.ofNat 8 fn }
  s.twill c 0x24 f
    (fun k =>
      k.vw != 64 && k.vg != 8 && grpOk f.vd.toNat (2 * k.vg) && grpOk f.va.toNat k.vg && grpOk f.vb.toNat k.vg)
    fun k =>
      let w := 2 * k.vw
      some (k.vmap f.vd.toNat w f.mask.toNat f.mz fun i =>
        let p := ival k.vw sg (k.vel f.va.toNat k.vw i) * ival k.vw sg (k.vel f.vb.toNat k.vw i)
        if acc then wrapV w sg (ival w sg (k.vel f.vd.toNat w i) + p) else (wrapInt w p, 0))

def execWmul (c : Nat) (f : VRFields) (s : State) : Res := .next (s.twillWiden c 0 f true false)
def execWmulu (c : Nat) (f : VRFields) (s : State) : Res := .next (s.twillWiden c 1 f false false)
def execWmacc (c : Nat) (f : VRFields) (s : State) : Res := .next (s.twillWiden c 2 f true true)
def execWmaccu (c : Nat) (f : VRFields) (s : State) : Res := .next (s.twillWiden c 3 f false true)

/-- A dot product lane: w is 32 and every operand of group G (R351). -/
def State.twillDot (s : State) (c fn : Nat) (f : VRFields) (op : Nat → Nat → Nat → Nat → Nat × Nat) : State :=
  let f := { f with fn := BitVec.ofNat 8 fn }
  s.twill c 0x24 f
    (fun k => k.vw == 32 && grpOk f.vd.toNat k.vg && grpOk f.va.toNat k.vg && grpOk f.vb.toNat k.vg)
    fun k =>
      some (k.vmap f.vd.toNat 32 f.mask.toNat f.mz fun i =>
        op k.fpctl.toNat (k.vel f.va.toNat 32 i) (k.vel f.vb.toNat 32 i) (k.vel f.vd.toNat 32 i))

/-- The exact sum of four byte products added to the INT32 lane. -/
def dot4Lane (sg : Bool) (a b d : Nat) : Nat × Nat :=
  let p := fun i => ival 8 sg (bits a (8 * i + 7) (8 * i)) * ival 8 sg (bits b (8 * i + 7) (8 * i))
  wrapV 32 true (sint 32 d + (p 0 + p 1 + p 2 + p 3))

def execDot4 (c : Nat) (f : VRFields) (s : State) : Res := .next (s.twillDot c 4 f fun _ a b d => dot4Lane true a b d)
def execDot4u (c : Nat) (f : VRFields) (s : State) : Res := .next (s.twillDot c 5 f fun _ a b d => dot4Lane false a b d)

/-- The exact sum of several decoded values, rounded once: NaN and infinities as R195's rows for adding give them, an exact zero
sum with the sign of zeros that agree, else +0, or -0 under RDN. -/
def fsumV (f : Fmt) (mode : Nat) (xs : List FVal) : FRes :=
  if xs.any isNan then (f.nanPat, xs.foldl (fun g x => g ||| nvOf x) 0)
  else
    let infs := xs.filterMap fun x => match x with
      | .inf n => some n
      | _ => none
    match infs with
    | n :: ns => if ns.all fun m => m == n then (f.infPat n, 0) else (f.nanPat, fNV)
    | [] =>
      let fs := xs.filterMap fun x => match x with
        | .fin n m e => some (n, m, e)
        | _ => none
      let e0 := fs.foldl (fun (e : Int) x => min e x.2.2) 0
      let t := fs.foldl (fun (t : Int) x => t + smant x.1 (x.2.1 <<< (x.2.2 - e0).toNat)) 0
      roundZ f mode 0 (if fs.all fun x => x.1 then true else if fs.all fun x => !x.1 then false else mode = 2) t e0

/-- DOT2: vd + a0 * b0 + a1 * b1, rounded once by FPCTL. -/
def dot2Lane (mode a b d : Nat) : FRes :=
  let p := fmulV (fdecode bf16 (a % 65536)) (fdecode bf16 (b % 65536))
  let q := fmulV (fdecode bf16 (a / 65536)) (fdecode bf16 (b / 65536))
  let r := fsumV fp32 mode [fdecode fp32 d, p.1, q.1]
  (r.1, r.2 ||| p.2 ||| q.2)

def execDot2 (c : Nat) (f : VRFields) (s : State) : Res := .next (s.twillDot c 6 f dot2Lane)

/-! ### Converts, major 0x25 -/

/-- TWILL_CONVERT: source type in [15:12], [11] zero; fn [7:4] destination, [3:1] rounding code, [0] wrap (R352). -/
def execTwillConvert (c : Nat) (f : VRFields) (s : State) : Res :=
  let src := numTy (f.vb.toNat / 2)
  let dst := numTy (bits f.fn.toNat 7 4)
  let rc := bits f.fn.toNat 3 1
  .next (s.twill c 0x25 f
    (fun k =>
      match src, dst with
      | some t, some u =>
        let g := if u.width ≤ t.width then k.vg else k.vg * u.width / t.width
        f.vb.toNat % 2 == 0 && rcOk rc && t.width == k.vw && g ≤ 8 && grpOk f.vd.toNat g && grpOk f.va.toNat k.vg
      | _, _ => false)
    fun k =>
      match src, dst with
      | some t, some u =>
        some (k.vmap f.vd.toNat u.width f.mask.toNat f.mz fun i => convNum t u rc (bit f.fn.toNat 0) (k.vel f.va.toNat k.vw i))
      | _, _ => some k)

/-! ### Moves, major 0x2A -/

/-- A mask register number: 1 to 3. -/
def kmOk (n : Nat) : Bool := 0 < n && n < 4

/-- TWILL_MOVE: elements under the mask for 0 and 1, whole registers for the others. -/
def execTwillMove (c : Nat) (f : VRFields) (s : State) : Res :=
  let d := f.vd.toNat
  let a := f.va.toNat
  .next (s.twill c 0x2A f
    (fun k =>
      match f.fn.toNat with
      | 0 => grpOk d k.vg && grpOk a k.vg
      | 1 => grpOk d k.vg
      | 2 => grpOk a k.vg
      | 3 => kmOk d
      | 4 => kmOk a
      | 5 => kmOk d
      | 6 => kmOk a
      | 7 => true
      | _ => false)
    fun k =>
      some (match f.fn.toNat with
        | 0 => k.vmap d k.vw f.mask.toNat f.mz fun i => (k.vel a k.vw i, 0)
        | 1 => k.vmap d k.vw f.mask.toNat f.mz fun _ => (k.reg a % 2 ^ k.vw, 0)
        | 2 => k.setReg d (k.vel a k.vw 0)
        | 3 => k.setKm d k.ff.toNat
        | 4 => { k with ff := sget 0 k.km a }
        | 5 => k.setKm d (k.vreg a)
        | 6 => k.setVreg d (sget 0 k.km a).toNat
        | _ => k.setReg d k.vcfg.toNat))

/-! ### Reduces, major 0x2B -/

/-- One step of a reduce. -/
def vReduceOp (fp : Bool) (code w mode a b : Nat) : Nat × Nat :=
  match fp, code with
  | true, 0 => fadd (fpFmt (w == 32)) mode a b
  | true, 1 => fmaxmin (fpFmt (w == 32)) true a b
  | true, _ => fmaxmin (fpFmt (w == 32)) false a b
  | false, 0 => iAdd w true a b
  | false, 1 => iMax w true a b
  | false, 2 => iMin w true a b
  | false, 3 => iAnd a b
  | false, 4 => iOr a b
  | false, _ => iXor a b

/-- TWILL_REDUCE: ascending from element 0 of vb, into element 0 of vd; an FP reduce is sum, max or min with w of 32 or 64. -/
def execTwillReduce (c : Nat) (f : VRFields) (s : State) : Res :=
  let code := f.fn.toNat % 128
  let fp := bit f.fn.toNat 7
  .next (s.twill c 0x2B f
    (fun k =>
      (if fp then code < 3 && k.vFp else code < 6) && grpOk f.vd.toNat k.vg && grpOk f.va.toNat k.vg && grpOk f.vb.toNat k.vg)
    fun k =>
      if k.vl = 0 then some k
      else
        let r := (k.vActive f.mask.toNat).foldl
          (fun (r : Nat × Nat) i =>
            let x := vReduceOp fp code k.vw k.fpctl.toNat r.1 (k.vel f.va.toNat k.vw i)
            (x.1, r.2 ||| x.2)) (k.vel f.vb.toNat k.vw 0, 0)
        some ((k.setVel f.vd.toNat k.vw 0 r.1).orFlag r.2))

end Sys2Proof.Machine
end

