-- ==== Sys2Proof/Machine/TwillMem.lean ====
section
/-! DEFINITION. Twill memory access (R355 to R359): strided and indexed loads and stores, first fault, and elements that lie in other
packages. -/

namespace Sys2Proof.Machine

/-- The word of a VM instruction. -/
def wordVM (op : Nat) (f : VMFields) : Nat :=
  op * 2 ^ 26 + f.vd.toNat * 2 ^ 21 + f.ra.toNat * 2 ^ 15 + f.rb.toNat * 2 ^ 9 + f.mask.toNat * 2 ^ 7 + b2n f.mz * 2 ^ 6
    + b2n f.ff * 2 ^ 5 + f.scale.toNat * 2 ^ 3 + f.low.toNat

/-- The address of element `i`: base and stride, or base and scaled index (R355). -/
def Cpu.vaddr (k : Cpu) (indexed : Bool) (f : VMFields) (i : Nat) : Nat :=
  let b := k.reg f.ra.toNat
  if indexed then (b + k.vel (f.rb.toNat / 2) k.vw i * 2 ^ f.scale.toNat) % 2 ^ 64
  else if f.rb = 0 then (b + i * (k.vw / 8)) % 2 ^ 64
  else wrapInt 64 ((b : Int) + i * sint 64 (k.reg f.rb.toNat))

/-- Legal operands of a memory instruction. -/
def Cpu.vmOk (k : Cpu) (indexed : Bool) (f : VMFields) : Bool :=
  f.low = 0 && regOk f.ra.toNat && grpOk f.vd.toNat k.vg
    && (if indexed then f.rb.toNat % 2 == 0 && grpOk (f.rb.toNat / 2) k.vg else regOk f.rb.toNat)

/-- What is known of one element before anything is performed: its number, address and places, and the trap that it meets. -/
structure VElem where
  i : Nat
  va : Nat
  ps : List Place
  bad : Option (Nat × Nat × Nat)
  deriving DecidableEq, Repr

/-- Translate every enabled element in ascending order. -/
def State.vplaces (s : State) (c op n : Nat) (use : Use) (addr : Nat → Nat) : List Nat → State × List VElem
  | [] => (s, [])
  | i :: is =>
    let va := addr i
    let r := s.placesOf c use (s.userMode c) (spans64 2 va n)
    let bad := match r.1.accessTrap c op va n false r.2 with
      | some (.trap a d v) => some (a, d, v)
      | _ => none
    let q := r.1.vplaces c op n use addr is
    (q.1, { i := i, va := va, ps := r.2, bad := bad } :: q.2)

/-- The trap of lowest cause, and of those of the lowest element. -/
def vtrap (es : List VElem) : Option (Nat × Nat × Nat) :=
  es.foldl
    (fun r e =>
      match r, e.bad with
      | none, x => x
      | some y, some x => if x.1 < y.1 then some x else some y
      | r, none => r) none

/-- Outcome of reading the elements in ascending order: the values so far; a fault at an element; or the access waits. -/
inductive VRead where
  | ok (xs : List (Nat × Nat))
  | fault (xs : List (Nat × Nat)) (i cause detail val : Nat)
  | waits
  deriving DecidableEq, Repr

/-- A value put before those of the later elements. -/
def VRead.cons (x : Nat × Nat) : VRead → VRead
  | .ok xs => .ok (x :: xs)
  | .fault xs i a d v => .fault (x :: xs) i a d v
  | .waits => .waits

/-- Read elements of `n` bytes; a remote element comes from the job's answers. -/
def State.vread (s : State) (c n : Nat) (job : Option VJob) : List VElem → State × VRead
  | [] => (s, .ok [])
  | e :: es =>
    match e.bad with
    | some (a, d, v) => (s, .fault [] e.i a d v)
    | none =>
      match e.ps with
      | .far _ _ :: _ =>
        match job with
        | some j =>
          if j.bad.contains e.i then (s, .fault [] e.i 0x0B 0 e.va)
          else
            let q := s.vread c n job es
            (q.1, q.2.cons (e.i, (sget 0 j.got e.i).toNat))
        | none => (s, .waits)
      | .device a :: _ =>
        let r := s.deviceLoad c a n
        let q := r.1.vread c n job es
        (q.1, q.2.cons (e.i, leNat r.2))
      | ps =>
        match s.loadPieces c ps with
        | (s, .ok bs) =>
          let q := s.vread c n job es
          (q.1, q.2.cons (e.i, leNat bs))
        | (s, .trap a d v) => (s, .fault [] e.i a d v)
        | (s, _) => (s, .waits)

/-- Put loaded elements into v_n; a disabled active element below `lim` is zero under mz. -/
def Cpu.vput (k : Cpu) (f : VMFields) (lim : Nat) (xs : List (Nat × Nat)) : Cpu :=
  let k1 := if f.mz then
      ((below (min lim k.vl)).filter fun i => !(k.vOn f.mask.toNat i)).foldl (fun r i => r.setVel f.vd.toNat k.vw i 0) k
    else k
  xs.foldl (fun r x => r.setVel f.vd.toNat k.vw x.1 x.2) k1

/-- The ones below `n`. -/
def onesTo (n : Nat) : W512 := BitVec.ofNat 512 (2 ^ n - 1)

/-- The effect of VLD or VGATHER once it may be performed (R355, R358, R359). -/
def State.vloadBody (s : State) (c : Nat) (indexed : Bool) (f : VMFields) : CRes :=
  let k := s.core c
  let n := k.vw / 8
  let r := s.vplaces c 1 n .read (k.vaddr indexed f) (k.vActive f.mask.toNat)
  let s := r.1
  let es := r.2
  let first := (es.find? fun e => e.bad.isSome).map fun e => e.i
  -- with ff a page fault past the first enabled element ends the load there; misalignment is no such fault
  let stops := f.ff && (vtrap es).all fun t => t.1 != 0x09
  match if stops && first != (es.head?.map fun e => e.i) then none else vtrap es with
  | some (a, d, v) => .trap s a d v
  | none =>
    let es := match first with
      | some i => es.filter fun e => e.i ≤ i
      | none => es
    let far := es.filter fun e => e.bad.isNone && e.ps.any fun p => match p with
      | .far _ _ => true
      | _ => false
    let job := k.vjob.filter fun j => j.left == 0 && j.f == f && j.gather == indexed
    if !far.isEmpty && job.isNone then
      let s := s.modCore c fun k => { k with vjob := some { gather := indexed, f := f, got := [], bad := [], left := far.length } }
      .stall (far.foldl
        (fun s e =>
          match e.ps with
          | .far pkg a :: _ => s.coreIssue c 1 pkg a n [] (.lane c e.i)
          | _ => s) s) 0
    else
      match s.vread c n job es with
      | (s, .waits) => .waits s
      | (s, .ok xs) =>
        .done (s.modCore c fun k =>
          let k' := k.vput f k.vl xs
          { k' with vjob := none, ff := if f.ff then onesTo k.vl else k.ff })
      | (s, .fault xs i a d v) =>
        if f.ff && !xs.isEmpty then
          .done (s.modCore c fun k =>
            let k' := k.vput f i xs
            { k' with vjob := none, ff := onesTo i })
        else .trap (s.modCore c fun k => { k with vjob := none }) a d v

/-- A VM instruction: illegal, disabled, or its body. -/
def State.twillMem (s : State) (c op : Nat) (indexed : Bool) (f : VMFields) (body : State → CRes) : State :=
  let word := wordVM op f
  s.coreStep c word fun s =>
    let k := s.core c
    if !(k.vmOk indexed f) then illegal s word
    else if !k.tw then .trap s 0x05 0 word
    else body s

/-- The load that waited for remote elements goes on when the last has arrived. -/
def State.vresume (s : State) (c : Nat) : State :=
  match (s.core c).vjob with
  | some j =>
    if j.left = 0 then
      let s := s.modCore c fun k => { k with stalled := false }
      (s.vloadBody c j.gather j.f).finish c (wordVM (if j.gather then 0x28 else 0x26) j.f)
    else s
  | none => s

/-- An answer for element `i` of a waiting load: its data, or that it ended with poison. -/
def State.vanswer (s : State) (c i v : Nat) (bad : Bool) : State :=
  (s.modCore c fun k =>
    { k with
      vjob := k.vjob.map fun j =>
        { j with
          got := sput 0 j.got i (BitVec.ofNat 64 v), bad := if bad then i :: j.bad else j.bad, left := j.left - 1 } }).vresume c

/-- VLD. -/
def execVld (c : Nat) (f : VMFields) (s : State) : Res :=
  .next (s.twillMem c 0x26 false f fun s => s.vloadBody c false f)

/-- VGATHER. -/
def execVgather (c : Nat) (f : VMFields) (s : State) : Res :=
  .next (s.twillMem c 0x28 true f fun s => s.vloadBody c true f)

/-- Take every cacheable line of a store for writing; false when one is held back. -/
def State.vown (s : State) (c : Nat) : List VElem → State × Bool
  | [] => (s, true)
  | e :: es =>
    match s.ownPieces c e.ps with
    | (s, .waits) => (s, false)
    | (s, _) => s.vown c es

/-- Perform the elements of a store in ascending order; false when a line is held back after all. -/
def State.vstore (s : State) (c n : Nat) (val : Nat → List Byte) : List VElem → State × Bool
  | [] => (s, true)
  | e :: es =>
    let bs := val e.i
    match e.ps with
    | .device a :: _ => (s.deviceStore c a bs).vstore c n val es
    | .far pkg a :: _ => (s.coreIssue c 2 pkg a n bs (.core c 0 8)).vstore c n val es
    | ps =>
      match s.ownPieces c ps with
      | (s, .ok _) => (s.storePieces c ps bs).vstore c n val es
      | (s, .waits) => (s, false)
      | (s, _) => (s.coreAbort c).vstore c n val es

/-- The effect of VST or VSCATTER (R356, R357). -/
def State.vstoreBody (s : State) (c : Nat) (indexed : Bool) (f : VMFields) : CRes :=
  let k := s.core c
  let n := k.vw / 8
  let r := s.vplaces c 2 n .write (k.vaddr indexed f) (k.vActive f.mask.toNat)
  match vtrap r.2 with
  | some (a, d, v) => .trap r.1 a d v
  | none =>
    match r.1.vown c r.2 with
    | (s, false) => .waits s
    | (s, true) =>
      match s.vstore c n (fun i => leBytes n (k.vel f.vd.toNat k.vw i)) r.2 with
      | (s, true) => .done s
      | (s, false) => .waits s

/-- VST. -/
def execVst (c : Nat) (f : VMFields) (s : State) : Res :=
  .next (s.twillMem c 0x27 false f fun s => s.vstoreBody c false f)

/-- VSCATTER. -/
def execVscatter (c : Nat) (f : VMFields) (s : State) : Res :=
  .next (s.twillMem c 0x29 true f fun s => s.vstoreBody c true f)

end Sys2Proof.Machine
end

