-- ==== Sys2Proof/Machine/Fabric.lean ====
section
/-! DEFINITION. The fabric's answers (R394 to R410): what comes back to an issuer, what this package does as the target of a request, its
completion cache, ordered float adds, REMOTE_OP, and the life of a link. -/

namespace Sys2Proof.Machine

/-! ### Answers to a user core, R325, R335, R409 -/

/-- The core goes on after the access that it waited for. -/
def State.coreGoesOn (s : State) (c : Nat) : State :=
  s.modCore c fun k => { k with stalled := false, stallVa := 0, stallWord := 0, pc := k.pc + 4 }

/-- An answer to a user core's access: a load or atomic completes, or ends with poison; a store has completed before. -/
def State.coreAnswer (s : State) (c rd kind status : Nat) (bytes : List Byte) : State :=
  let bad := status != 0 && status != 0x0102
  let s := if status = 0x0102 then s.coreUnpop c else s
  if kind = 8 then (if bad then s.coreAbort c else s)
  else if kind < 8 then
    if bad then
      let k := s.core c
      (s.modCore c fun k => { k with stalled := false, stallVa := 0, stallWord := 0 }).syncTrap c 0x0B 0 k.stallVa.toNat
        k.stallWord.toNat k.pc.toNat
    else (s.modCore c fun k => k.setReg rd (loadExt kind (leNat bytes))).coreGoesOn c
  else if bad then
    let s := s.coreAbort c
    ((s.modCore c fun k => k.setReg rd (loadExt (if kind = 17 then 6 else 4) (s.free1 % 2 ^ (if kind = 17 then 64 else 32)))).freed).coreGoesOn c
  else (s.modCore c fun k => k.setReg rd (loadExt (if kind = 17 then 6 else 4) (leNat bytes))).coreGoesOn c

/-! ### Answers to an issuer, R405 -/

/-- What becomes of an answered request: status, and the bytes of its response. -/
def State.answered (s : State) (o : Outst) (status : Nat) (bytes : List Byte) : State :=
  match o.isFor with
  | .tile k ord => s.tileAnswer k ord o status bytes
  | .core c rd kind => s.coreAnswer c rd kind status bytes
  | .lane c i => s.vanswer c i (if status = 0 then leNat bytes else 0) (status != 0 && status != 0x0102)
  | .mem w off => s.memAnswer w off status bytes
  | .cmd q seq => s.finish q seq status 0 (if status = 0 && o.hdr.op != 2 then leNat (bytes.take 8) else 0)
  | .coll _ => s
  | .mirror => s.takeoverAnswer status
  | .nobody => s

/-- A request is no longer outstanding. -/
def State.dropOutst (s : State) (o : Outst) : State :=
  { s with fab := { s.fab with outst := s.fab.outst.filter fun x => x.idx != o.idx } }.idleStreams

/-- FABRIC_RESPONSE: by slot and gen, or for a read by its own number; a second response finds nothing. -/
def execFabricResponse (src slot gen tag : Nat) (status : BitVec 16) (data : BitVec 512) (s : State) : Res :=
  let mine := fun (o : Outst) =>
    o.link < 64 && o.hdr.dst.toNat == src
      && (if o.hdr.op = 1 then slot == 0 && gen == 0 && o.idx == tag else o.hdr.slot.toNat == slot && o.hdr.gen.toNat == gen)
  if !s.up then .next s
  else
    match s.fab.outst.find? mine with
    | none => .next s
    | some o =>
      let s := if o.hdr.op = 1 then s else s.freeSlotOf src slot
      .next ((s.dropOutst o).answered o status.toNat (leBytes (min 64 (bytesOfCode o.hdr.size.toNat)) data.toNat)).pump

/-- No path is there for a waiting request. -/
def State.noPath (s : State) (o : Outst) : Bool :=
  match s.streamPath o.stream with
  | some p => !(s.linkUp p.1)
  | none => (s.freshPath o.hdr.engine.toNat o.hdr.dst.toNat o.hdr.oclass.toNat).2.isNone

/-- REISSUE_TIMEOUT: resp_timeout_us have passed without a response. -/
def execReissueTimeout (idx : Nat) (s : State) : Res :=
  if !s.up then .next s
  else
    match s.fab.outst.find? fun o => o.idx == idx && o.link < 64 with
    | none => .next s
    | some o => .next ((s.detEvent 6 none o.link).reissue o)

/-- FAB_POISON_TIMEOUT: 2 ms after the first issue, or while no path offers itself. The slot stays held (R409). -/
def execFabPoisonTimeout (idx : Nat) (s : State) : Res :=
  if !s.up then .next s
  else
    match s.fab.outst.find? fun o => o.idx == idx && (o.link < 64 || (o.link == noLink && (o.reissued || s.noPath o))) with
    | none => .next s
    | some o =>
      let k := o.hdr.dst.toNat * 4096 + o.hdr.slot.toNat
      let s :=
        if o.hdr.op = 1 || o.hdr.gen = 0 then s
        else { s with fab := { s.fab with slots := smod SlotS.zero s.fab.slots k fun v => { v with poisoned := true } } }
      .next (((s.dropOutst o).detEvent 8 (some o.hdr.part.toNat) 0).answered o 0x0C02 (zeros (dataLen o.hdr))).pump

/-- SLOT_HOLD_EXPIRY: a slot held after poison is freed with its gen advanced. -/
def execSlotHoldExpiry (dst slot : Nat) (s : State) : Res :=
  let k := dst * 4096 + slot
  let v := sget SlotS.zero s.fab.slots k
  if v.busy && v.poisoned then
    .next ({ s with
      fab :=
        { s.fab with
          slots := sput SlotS.zero s.fab.slots k { gen := v.gen + 1, busy := false, poisoned := false } } }).pump
  else .next s

/-! ### The target, R396 and R406 -/

/-- A response leaves on the path that the target has to the issuer; with none it is lost, and the issuer asks again. -/
def State.respond (s : State) (h : FabHdr) (status : Nat) (data : List Byte) : State :=
  match s.freshPath h.engine.toNat h.src.toNat h.oclass.toNat with
  | (s, some p) => s.sendPacket p.1 p.2 { h with resp := true, hops := 0 } (some status) data
  | (s, none) => s

/-- Whether a request arrived intact for this package; what is discarded is counted. -/
def State.arrives (s : State) (h : FabHdr) : State × Bool :=
  if !s.up || h.hops = 15 || h.resp then (s, false)
  else if h.dst.toNat != s.pkgId then (s.countFld aFabStatus 15 0 1, false)
  else if !h.crcOk then (s.countFld aFabStatus 31 16 1, false)
  else (s, true)

def CCEnt.zero : CCEnt := { gen := 0, fin := false, status := 0, data := 0 }

/-- Key of a completion-cache entry. -/
def ccKey (h : FabHdr) : Nat := h.src.toNat * 4096 + h.slot.toNat

def State.setCc (s : State) (h : FabHdr) (e : CCEnt) : State :=
  { s with fab := { s.fab with cc := sput CCEnt.zero s.fab.cc (ccKey h) e } }

/-- A slotted request has been performed: the entry is done, and its response leaves. -/
def State.ccDone (s : State) (h : FabHdr) (a : TargetAns) : State :=
  (s.setCc h { gen := h.gen, fin := true, status := BitVec.ofNat 16 a.status, data := BitVec.ofNat 64 (leNat (a.data.take 8)) }).respond h
    a.status a.data

/-- What a source's slots lie within, R406. -/
def State.ccCovers (s : State) (src : Nat) : Bool := s.fld aFabCcRange 47 32 ≤ src && src ≤ s.fld aFabCcRange 63 48

/-- A slotted request takes effect exactly once. `perform` answers at once, or not before a furrow boundary. `len` is the length of its
response data. -/
def State.slotted (s : State) (h : FabHdr) (len : Nat) (perform : State → State × Option TargetAns) : State :=
  if !(s.ccCovers h.src.toNat) then s.countFld aFabCcRange 31 0 1
  else
    let e := sget CCEnt.zero s.fab.cc (ccKey h)
    let d := (h.gen - e.gen).toNat
    if d = 0 then
      if e.fin then (s.countFld aFabStatus 47 32 1).respond h e.status.toNat (leBytes len e.data.toNat) else s
    else if d ≤ 2 ^ 23 then
      match perform (s.setCc h { gen := h.gen, fin := false, status := 0, data := 0 }) with
      | (s, some a) => s.ccDone h a
      | (s, none) => s
    else s

/-- Write bytes at the target. -/
def State.targetWrite (s : State) (a : Nat) (bs : List Byte) : State × TargetAns :=
  let r := s.readMem false a bs.length
  if r.unpop then (s, ⟨0x0102, []⟩)
  else if r.poison && bs.length < 64 then (s, ⟨0x0901, []⟩)
  else ((s.writeMem a bs).1, ⟨0, []⟩)

/-- FABRIC_READ: 1 to 64 bytes. -/
def execFabricRead (hdr : FabHdr) (_data : BitVec 512) (s : State) : Res :=
  match s.arrives hdr with
  | (s, false) => .next s
  | (s, true) =>
    if hdr.size = 7 then .next s
    else
      let r := s.readMem false hdr.addr.toNat (bytesOfCode hdr.size.toNat)
      if r.unpop then .next (s.respond hdr 0x0102 r.data)
      else if r.poison then .next (s.respond hdr 0x0901 [])
      else .next (s.respond hdr 0 r.data)

/-- FABRIC_WRITE: 1 to 64 bytes. -/
def execFabricWrite (hdr : FabHdr) (data : BitVec 512) (s : State) : Res :=
  match s.arrives hdr with
  | (s, false) => .next s
  | (s, true) =>
    if hdr.size = 7 then .next s
    else
      .next (s.slotted hdr 0 fun s =>
        let r := s.targetWrite hdr.addr.toNat (leBytes (bytesOfCode hdr.size.toNat) data.toNat)
        (r.1, some r.2))

/-- An atomic of `op` on operands of the sizes that R394 gives it; another size names no operation, and nothing happens. -/
def State.targetAtom (s : State) (hdr : FabHdr) (data : BitVec 512) (op : Nat) : State :=
  let n := bytesOfCode hdr.size.toNat
  match s.arrives hdr with
  | (s, false) => s
  | (s, true) =>
    if !(if op < 0x18 then n == 4 || n == 8 else n == 2 || n == 4) then s
    else
      s.slotted hdr n fun s =>
        let r := s.atomAt op hdr.addr.toNat n (data.toNat % 2 ^ (8 * n)) ((data.toNat >>> (8 * n)) % 2 ^ (8 * n))
        (r.1, some r.2)

/-- INTEGER_ADD, op 0x10. -/
def execIntegerAdd (hdr : FabHdr) (data : BitVec 512) (s : State) : Res := .next (s.targetAtom hdr data 0x10)

/-- SIGNED_MIN_MAX, op 0x11 min and 0x12 max. -/
def execSignedMinMax (hdr : FabHdr) (data : BitVec 512) (s : State) : Res :=
  .next (s.targetAtom hdr data (if hdr.op = 0x12 then 0x12 else 0x11))

/-- UNSIGNED_MIN_MAX, op 0x13 min and 0x14 max. -/
def execUnsignedMinMax (hdr : FabHdr) (data : BitVec 512) (s : State) : Res :=
  .next (s.targetAtom hdr data (if hdr.op = 0x14 then 0x14 else 0x13))

/-- SWAP, op 0x15. -/
def execSwap (hdr : FabHdr) (data : BitVec 512) (s : State) : Res := .next (s.targetAtom hdr data 0x15)

/-- COMPARE_AND_SWAP, op 0x16. -/
def execCompareAndSwap (hdr : FabHdr) (data : BitVec 512) (s : State) : Res := .next (s.targetAtom hdr data 0x16)

/-- FLOAT_ADD, op 0x18. -/
def execFloatAdd (hdr : FabHdr) (data : BitVec 512) (s : State) : Res := .next (s.targetAtom hdr data 0x18)

/-- FLOAT_MAXIMUM_MINIMUM, op 0x19 maximum and 0x1A minimum. -/
def execFloatMaximumMinimum (hdr : FabHdr) (data : BitVec 512) (s : State) : Res :=
  .next (s.targetAtom hdr data (if hdr.op = 0x1A then 0x1A else 0x19))

/-! ### Ordered float adds, R397 -/

/-- ORDERED_FLOAT_ADD, op 0x1C: it waits for the next furrow. -/
def execOrderedFloatAdd (hdr : FabHdr) (data : BitVec 512) (s : State) : Res :=
  match s.arrives hdr with
  | (s, false) => .next s
  | (s, true) =>
    let n := bytesOfCode hdr.size.toNat
    if n != 2 && n != 4 then .next s
    else
      .next (s.slotted hdr 0 fun s => (s.orderPut { hdr := hdr, data := BitVec.ofNat 32 (data.toNat % 2 ^ (8 * n)) }, none))

/-- Place of an update in the order of application: ascending src, then engine; streams keep their order. -/
def orderInsert (x : OrdAdd) : List OrdAdd → List OrdAdd
  | [] => [x]
  | y :: ys =>
    if x.hdr.src < y.hdr.src ∨ (x.hdr.src = y.hdr.src ∧ x.hdr.engine < y.hdr.engine) then x :: y :: ys else y :: orderInsert x ys

/-- Link number of an update of the own package, which no link carries. -/
def orderLink : Nat := 254

/-- One buffered update is applied and answered. -/
def State.orderApply (s : State) (o : OrdAdd) : State :=
  let n := bytesOfCode o.hdr.size.toNat
  let r := s.atomAt 0x1C o.hdr.addr.toNat n o.data.toNat 0
  if o.hdr.src.toNat = s.pkgId then
    match r.1.fab.outst.find? fun x => x.link == orderLink && x.idx == o.hdr.gen.toNat with
    | some x => (r.1.dropOutst x).answered x r.2.status []
    | none => r.1
  else r.1.ccDone o.hdr ⟨r.2.status, []⟩

/-- A furrow begins: the buffered updates are applied in their order, and those that waited outside enter the buffer. -/
def State.applyOrder (s : State) : State :=
  let all := s.fab.order.foldl (fun l x => orderInsert x l) []
  let waiting := s.fab.orderWait
  let s := { s with fab := { s.fab with order := [], orderWait := [] } }
  let s := all.foldl State.orderApply s
  { s with fab := { s.fab with order := s.fab.order ++ waiting.take orderRoom, orderWait := s.fab.orderWait ++ waiting.drop orderRoom } }

/-! ### Commands over the fabric, R398 -/

/-- The port of a command that arrives over link `n` from package `src` (R398, R458): the buddy port from the buddy over a buddy link, and
in a spare over a spare-position link or a direct link of its chassis; else the peer port. -/
def State.cmdPort (s : State) (n src : Nat) : Nat :=
  let buddy := s.buddy != 0 && src == s.buddy && s.fld (aFabLinkCfg n) 2 0 == 2
  let spare := s.flag aCkptCfg 63
    && (s.fld (aFabLinkCfg n) 2 0 == 4 || (s.fld (aFabLinkStatus n) 63 48 == src && s.sameGroup src))
  if buddy || spare then 4 else 3

/-- COMMAND_PACKET: it enters by its port, and op 0x21 answers. -/
def execCommandPacket (n : Nat) (hdr : FabHdr) (pkt : BitVec 512) (s : State) : Res :=
  match s.arrives hdr with
  | (s, false) => .next s
  | (s, true) =>
    let src := hdr.src.toNat
    .next (s.slotted { hdr with op := 0x21 } 0 fun s =>
      let r := s.portEnter (s.cmdPort n src) true pkt
      let s := if r.2 = 0 && pOpcode pkt = 0x0C02 then { r.1 with ckpt := { r.1.ckpt with takeFrom := src } } else r.1
      (s, some ⟨r.2, []⟩))

/-- COMMAND_ANSWER: the packet's slot is free again. -/
def execCommandAnswer (src slot gen answer : Nat) (s : State) : Res :=
  let mine := fun (o : Outst) => o.link < 64 && o.hdr.op == 0x20 && o.hdr.dst.toNat == src && o.hdr.slot.toNat == slot && o.hdr.gen.toNat == gen
  match s.fab.outst.find? mine with
  | none => .next s
  | some o => .next (((s.freeSlotOf src slot).dropOutst o).answered o answer []).pump

/-! ### REMOTE_OP, R399 -/

/-- Sizes of an operation of REMOTE_OP: reads up to 64 bytes, writes up to the 16 bytes of the packet, atomics as R394 says. -/
def remoteSize (op code : Nat) : Bool :=
  if op = 1 then code ≤ 6
  else if op = 2 then code ≤ 4
  else if 0x10 ≤ op && op ≤ 0x16 then code = 2 || code = 3
  else if op = 0x18 || op = 0x19 || op = 0x1A then code = 1 || code = 2
  else false

def chkRemoteOp (s : State) (c : Cmd) : Chk :=
  let g := c.parm 16 8
  let op := c.parm 24 1
  Chk.all
    [Chk.must (remoteSize op (c.parm 25 1)) 0x0304,
     Chk.must (g % bytesOfCode (c.parm 25 1) == 0) 0x0304, Chk.must (!(s.globalDet && op == 0x18)) 0x0E01, destValid g,
     match s.dest g with
     | .remote p a =>
       Chk.must ((c.target == 0xFFFFFFFF && s.qPort c.q == 0) || s.keyOk (c.target % 16) p a op) 0x0302
     | _ => .ok]

/-- In another package it is one request; here it is performed at once. -/
def effRemoteOp (s : State) (c : Cmd) : State :=
  let op := c.parm 24 1
  let n := bytesOfCode (c.parm 25 1)
  match s.dest (c.parm 16 8) with
  | .remote p a =>
    let data := if op = 1 then [] else if op = 0x16 then leBytes (2 * n) (c.parm 32 16) else leBytes n (c.parm 32 16)
    s.fabIssue s.stewardEngine (if c.target < 16 then c.target else 0) 0 op p a n data (.cmd c.q c.seq)
  | .here a =>
    if op = 1 then
      let r := s.readMem false a n
      if r.unpop then c.done s 0x0102 0
      else if r.poison then c.done s 0x0901 0
      else c.done s 0 (leNat (r.data.take 8))
    else if op = 2 then
      let r := s.targetWrite a (leBytes n (c.parm 32 16))
      c.done r.1 r.2.status 0
    else
      let r := s.atomAt op a n (c.parm 32 n) (c.parm (32 + n) n)
      c.done r.1 r.2.status (if r.2.status = 0 then leNat r.2.data else 0)
  | .invalid => c.done s 0x0C01 0

/-! ### Links, R387 to R392 and R513 -/

/-- Whether training is refused. -/
def State.trainRefused (s : State) (n : Nat) (r : TrainReport) : Bool :=
  r.peerPkg = 0 || r.peerPkg.toNat == s.pkgId || !r.bootOk || (s.fld (aFabLinkCfg n) 2 0 == 2 && r.peerPkg.toNat != s.buddy)

/-- The lanes that fail: those whose narrowest eye is below 12 steps, and one that moved to the spare before. -/
def State.badLanes (s : State) (n : Nat) (r : TrainReport) : List Nat :=
  let f := (below 5).filter fun i => ((nth r.eyes i).getD 64) < 12
  let old := s.fld (aFabLinkStatus n) 10 8
  if s.flag (aFabLinkStatus n) 7 && old < 4 && !(f.contains old) then old :: f else f

/-- The calibrated asymmetry, units of 2^-6 ns; which way a half goes is a free value. -/
def asymOf (r : TrainReport) (free : Nat) : Int :=
  let x := (r.txLocal + r.rxRemote) - (r.txRemote + r.rxLocal)
  x / 2 + (if x % 2 = 0 then 0 else ((free % 2 : Nat) : Int))

/-- LINK_TRAINED: training ends UP or REFUSED, or DOWN for good when two lanes fail. -/
def execLinkTrained (n : Nat) (rep : TrainReport) (s : State) : Res :=
  let st := s.fld (aFabLinkStatus n) 2 0
  if !(s.boot.alive && n < 64 && (st == 1 || st == 4) && s.flag (aFabLinkCfg n) 63 && s.pkgId != 0 && !(s.link n).dead) then .next s
  else
    let s := (s.setFld (aFabLinkStatus n) 63 48 rep.peerPkg.toNat).setFld (aFabLinkStatus n) 47 42 rep.peerLink.toNat
    if s.trainRefused n rep then .next ((s.setLinkState n 5).setFlag aFabStatus 61)
    else
      let bad := s.badLanes n rep
      if 2 ≤ bad.length then
        let s := (s.setLinkState n 4).errRecord
          { event := s.free1 % 256, cls := 3, sev := some 2, part := none, loc := n, addr := 0, data := [] }
        .next ((s.freed).setLink n { LinkS.zero with dead := true })
      else
        let s :=
          match bad with
          | [l] => if l < 4 then (s.setFld (aFabLinkStatus n) 7 7 1).setFld (aFabLinkStatus n) 10 8 l else s
          | _ => s
        let s := (s.setFld (aTimeLinkAsym n) 15 0 (wrapInt 16 (asymOf rep s.free1))).freed
        .next (((s.setLink n LinkS.zero).setLinkState n 2).pump)

/-- LINK_TRAIN_RETRY: a refused link trains again. -/
def execLinkTrainRetry (n : Nat) (s : State) : Res :=
  if s.boot.alive && n < 64 && s.fld (aFabLinkStatus n) 2 0 = 5 && s.flag (aFabLinkCfg n) 63 then .next (s.setLinkState n 1) else .next s

/-- LANE_FAIL. -/
def execLaneFail (n lane : Nat) (s : State) : Res :=
  if s.boot.alive && n < 64 && lane < 5 && s.linkUp n then .next (s.laneFails n lane).pump else .next s

/-- LINK_DOWN: no intact flit for 8 us. -/
def execLinkDown (n : Nat) (s : State) : Res :=
  if s.boot.alive && n < 64 && s.linkUp n then .next (s.linkFails n).pump else .next s

/-- What a cumulative acknowledgement leaves in the replay buffer. -/
def LinkS.acked (l : LinkS) (ack : BitVec 24) : LinkS :=
  { l with replay := l.replay.dropWhile fun e => (ack - e.1).toNat < 2 ^ 23 }

/-- A nack goes out for the flit that is expected; the eighth in a row takes the link DOWN. -/
def State.sendNack (s : State) (n : Nat) : State :=
  let l := s.link n
  let s := ((s.setLink n { l with nackRun := l.nackRun + 1 }).countFld (aFabLinkErr n) 15 0 1).emit (.nack n l.rxNext.toNat)
  if 8 ≤ l.nackRun + 1 then (s.linkFails n).pump else s

/-- FLIT_RECEIVE: a good flit acknowledges, returns credits, and as the next data flit is taken; a bad flit or a gap is discarded and
answered by one nack, and every later flit is discarded until the resent one comes (R390, R391). -/
def execFlitReceive (n : Nat) (flit : Flit) (s : State) : Res :=
  if !(s.boot.alive && n < 64 && s.linkUp n) then .next s
  else
    let s := if flit.fecCorrected then s.countFld (aFabLinkErr n) 63 32 1 else s
    let l := s.link n
    if !(flit.fecOk && flit.crcOk) then
      let s := if flit.fecOk && !flit.crcOk then s.countFld (aFabLinkErr n) 31 16 1 else s
      if l.nackRun = 0 || flit.seq = l.rxNext then .next (s.sendNack n) else .next s
    else
      let l := { l.acked flit.ack with credits := l.credits + flit.credits.toNat }
      let s := s.setLink n l
      if flit.kind != 1 then .next s
      else if flit.seq = l.rxNext then .next (s.setLink n { l with rxNext := l.rxNext + 1, nackRun := 0 })
      else if (flit.seq - l.rxNext).toNat < 2 ^ 23 && l.nackRun = 0 then .next (s.sendNack n)
      else .next s

/-- NACK: every flit from the named one is sent again, in order. -/
def execNack (n seq : Nat) (s : State) : Res :=
  if !(s.boot.alive && n < 64 && s.linkUp n) then .next s
  else
    .next ((((s.link n).replay.dropWhile fun e => e.1.toNat != seq % 2 ^ 24)).foldl
      (fun s (e : BitVec 24 × BitVec 1920) => s.emit (.resend n e.1.toNat e.2)) s)

end Sys2Proof.Machine
end

