-- ==== Sys2Proof/Machine/Collective.lean ====
section
/-! DEFINITION. Collectives (R414 to R428) and barriers (R106): set-up, what each step of an algorithm sends and keeps, the notices of a
step and its decision, streamed contributions, teardown. -/

namespace Sys2Proof.Machine

/-! ### The descriptor, R414, R415 -/

/-- Word `i` of the descriptor. -/
def Coll.w (k : Coll) (i : Nat) : Nat := ((nth k.desc i).getD 0).toNat

def Coll.op (k : Coll) : Nat := bits (k.w 0) 63 60
def Coll.redop (k : Coll) : Nat := bits (k.w 0) 57 56
def Coll.etype (k : Coll) : Nat := bits (k.w 0) 55 53
def Coll.stream (k : Coll) : Bool := bit (k.w 0) 51
def Coll.root (k : Coll) : Nat := bits (k.w 0) 45 32
def Coll.n (k : Coll) : Nat := bits (k.w 0) 30 16
def Coll.s (k : Coll) : Nat := bits (k.w 7) 63 56
def Coll.nslices (k : Coll) : Nat := bits (k.w 7) 55 40

/-- Bytes of an element. -/
def elemBytes (etype : Nat) : Nat :=
  match etype with
  | 0 => 4
  | 1 => 2
  | 2 => 8
  | 3 => 4
  | 4 => 8
  | _ => 1

/-- B of R415. -/
def Coll.b (k : Coll) : Nat := bits (k.w 1) 39 0 * elemBytes k.etype

/-- Bytes of an output half. -/
def Coll.outHalf (k : Coll) : Nat :=
  match k.op with
  | 1 => k.b
  | 2 => k.b / k.n
  | 3 => k.n * k.b
  | 4 => k.b
  | 5 => k.n * k.b
  | _ => 0

/-! ### Chassis, R417, R418, R421 -/

/-- The chassis of a package: package_id[15:5]. -/
def chassisOf (pkg : Nat) : Nat := pkg / 32

/-- The chassis that hold members, each once, in order of first appearance. -/
def chassisList (ms : List Nat) : List Nat :=
  ms.foldl (fun l p => if l.contains (chassisOf p) then l else l ++ [chassisOf p]) []

/-- Ceiling of the base-2 logarithm. -/
def clog2 (n : Nat) : Nat := if n ≤ 1 then 0 else (n - 1).log2 + 1

/-- T of R75 in ns, for the chassis of the members. -/
def barrierNs (ms : List Nat) : Nat := 360 + 2 * clog2 (chassisList ms).length * 2600

/-- w of R421. -/
def State.noticeFurrows (s : State) (ms : List Nat) : Nat := (barrierNs ms + s.guard + s.furrowLen - 1) / s.furrowLen

/-- M, when every chassis holds equally many members, rank r in chassis r div M, and C is a power of two. -/
def twoLevel (ms : List Nat) : Option Nat :=
  let cs := chassisList ms
  let m := ms.length / cs.length
  if 2 ^ cs.length.log2 = cs.length && m * cs.length = ms.length
      && (ms.zip (below ms.length)).all fun e => nth cs (e.2 / m) == some (chassisOf e.1)
  then some m else none

/-- The algorithm that runs: the descriptor's, or R418's choice; none when R417 refuses it. -/
def algOf (op alg : Nat) (ms : List Nat) : Option Nat :=
  let one := (chassisList ms).length = 1
  let two := (twoLevel ms).isSome && (op = 1 || op = 3 || op = 6)
  let ring := op != 6
  match alg with
  | 0 => if one then some 0 else none
  | 1 => if ring then some 1 else none
  | 2 => if two then some 2 else none
  | _ => if one then some 0 else if two then some 2 else if ring then some 1 else none

/-- M of a two-level collective. -/
def Coll.m (k : Coll) : Nat := (twoLevel k.members).getD 1

/-- log2 C. -/
def Coll.lgC (k : Coll) : Nat := (k.n / max 1 k.m).log2

/-- Steps of a run, R417. -/
def Coll.steps (k : Coll) : Nat :=
  match k.alg with
  | 0 => if k.op = 1 then 2 else 1
  | 1 => if k.op = 1 then 2 * (k.n - 1) else k.n - 1
  | _ => if k.op = 1 then 2 + k.lgC else if k.op = 3 then 1 + k.lgC else 1

/-! ### What a step sends, R417, R420 -/

/-- Data of one transfer: a range of the sender's contribution, then blocks it holds. -/
structure XSend where
  own : Option (Nat × Nat)
  held : List Nat
  deriving DecidableEq, Repr

/-- Piece `j` of `n` of the contribution. -/
def Coll.piece (k : Coll) (n j : Nat) : Nat × Nat := (j * (k.b / n), k.b / n)

/-- Bytes of a held block. -/
def Coll.blk (k : Coll) : Nat :=
  if k.op = 1 ∨ k.op = 2 then (if k.alg = 2 then k.b / k.m else k.b / k.n) else if k.op = 5 then k.b / k.n else k.b

/-- Step `k.step` under one-shot mesh. -/
def Coll.meshSend (k : Coll) (r dst : Nat) : Option XSend :=
  match k.op with
  | 1 => if k.step = 0 then some ⟨some (k.piece k.n dst), []⟩ else some ⟨none, [r]⟩
  | 2 => some ⟨some (k.piece k.n dst), []⟩
  | 3 => some ⟨some (0, k.b), []⟩
  | 4 => if r = k.root then some ⟨some (0, k.b), []⟩ else none
  | 5 => some ⟨some (k.piece k.n dst), []⟩
  | _ => none

/-- Under ring. -/
def Coll.ringSend (k : Coll) (r dst : Nat) : Option XSend :=
  let n := k.n
  let i := k.step
  if k.op = 5 then (if dst = (r + 1 + i) % n then some ⟨some (k.piece n dst), []⟩ else none)
  else if dst != (r + 1) % n then none
  else if k.op = 1 ∨ k.op = 2 then
    if i < n - 1 then
      let j := (r + 2 * n - 1 - i) % n
      if i = 0 then some ⟨some (k.piece n j), []⟩ else some ⟨none, [j]⟩
    else some ⟨none, [(r + n - (i - (n - 1))) % n]⟩
  else if k.op = 3 then (if i = 0 then some ⟨some (0, k.b), []⟩ else some ⟨none, [(r + n - i) % n]⟩)
  else if r = (k.root + i) % n then (if i = 0 then some ⟨some (0, k.b), []⟩ else some ⟨none, [k.root]⟩)
  else none

/-- Ranks of the chassis that a member has gathered before doubling stage `t`. -/
def Coll.group (k : Coll) (c t : Nat) : List Nat := upFrom (c / 2 ^ t * 2 ^ t * k.m) (2 ^ t * k.m)

/-- Under two-level. -/
def Coll.twoSend (k : Coll) (r dst : Nat) : Option XSend :=
  let m := k.m
  let c := r / m
  let i := r % m
  let mate := dst / m = c
  if k.step = 0 then
    if !mate then none else if k.op = 1 then some ⟨some (k.piece m (dst % m)), []⟩ else some ⟨some (0, k.b), []⟩
  else if k.step ≤ k.lgC then
    if dst = (c ^^^ 2 ^ (k.step - 1)) * m + i then
      (if k.op = 1 then some ⟨none, [i]⟩ else some ⟨none, k.group c (k.step - 1)⟩)
    else none
  else if mate then some ⟨none, [i]⟩ else none

/-- What rank `r` sends to rank `to` in the current step. -/
def Coll.xsend (k : Coll) (r dst : Nat) : Option XSend :=
  if r = dst then none
  else
    match k.alg with
    | 0 => k.meshSend r dst
    | 1 => k.ringSend r dst
    | _ => k.twoSend r dst

/-- Length of a transfer. -/
def Coll.xlen (k : Coll) (x : XSend) : Nat := (x.own.map fun p => p.2).getD 0 + k.blk * x.held.length

/-! ### Reduction, R420 -/

/-- One element. -/
def redElem (redop etype x y : Nat) : Nat :=
  let f := fun (fm : Fmt) =>
    if redop = 0 then (fadd fm 0 x y).1 else (fmaxmin fm (redop == 1) x y).1
  let i := fun (w : Nat) =>
    if redop = 0 then (x + y) % 2 ^ w else if redop = 1 then (iMax w true x y).1 else (iMin w true x y).1
  match etype with
  | 0 => f fp32
  | 1 => f bf16
  | 2 => f fp64
  | 3 => i 32
  | 4 => i 64
  | _ => i 8

/-- Element-wise x + y over bytes; `fuel` elements are enough. -/
def redBytes (redop etype : Nat) : Nat → List Byte → List Byte → List Byte
  | 0, _, _ => []
  | fuel + 1, x, y =>
    let e := elemBytes etype
    if x.isEmpty then []
    else leBytes e (redElem redop etype (leNat (x.take e)) (leNat (y.take e))) ++ redBytes redop etype fuel (x.drop e) (y.drop e)

def Coll.red (k : Coll) (x y : List Byte) : List Byte := redBytes k.redop k.etype x.length x y

/-- The blocks of several members, combined in the order given. -/
def Coll.redAll (k : Coll) : List (List Byte) → List Byte
  | [] => []
  | x :: xs => xs.foldl k.red x

/-! ### What a step leaves -/

/-- The member's own contribution. -/
def State.ownPart (s : State) (k : Coll) (p : Nat × Nat) : List Byte := mread s.hbm.mem (k.w 3 + p.1) p.2

/-- What a member received from a rank in the current step. -/
def Coll.from_ (k : Coll) (f : Nat) : List Byte :=
  match k.xsend f k.rank with
  | none => []
  | some x => ((sget [] k.got f).flatMap fun e => leBytes 4096 e.2.toNat).take (k.xlen x)

/-- Block `j`, held or empty. -/
def Coll.block (k : Coll) (j : Nat) : List Byte := (sfind? k.held j).getD []

/-- Blocks of every rank, with this member's own. -/
def Coll.all (_k : Coll) (n : Nat) (own : List Byte) (me : Nat) (f : Nat → List Byte) : List Byte :=
  (below n).flatMap fun j => if j = me then own else f j

/-- After the current step: the blocks held, and the member's result when it is the last. -/
def State.stepResult (s : State) (k : Coll) : SMap (List Byte) × Option (List Byte) :=
  let r := k.rank
  let n := k.n
  let own := s.ownPart k
  let put := fun j d => sins k.held j d
  match k.alg with
  | 0 =>
    let red := k.redAll ((below n).map fun j => if j = r then own (k.piece n r) else k.from_ j)
    match k.op with
    | 1 => if k.step = 0 then (put r red, none) else (k.held, some (k.all n (k.block r) r k.from_))
    | 2 => (k.held, some red)
    | 3 => (k.held, some (k.all n (own (0, k.b)) r k.from_))
    | 4 => (k.held, some (if r = k.root then own (0, k.b) else k.from_ k.root))
    | 5 => (k.held, some (k.all n (own (k.piece n r)) r k.from_))
    | _ => (k.held, none)
  | 1 =>
    let i := k.step
    let prev := (r + n - 1) % n
    if k.op = 1 ∨ k.op = 2 then
      if i < n - 1 then
        let j := (r + 2 * n - 2 - i) % n
        let red := k.red (k.from_ prev) (own (k.piece n j))
        if k.op = 2 && i + 1 = n - 1 then (k.held, some red) else (put j red, none)
      else
        let j := (r + 2 * n - 1 - (i - (n - 1))) % n
        let h := put j (k.from_ prev)
        (h, if i + 1 = 2 * (n - 1) then some ((below n).flatMap fun x => (sfind? h x).getD []) else none)
    else if k.op = 3 then
      let h := put ((r + 2 * n - 1 - i) % n) (k.from_ prev)
      (h, if i + 1 = n - 1 then some (k.all n (own (0, k.b)) r fun x => (sfind? h x).getD []) else none)
    else if k.op = 4 then
      let h := if (k.xsend prev r).isSome then put k.root (k.from_ prev) else k.held
      (h, if i + 1 = n - 1 then some (if r = k.root then own (0, k.b) else (sfind? h k.root).getD []) else none)
    else
      let f := (r + 2 * n - 1 - i) % n
      let h := put f (k.from_ f)
      (h, if i + 1 = n - 1 then some (k.all n (own (k.piece n r)) r fun x => (sfind? h x).getD []) else none)
  | _ =>
    let m := k.m
    let c := r / m
    let i := r % m
    let mates := upFrom (c * m) m
    if k.op = 1 then
      if k.step = 0 then (put i (k.redAll (mates.map fun j => if j = r then own (k.piece m i) else k.from_ j)), none)
      else if k.step ≤ k.lgC then
        let other := (c ^^^ 2 ^ (k.step - 1)) * m + i
        (put i (if c < other / m then k.red (k.block i) (k.from_ other) else k.red (k.from_ other) (k.block i)), none)
      else (k.held, some (k.all m (k.block i) i fun j => k.from_ (c * m + j)))
    else
      let h :=
        if k.step = 0 then mates.foldl (fun h j => sins h j (if j = r then own (0, k.b) else k.from_ j)) k.held
        else
          let t := k.step - 1
          let other := c ^^^ 2 ^ t
          let d := k.from_ (other * m + i)
          ((k.group other t).zip (below (2 ^ t * m))).foldl
            (fun h e => sins h e.1 ((d.drop (e.2 * k.b)).take k.b)) k.held
      (h, if k.step = k.lgC then some ((below n).flatMap fun x => (sfind? h x).getD []) else none)

/-- The part of its own contribution that a member combines or keeps in the current step. -/
def Coll.keeps (k : Coll) : Option (Nat × Nat) :=
  let last := k.step + 1 = k.steps
  match k.alg, k.op with
  | 0, 1 => if k.step = 0 then some (k.piece k.n k.rank) else none
  | 1, 1 => if k.step < k.n - 1 then some (k.piece k.n ((k.rank + 2 * k.n - 2 - k.step) % k.n)) else none
  | 1, 2 => some (k.piece k.n ((k.rank + 2 * k.n - 2 - k.step) % k.n))
  | 0, 2 => some (k.piece k.n k.rank)
  | 0, 5 => some (k.piece k.n k.rank)
  | 1, 5 => if last then some (k.piece k.n k.rank) else none
  | 2, 1 => if k.step = 0 then some (k.piece k.m (k.rank % k.m)) else none
  | 2, 3 => if k.step = 0 then some (0, k.b) else none
  | _, 3 => if last then some (0, k.b) else none
  | _, 4 => if last && k.rank = k.root then some (0, k.b) else none
  | _, _ => none

/-! ### Streamed contributions, R427 -/

/-- Chunk `g` of the contribution is ready in this run. -/
def Coll.chunkReady (k : Coll) (g : Nat) : Bool :=
  let per := max 1 (k.b / max 1 k.nslices / 4096)
  let v := (sget 0 k.ready (g / per)).toNat
  bits v 63 40 == k.runNo % 2 ^ 24 && g % per < bits v 39 0

/-- A range of the contribution may be read. -/
def Coll.readyRange (k : Coll) (p : Nat × Nat) : Bool :=
  !k.stream || p.2 = 0 || (upFrom (p.1 / 4096) ((p.1 + p.2 - 1) / 4096 + 1 - p.1 / 4096)).all k.chunkReady

/-! ### Sending and finishing -/

/-- The chunks of the current step that have not been sent and are ready: rank, chunk. -/
def Coll.toSend (k : Coll) : List (Nat × Nat) :=
  (below k.n).flatMap fun dst =>
    match k.xsend k.rank dst with
    | none => []
    | some x =>
      ((below ((k.xlen x + 4095) / 4096)).filter fun i =>
        !(k.sent.contains (dst, i))
          && match x.own with
            | some (o, len) => k.readyRange (o + 4096 * i, min 4096 (len - 4096 * i))
            | none => true).map fun i => (dst, i)

/-- Bytes of one chunk that is sent. -/
def State.chunkBytes (s : State) (k : Coll) (dst i : Nat) : List Byte :=
  match k.xsend k.rank dst with
  | none => []
  | some x =>
    let n := min 4096 (k.xlen x - 4096 * i)
    match x.own with
    | some (o, _) => s.ownPart k (o + 4096 * i, n)
    | none => ((x.held.flatMap k.block).drop (4096 * i)).take n

/-- Everything of the step is sent, received and ready. -/
def Coll.complete (k : Coll) : Bool :=
  (below k.n).all fun f =>
    (match k.xsend f k.rank with
     | none => true
     | some x => (below ((k.xlen x + 4095) / 4096)).all fun i => (sfind? (sget [] k.got f) i).isSome)
      && (match k.xsend k.rank f with
          | none => true
          | some x => (below ((k.xlen x + 4095) / 4096)).all fun i => k.sent.contains (f, i))

/-- Send what may be sent in the current step, and note whether the member has finished it. -/
def State.collGo (s : State) (c : Nat) : State :=
  match s.coll c with
  | none => s
  | some k =>
    if k.run != .run then s
    else
      let now := k.toSend
      let s := now.foldl (fun s e => s.emit (.burst c e.1 k.step (s.chunkBytes k e.1 e.2))) s
      let k := { k with sent := k.sent ++ now }
      s.setColl c { k with finished := k.complete && (k.keeps.map k.readyRange).getD true }

/-- READY_WORD_REPORT: the HBM controller reports a write to a ready word. -/
def execReadyWordReport (cs slice : Nat) (val : W64) (s : State) : Res :=
  match s.coll cs with
  | none => .next s
  | some k =>
    if s.up && k.stream && slice < k.nslices then .next ((s.setColl cs { k with ready := sput 0 k.ready slice val }).collGo cs)
    else .next s

/-- The collective run that a burst of engine 800 belongs to, and the rank of its source. -/
def State.burstColl (s : State) (h : FabHdr) : Option (Nat × Nat) :=
  (s.colls.find? fun e => e.2.run == .run && e.2.part == h.part.toNat && e.2.members.contains h.src.toNat).map
    fun e => (e.1, e.2.members.idxOf h.src.toNat)

/-- A relay in progress that a chunk written at an address belongs to (R520). -/
def State.relayOf (s : State) (a : Nat) : Option Nat :=
  (s.handles.find? fun e =>
    e.2.state.live && e.2.opcode.toNat == opRELAY
      && (let d := e.2.data.headD []
          let base := leNat ((d.drop 8).take 8)
          base ≤ a && a < base + leNat ((d.drop 16).take 8))).map fun e => e.1

/-- A relay that has all its chunks ends with the length in its detail (R520). -/
def State.relayDone (s : State) (i : Nat) : State :=
  match s.hslot i with
  | none => s
  | some h =>
    let len := leNat (((h.data.headD []).drop 16).take 8)
    if h.state = .running && h.chunks * 4096 = len then s.endOp i 0 len else s

/-- BURST_WRITE, op 0x03: 4 KiB. The collective engine takes what engine 800 sends (R414); a chunk of a relay is counted (R520). -/
def execBurstWrite (hdr : FabHdr) (data : BitVec 32768) (s : State) : Res :=
  match s.arrives hdr with
  | (s, false) => .next s
  | (s, true) =>
    .next (s.slotted hdr 0 fun s =>
      if hdr.engine = 800 then
        match s.burstColl hdr with
        | some (c, f) =>
          match s.coll c with
          | some k =>
            let g := sins (sget [] k.got f) (hdr.addr.toNat / 4096) data
            ((s.setColl c { k with got := sins k.got f g }).collGo c, some ⟨0, []⟩)
          | none => (s, some ⟨0, []⟩)
        | none => (s, some ⟨0, []⟩)
      else
        let a := hdr.addr.toNat
        let relay := s.relayOf a
        match relay.bind s.hslot with
        | some h =>
          if h.state = .cancelling then (s, some ⟨0, []⟩)
          else
            let r := s.targetWrite a (leBytes 4096 data.toNat)
            match relay with
            | some i => ((r.1.modHslot i fun h => { h with chunks := h.chunks + 1 }).relayDone i, some r.2)
            | none => (r.1, some r.2)
        | none => let r := s.targetWrite a (leBytes 4096 data.toNat); (r.1, some r.2))

/-! ### Notices and decision, R422 to R424 -/

/-- DONE_NOTICE: of the current step. -/
def execDoneNotice (cs rank run step : Nat) (s : State) : Res :=
  match s.coll cs with
  | none => .next s
  | some k =>
    if s.up && k.run == .run && rank < k.n && run = k.runNo && step = k.step && !(k.doneFrom.contains rank) then
      .next (s.setColl cs { k with doneFrom := k.doneFrom ++ [rank] })
    else .next s

/-- SLIP(k): the step is not committed. -/
def execSlip (cs rank run step : Nat) (s : State) : Res :=
  match s.coll cs with
  | none => .next s
  | some k =>
    if s.up && k.run == .run && rank < k.n && run = k.runNo && step = k.step then
      .next ((s.setColl cs { k with slipped := true, slipRank := some rank }).setFld (aCollCStatus cs) 47 34 rank)
    else .next s

/-- A step is issued at furrow `f`. -/
def State.stepIssue (s : State) (c f : Nat) : State :=
  match s.coll c with
  | none => s
  | some k =>
    (s.setColl c
      { k with
        stepAt := f, slipped := false, finished := false, doneFrom := [], slipRank := none, got := [], sent := [] }).collGo c

/-- The detail of a COLL_STEP record: run, step, and after an abort the rank of the last SLIP. -/
def Coll.detail (k : Coll) (rank : Nat) : Nat := k.runNo % 2 ^ 32 + (k.step % 2 ^ 16) * 2 ^ 32 + rank * 2 ^ 48

/-- A run ends: the collective is idle, its COLL_STEP has its final record. -/
def State.runEnds (s : State) (c status detail : Nat) : State :=
  match s.coll c with
  | none => s
  | some k =>
    (s.setColl c
      { k with
        run := .idle, nextRun := k.runNo + 1, step := 0, reissue := 0, slipped := false, finished := false, doneFrom := []
        got := [], sent := [], held := [] }).finish k.cmd.1 k.cmd.2 status 0 detail

/-- The decision furrow: commit and the next step or the end of the run, or the step again, three times at most. -/
def State.decide (s : State) (c f : Nat) (slip : Bool) : State :=
  match s.coll c with
  | none => s
  | some k =>
    if slip then
      if k.reissue = 3 then (s.countFld aCollStatus 63 48 1).runEnds c 0x0D02 (k.detail (k.slipRank.getD 0))
      else
        let s := (s.countFld (aCollCStatus c) 63 48 1).detEvent 5 (some k.part) 0
        (s.setColl c { k with reissue := k.reissue + 1 }).stepIssue c f
    else
      let (h, out) := s.stepResult k
      let s := s.setFld (aCollCRun c) 47 0 f
      match out with
      | some d =>
        let s := s.hbmPut (k.w 4 + k.runNo % 2 * k.outHalf) d
        (s.setColl c { k with commits := k.commits + 1 }).runEnds c 0 (k.detail 0)
      | none =>
        let s :=
          if (k.op = 1 ∨ k.op = 2) ∧ k.alg ≠ 2 then
            match (h.filter fun e => !(k.held.contains e)).head? with
            | some e => s.hbmPut (k.w 5 + k.step % 2 * (k.b / k.n)) e.2
            | none => s
          else s
        (s.setColl c { k with held := h, step := k.step + 1, reissue := 0 }).stepIssue c f

/-- What a run in progress does at the start of furrow `f`: done notice, SLIP, decision. A decision furrow that a time step skipped counts
as a slip (R425). -/
def State.collFurrow (s : State) (c f : Nat) : State :=
  match s.coll c with
  | none => s
  | some k =>
    if k.run != .run then s
    else
      let e := aheadOf f k.stepAt
      let w := s.noticeFurrows k.members
      if e = k.s then s.decide c f k.slipped
      else if k.s < e then s.decide c f true
      else if e = k.s - 2 * w && k.finished then
        (s.setColl c { k with doneFrom := if k.doneFrom.contains k.rank then k.doneFrom else k.doneFrom ++ [k.rank] }).emit
          (.coll 2 c [k.rank, k.runNo, k.step])
      else if e = k.s - w then
        match (below k.n).find? fun r => !(k.doneFrom.contains r) with
        | some r =>
          ((s.setColl c { k with slipped := true, slipRank := some r }).setFld (aCollCStatus c) 47 34 r).emit
            (.coll 3 c [r, k.runNo, k.step])
        | none => s
      else s

/-! ### Set-up, R416 -/

/-- The descriptor of a COLL_SETUP. -/
def Cmd.collDesc (c : Cmd) : List W64 := (below 8).map fun i => BitVec.ofNat 64 (c.dnum (8 * i) 8)

/-- Package IDs of a member table. -/
def memberTable : Nat → List Byte → List Nat
  | 0, _ => []
  | n + 1, bs => leNat (bs.take 2) :: memberTable n (bs.drop 2)

/-- Word of the descriptor that breaks a range or a size rule; none when all hold. -/
def descBad (d : List W64) : Option Nat :=
  let k : Coll :=
    { run := .setup, handle := 0, part := 0, queue := 0, seq := 0
      sum := { op := 0, alg := 0, redop := 0, etype := 0, count := 0, root := 0, n := 0, s := 0, digest := 0 }
      alg := 0, desc := d, members := [], rank := 0, sums := [], nextRun := 0, commits := 0, cmd := (0, 0), runNo := 0
      step := 0, stepAt := 0, reissue := 0, slipped := false, finished := false, doneFrom := [], slipRank := none, got := []
      sent := [], held := [], ready := [], arrivals := [] }
  let w := k.w
  let op := k.op
  let inHbm := fun (i n : Nat) => w i % 4096 = 0 && w i + n ≤ hbmEnd
  let work := if op = 1 ∨ op = 2 then k.b / k.n else 0
  let inLen := if op = 6 then 0 else if op = 4 then 0 else k.b
  if op = 0 ∨ 6 < op ∨ (op ≤ 2 ∧ k.redop = 3) ∨ 5 < k.etype ∨ (k.etype = 5 ∧ (op < 3 ∨ op = 6)) ∨ k.n < 2 ∨ 16384 < k.n
      ∨ (if op = 4 then k.n ≤ k.root else k.root ≠ 0) ∨ bits (w 0) 50 46 ≠ 0 ∨ bit (w 0) 31 ∨ bits (w 0) 15 0 ≠ 0 then some 0
  else if bits (w 1) 63 40 ≠ 0 ∨ (bits (w 1) 39 0 = 0 ∧ op ≠ 6) ∨ ((op = 1 ∨ op = 2 ∨ op = 5) ∧ k.b % (64 * k.n) ≠ 0) then some 1
  else if !(inHbm 3 inLen) then some 3
  else if !(inHbm 4 (2 * k.outHalf)) then some 4
  else if !(inHbm 5 (2 * work)) then some 5
  else if k.stream && !(inHbm 6 (8 * k.nslices)) ∨ !k.stream && w 6 ≠ 0 then some 6
  else if k.s < 3 ∨ bits (w 7) 39 0 ≠ 0 ∨ (!k.stream && k.nslices ≠ 0)
      ∨ (k.stream && (k.nslices = 0 ∨ 1024 < k.nslices ∨ k.b % (4096 * k.nslices) ≠ 0)) then some 7
  else none

/-- Bytes of the member table. -/
def Cmd.tableLen (c : Cmd) : Nat := 2 * bits (c.dnum 0 8) 30 16

def Cmd.members (c : Cmd) : List Nat := memberTable (bits (c.dnum 0 8) 30 16) ((c.block 0).getD [])

/-- Collective slots in use. -/
def State.collCount (s : State) : Nat := s.colls.length

def chkCollSetup (s : State) (c : Cmd) : Chk :=
  let op := bits (c.dnum 0 8) 63 60
  let alg := bits (c.dnum 0 8) 59 58
  (Chk.all
    [Chk.must (pParamLen c.pkt == 64) 0x0304,
     match descBad c.collDesc with
     | some i => .bad 0x0304 i
     | none => .ok,
     c.addrOk s (c.dnum 16 8)]).andThen fun _ =>
    match c.block 0 with
    | none => .need (c.dnum 16 8) c.tableLen
    | some _ =>
      let ms := c.members
      Chk.all
        [Chk.must ((ms.filter fun p => p == s.pkgId).length == 1) 0x0304,
         Chk.must (algOf op alg ms).isSome 0x0304,
         Chk.must (2 * s.noticeFurrows ms + 1 ≤ bits (c.dnum 56 8) 63 56) 0x0304 7,
         Chk.must (!(s.globalDet && bit (c.dnum 0 8) 52)) 0x0E01,
         Chk.must (decide (s.collCount < 64)) 0x0309]

/-- The summary of a descriptor. -/
def Cmd.summary (c : Cmd) : Summary :=
  let w0 := c.dnum 0 8
  { op := BitVec.ofNat 4 (bits w0 63 60), alg := BitVec.ofNat 2 (bits w0 59 58), redop := BitVec.ofNat 2 (bits w0 57 56)
    etype := BitVec.ofNat 3 (bits w0 55 53), count := BitVec.ofNat 40 (bits (c.dnum 8 8) 39 0)
    root := BitVec.ofNat 14 (bits w0 45 32), n := BitVec.ofNat 15 (bits w0 30 16), s := BitVec.ofNat 8 (bits (c.dnum 56 8) 63 56)
    digest := digestNum (sha256 ((c.block 0).getD [])) }

/-- The verdict reaches this member: the collective starts, or its COLL_SETUP ends. -/
def State.verdict (s : State) (c status detail : Nat) : State :=
  match s.coll c with
  | none => s
  | some k =>
    if k.handle != 0 || k.run != .setup then s
    else if status = 0 then
      match s.startLong k.queue k.seq k.part [] with
      | (s, some i) => s.setColl c { k with run := .idle, handle := BitVec.ofNat 32 (s.hword i), sums := [] }
      | (s, none) => s.dropColl c
    else (s.dropColl c).finish k.queue k.seq status 0 detail

/-- Rank 0 compares the summaries of all members: the status and detail of the verdict. -/
def verdictOf (sums : SMap Summary) (own : Summary) : Nat × Nat :=
  match sums.find? fun e => e.2.count != own.count || e.2.etype != own.etype with
  | some e => (0x0D01, e.1)
  | none =>
    match sums.find? fun e => e.2 != own with
    | some e => (0x0304, e.1)
    | none => (0, 0)

/-- Rank 0 gives its verdict once it has every summary. -/
def State.judgeSetup (s : State) (c : Nat) : State :=
  match s.coll c with
  | none => s
  | some k =>
    if k.rank = 0 && k.run == .setup && k.handle == 0 && k.sums.length = k.n then
      let (st, d) := verdictOf k.sums k.sum
      (s.emit (.coll 1 c [st, d])).verdict c st d
    else s

/-- COLL_SETUP starts: the lowest free slot; the summary goes to rank 0, or at rank 0 to itself. -/
def effCollSetup (s : State) (c : Cmd) : State :=
  let ms := c.members
  let r := ms.idxOf s.pkgId
  let sum := c.summary
  match (below 64).find? fun i => (s.coll i).isNone with
  | none => c.done s 0x0309 0
  | some i =>
    let k : Coll :=
      { run := .setup, handle := 0, part := c.target, queue := c.q, seq := c.seq, sum := sum
        alg := (algOf (bits (c.dnum 0 8) 63 60) (bits (c.dnum 0 8) 59 58) ms).getD 0
        desc := c.collDesc, members := ms, rank := r, sums := if r = 0 then [(0, sum)] else [], nextRun := 0, commits := 0
        cmd := (0, 0), runNo := 0, step := 0, stepAt := 0, reissue := 0, slipped := false, finished := false, doneFrom := []
        slipRank := none, got := [], sent := [], held := [], ready := [], arrivals := [] }
    let s := ((s.setColl i k).wr (aCollCStatus i) 0).wr (aCollCRun i) 0
    if r = 0 then s.judgeSetup i
    else
      s.emit (.coll 0 i
        [r, sum.op.toNat, sum.alg.toNat, sum.redop.toNat, sum.etype.toNat, sum.count.toNat, sum.root.toNat, sum.n.toNat, sum.s.toNat,
         sum.digest.toNat])

/-- SETUP_SUMMARY: at rank 0. -/
def execSetupSummary (cs rank : Nat) (sum : Summary) (s : State) : Res :=
  match s.coll cs with
  | none => .next s
  | some k =>
    if s.up && k.rank = 0 && k.run == .setup && k.handle == 0 && 0 < rank && rank < k.n then
      .next ((s.setColl cs { k with sums := sins k.sums rank sum }).judgeSetup cs)
    else .next s

/-- SETUP_VERDICT: at every other rank. -/
def execSetupVerdict (cs : Nat) (status : BitVec 16) (detail : W64) (s : State) : Res :=
  match s.coll cs with
  | none => .next s
  | some k => if s.up && k.rank != 0 then .next (s.verdict cs status.toNat detail.toNat) else .next s

/-- SUMMARY_TIMEOUT: 100 ms after the first summary one is still missing. -/
def execSummaryTimeout (cs : Nat) (s : State) : Res :=
  match s.coll cs with
  | none => .next s
  | some k =>
    if s.up && k.rank = 0 && k.run == .setup && k.handle == 0 && k.sums.length < k.n then
      .next ((s.emit (.coll 1 cs [0x0C02, 0])).verdict cs 0x0C02 0)
    else .next s

/-! ### COLL_STEP and COLL_TEARDOWN, R421, R426 -/

/-- The COLL_SETUP handle in target names a collective in existence; one that has ended is done. -/
def Cmd.collHandle (s : State) (c : Cmd) : Chk :=
  (c.fresh s).andThen fun _ =>
    match s.handle? c.target with
    | none => .bad 0x030A 0
    | some (_, h) =>
      if h.opcode.toNat != opCOLLSETUP then .bad 0x0305 0 else Chk.must (h.state.live && h.state != .cancelling) 0x030B

/-- Runs that COLL_STEPs for a handle wait to start. -/
def State.waitingRuns (s : State) (handle : Nat) : List Nat :=
  s.sched.filterMap fun e =>
    match e.kind with
    | .cmd q seq =>
      match (s.queue q).entry? seq with
      | some v =>
        if pOpcode v.pkt = 0x0502 && pTarget v.pkt = handle then some (parmOf v.pkt v.data 16 4) else none
      | none => none
    | .phase _ _ => none

/-- The run number is the next one, after those that already wait. While an earlier run goes on, or the collective is suspended, the run
waits at its furrow. -/
def chkCollStep (s : State) (c : Cmd) : Chk :=
  Chk.all
    [Chk.must (pAtFurrow c.pkt) 0x0303, c.collHandle s,
     match s.collOf c.target with
     | none => .bad 0x0305 0
     | some (_, k) =>
       let run := c.parm 16 4
       let base := if k.run = .run then k.runNo + 1 else k.nextRun
       let waits := s.waitingRuns c.target
       Chk.must (k.op != 6 && decide (base ≤ run) && (upFrom base (run - base)).all fun r => waits.contains r) 0x0304]

/-- Whether a COLL_STEP that has reached its furrow has to wait there. -/
def State.collHolds (s : State) (c : Cmd) : Bool :=
  match s.collOf c.target with
  | some (_, k) => k.run != .idle || (s.handle? c.target).any fun e => e.2.state != .running
  | none => false

/-- COLL_STEP at its furrow: step 0 of the run is issued. -/
def effCollStep (s : State) (c : Cmd) : State :=
  match s.collOf c.target with
  | none => c.done s 0x0305 0
  | some (i, k) =>
    (s.setColl i
      { k with
        run := .run, cmd := (c.q, c.seq), runNo := c.parm 16 4, step := 0, reissue := 0, held := [] }).stepIssue i s.furrow

/-- A collective ends with its handle: a run in progress ends without committing its current step. -/
def State.collEnds (s : State) (i : Nat) : State :=
  match s.coll i with
  | none => s
  | some k =>
    let s := if k.run = .run then s.runEnds i 0x0308 (k.detail 0) else s
    (s.dropColl i).wr (aCollCStatus i) 0

def chkCollTeardown (s : State) (c : Cmd) : Chk := (c.collHandle s).andThen fun _ => c.noParams

def effCollTeardown (s : State) (c : Cmd) : State :=
  match s.handle? c.target, s.collOf c.target with
  | some (h, _), some (i, k) => c.done ((s.collEnds i).endOp h 0 (k.commits % 2 ^ 32)) 0 0
  | _, _ => c.done s 0x0305 0

/-! ### Barriers, R106 -/

def chkBarrier (s : State) (c : Cmd) : Chk :=
  Chk.all
    [c.collHandle s,
     match s.collOf c.target with
     | none => .bad 0x0305 0
     | some (_, k) => (Chk.must (k.op == 6) 0x0305).andThen fun _ => Chk.must (c.onlyNamed [(16, 4)] && c.parm 16 4 == k.nextRun) 0x0304]

/-- An arrival is recorded once per run. -/
def State.arrive (s : State) (i rank run f : Nat) : State :=
  match s.coll i with
  | none => s
  | some k =>
    let key := run * 16384 + rank
    if (sfind? k.arrivals key).isSome then s else s.setColl i { k with arrivals := sins k.arrivals key f }

/-- BARRIER posts this member's arrival. -/
def effBarrier (s : State) (c : Cmd) : State :=
  match s.collOf c.target with
  | none => c.done s 0x0305 0
  | some (i, k) =>
    match s.startLong c.q c.seq k.part [] with
    | (s, none) => s
    | (s, some _) => (s.arrive i k.rank (c.parm 16 4) s.furrow).emit (.coll 4 i [k.rank, c.parm 16 4, s.furrow])

/-- BARRIER_ARRIVAL: of another member. -/
def execBarrierArrival (cs rank run furrow : Nat) (s : State) : Res :=
  match s.coll cs with
  | none => .next s
  | some k =>
    if s.up && k.op = 6 && rank < k.n && k.nextRun ≤ run then .next (s.arrive cs rank run (furrow % 2 ^ 48)) else .next s

/-- The furrow at which a run of a barrier is released, once every member has arrived. -/
def State.releaseAt (s : State) (k : Coll) : Option Nat :=
  let fs := (below k.n).filterMap fun r => sfind? k.arrivals (k.nextRun * 16384 + r)
  match fs with
  | [] => none
  | x :: xs =>
    if fs.length = k.n then
      some (furrowAdd (xs.foldl (fun a b => if aheadOf b a < 2 ^ 47 then b else a) x) (s.noticeFurrows k.members + 1))
    else none

/-- Row 5 of R72 at furrow `f`: a barrier whose release furrow is reached is released, and its BARRIERs end. -/
def State.barrierFurrow (s : State) (c f : Nat) : State :=
  match s.coll c with
  | none => s
  | some k =>
    match if k.op = 6 then s.releaseAt k else none with
    | none => s
    | some rel =>
      if !(reached rel f) then s
      else
        let mine := s.liveOps fun h =>
          h.opcode.toNat == opBARRIER && bytesOf h.pkt 12 4 == k.handle.toNat && h.parm 16 4 == k.nextRun && h.state != .cancelling
        let s := mine.foldl (fun s i => s.endOp i 0 rel) s
        let k' := { k with nextRun := k.nextRun + 1, commits := k.commits + 1, arrivals := k.arrivals.filter fun e => e.1 / 16384 != k.nextRun }
        if k.run = .setup then s.dropColl c else s.setColl c k'

end Sys2Proof.Machine
end

