-- ==== Sys2Proof/Machine/Boot.lean ====
section
/-! DEFINITION. Cold boot and warm reset (R509 to R514, R527, R535), firmware images, their staging and activation (R515 to R519), and the relay of an
image to the packages of a chassis (R520). -/

namespace Sys2Proof.Machine

/-! ### Firmware images, R516 and R517 -/

/-- Where a slot begins in the flash, and the two areas in retention copy A (R515). -/
def flashSlot (n : Nat) : Nat := n * 0x800000
def areaRun : Nat := 0x1000000
def areaStaged : Nat := 0x1800000

/-- Largest image. -/
def imageMax : Nat := 0x800000

/-- What the header of an image says. -/
structure FwHead where
  release : Nat
  body : Nat
  rollback : Nat
  ops : BitVec 256
  deriving DecidableEq, Repr

def fwHead (img : List Byte) : FwHead :=
  { release := at_ img 4 4, body := at_ img 8 4, rollback := at_ img 12 4, ops := BitVec.ofNat 256 (at_ img 16 32) }

/-- An image is valid: magic and lengths, rollback index, and signature. -/
def State.fwValid (s : State) (img : List Byte) : Bool :=
  let h := fwHead img
  at_ img 0 4 == 0x57465847 && 256 + h.body ≤ img.length && 256 + h.body ≤ imageMax && s.boot.rollback ≤ h.rollback
    && Config.signatureValid (at_ img 0 160) (leNat (sha256 ((img.drop 256).take h.body)))

/-- The image in a flash slot, header and body. -/
def State.slotFw (s : State) (n : Nat) : List Byte :=
  mread s.boot.flash (flashSlot n) (min imageMax (256 + mval s.boot.flash (flashSlot n + 8) 4))

/-- The slot that the ROM takes: the preferred one, else the other. -/
def State.bootFrom (s : State) : Option Nat :=
  if s.fwValid (s.slotFw s.boot.slot) then some s.boot.slot
  else if s.fwValid (s.slotFw (1 - s.boot.slot)) then some (1 - s.boot.slot)
  else none

/-! ### Cold boot, R512 -/

/-- Phase 1: a pair that fails self-test is retired and recorded; the lowest good pair is active. -/
def State.bootPairs (s : State) (bad : List Nat) : State :=
  let fails := (below 2).filter fun n => bad.contains n
  let st := fun (n : Nat) => if fails.contains n then 2 else if n = 0 || fails.contains 0 then 1 else 0
  let s := { s with ras := { s.ras with badPairs := fails } }
  (s.setFld aRasSteward 55 54 (st 0)).setFld aRasSteward 57 56 (st 1)

/-- Phase 4: the tile map, with every tile of the repair record retired; and the links start to train (R513). -/
def State.bootTiles (s : State) : State :=
  let s := s.ras.badTiles.foldl (fun s k => s.setTile k { Tile.zero with retired := true }) s.buildMap
  (below 64).foldl State.linkReady s

/-- Phase 5, repair: pseudo-channels of the repair record stay out of use. -/
def State.bootRepair (s : State) : State :=
  s.ras.badPcs.foldl
    (fun s x =>
      let k := x / 32
      let s := s.setFld (aHbmStackPc k) (32 + x % 32) (32 + x % 32) 1
      s.setFld (aHbmStackStatus k) 29 28 (s.fld (aHbmStackStatus k) 29 28 + 1)) s

/-- Phase 5, margining of one pseudo-channel (R311): its eyes; one that fails is retired. -/
def State.margin (s : State) (x rd wr vref : Nat) : State :=
  let k := x / 32
  let n := x % 32
  let pass := 19 ≤ rd && 19 ≤ wr && 16 ≤ vref
  let s := s.wr (aHbmMargin k n) ((rd % 256) * 2 ^ 24 + (wr % 256) * 2 ^ 16 + (vref % 256) * 2 ^ 8 + b2n pass)
  if pass then s else (s.setFld (aHbmStackPc k) n n 1).askRetire k n

/-- Phase 5: every pseudo-channel; one that the report does not list shows full eyes. -/
def State.bootMargin (s : State) (rep : BootReport) : State :=
  (below 256).foldl
    (fun s x =>
      let e := ((rep.margins.find? fun m => m.1 == x).map fun m => m.2).getD (64, 64, 32)
      s.margin x e.1 e.2.1 e.2.2) s

/-- The phases of a cold boot, from phase 1 on. Without a good pair it stays in phase 1, without a valid image in phase 3.
At its end the queues resume from what the buddy holds (R120). -/
def State.bootRun (s : State) (rep : BootReport) : State :=
  let s := { s with boot := { s.boot with flash := rep.flash.foldl (fun m (e : Nat × List Byte) => mwrite m e.1 e.2) s.boot.flash, us := rep.us } }
  let s := s.bootPairs rep.pairFail
  if s.ras.badPairs.length = 2 then s
  else
    match s.bootFrom with
    | none => { s with boot := { s.boot with phase := 3, noFirmware := true } }
    | some n =>
      let h := fwHead (s.slotFw n)
      let s := { s with retA := mwrite s.retA areaRun (s.slotFw n) }
      let s := if n = s.boot.slot then s else s.setFlag aBootStatus 62
      let s := s.bootTiles.bootRepair.bootMargin rep
      let s := { s with boot := { s.boot with phase := 7, release := h.release, opcodes := h.ops } }
      (rep.anchored.filter fun e => e.1 < 64).foldl (fun s e => s.takeQueue rep.journal e.1 e.2) s

/-- COLD_BOOT: PERST_N rises with PWROK high; a package that runs takes it as the end of a pulse on PERST_N (R527). -/
def execColdBoot (rep : BootReport) (s : State) : Res :=
  if s.pins.pwrok && s.boot.alive && s.boot.phase < 7 && !s.boot.noFirmware then
    .next (State.bootRun { s with pins := { s.pins with perstN := true } } rep)
  else .next s

/-- PWROK_LOW: all domains stop; what comes next is a power-on, or, after a trip, a cold boot that says so (R509, R531). -/
def execPwrokLow (s : State) : Res :=
  let why := if s.pwr.tripped then 4 else if s.boot.alive then 0 else s.boot.lastReset
  let t := s.coldReset why
  .next { t with boot := { t.boot with alive := false }, pins := { t.pins with pwrok := false, ppsOut := false } }

/-- PWROK_RISE: the straps are sampled, and the package waits for PERST_N to rise. -/
def execPwrokRise (board pkg : Nat) (s : State) : Res :=
  if s.pins.pwrok then .next s
  else
    let s :=
      { s with
        boot := { s.boot with alive := true }
        pins := { s.pins with pwrok := true, thermTripN := true, boardSlot := board % 8, pkgSlot := pkg % 4 } }
    if s.pins.vrAlertN then .next s else .next (s.setFld aPwrStatus 48 48 1).floorEnter

/-- WARM_RESET: PERST_N low for 1 us or more; during a cold boot that starts again at phase 1. -/
def execWarmReset (s : State) : Res :=
  if !(s.pins.pwrok && s.boot.alive) then .next s
  else if s.up then .next (s.warmReset 1)
  else .next (s.coldReset s.boot.lastReset)

/-! ### FW_STAGE, R518 -/

def chkStage (s : State) (c : Cmd) : Chk :=
  let n := c.parm 24 4
  (Chk.all [Chk.must (n ≤ imageMax) 0x0304, c.addrOk s (c.parm 16 8)]).andThen fun _ =>
    match c.block 0 with
    | none => .need (c.parm 16 8) n
    | some _ => .ok

/-- It waits for its turn and for its work to be done. -/
def effStage (s : State) (c : Cmd) : State := s.await (c.ctl .stage 0)

/-- FW_STAGE_DONE: the oldest FW_STAGE has written and copied its image; a valid one is staged. -/
def execFwStageDone (s : State) : Res :=
  match s.ctl.find? fun c => c.kind == .stage with
  | none => .next s
  | some c =>
    match (s.queue c.queue).entry? c.seq with
    | none => .next s
    | some e =>
      let img := (nth e.data (b2n (pPtr e.pkt))).getD []
      let h := fwHead img
      let s := { s with ctl := s.ctl.erase c, retA := mwrite s.retA areaStaged img }
      let s := { s with boot := { s.boot with flash := mwrite s.boot.flash (flashSlot (1 - s.boot.slot)) img } }
      if s.fwValid img then
        let s :=
          { s with
            boot := { s.boot with stagedValid := true, stagedOps := h.ops, stagedRollback := h.rollback, stagedRelease := h.release } }
        .next ((s.setFlag aBootStatus 61).finish c.queue c.seq 0 0 0)
      else .next ({ s with boot := { s.boot with stagedValid := false } }.finish c.queue c.seq 0x1203 0 0)

/-! ### FW_ACTIVATE, R73, R121, R519 -/

def chkActivate (s : State) (c : Cmd) : Chk :=
  Chk.all [Chk.must (pAtFurrow c.pkt) 0x0303, Chk.must s.boot.stagedValid 0x0304]

/-- The staged image supports an opcode. -/
def State.supports (s : State) (op : Nat) : Bool := op < 0x1000 && bit s.boot.stagedOps.toNat (16 * (op / 256) + op % 16)

/-- The journal holds an opcode that the staged image does not support. -/
def State.actOpcode (s : State) : Bool := s.queues.any fun e => e.2.entries.any fun x => !(s.supports (pOpcode x.pkt))

/-- A command other than this one is between its start and its final record: suspended operations and idle collectives apart. -/
def State.actBusy (s : State) (c : Cmd) : Bool :=
  s.queues.any fun e => e.2.entries.any fun x =>
    x.stage == .started && !(e.1 == c.q && x.seq == c.seq)
      && match s.handle? x.handle.toNat with
        | some (_, h) => h.state != .suspended && s.queryCode x.handle.toNat h != 6
        | none => true

/-- The staged area becomes the running area. -/
def State.areaSwitch (s : State) : State :=
  let kept := s.retA.filter fun e => e.1 < areaRun
  let staged := (s.retA.filter fun e => areaStaged ≤ e.1).map fun e => (e.1 - areaStaged + areaRun, e.2)
  { s with retA := kept ++ staged }

/-- At its furrow: refused, or the standby pair takes over and the image is in force. -/
def effActivate (s : State) (c : Cmd) : State :=
  if s.actOpcode then c.done s 0x1201 0
  else if s.actBusy c then c.done s 0x1202 0
  else if !(s.collFree s.furrow) then c.done s 0x0203 0
  else
    let s :=
      match s.activePair with
      | some n =>
        if s.pairState (1 - n) = 0 then
          (s.setFld aRasSteward (pairLo n + 1) (pairLo n) 0).setFld aRasSteward (pairLo (1 - n) + 1) (pairLo (1 - n)) 1
        else s
      | none => s
    let s := s.areaSwitch
    let s :=
      { s with
        boot :=
          { s.boot with
            slot := 1 - s.boot.slot, rollback := max s.boot.rollback s.boot.stagedRollback, release := s.boot.stagedRelease
            opcodes := s.boot.stagedOps, stagedValid := false } }
    c.done (s.setFlag aBootStatus 60) 0 0

/-! ### IMAGE_RELAY, R520 -/

/-- The member table: two-byte package IDs up to the first that is 0. -/
def relayMembers (table : List Byte) : List Nat := ((below 32).map fun i => at_ table (2 * i) 2).takeWhile fun x => x != 0

/-- The table of this package's chassis: 2 to 32 members, each once, this package among them. -/
def State.relayOk (s : State) (ms : List Nat) : Bool :=
  2 ≤ ms.length && ms.contains s.pkgId && ms.all s.sameGroup && ms.eraseDups.length == ms.length

def chkRelay (s : State) (c : Cmd) : Chk :=
  let dst := c.dnum 8 8
  let len := c.dnum 16 8
  (Chk.all
    [Chk.must (pParamLen c.pkt == 32) 0x0304,
     Chk.must (dst % 4096 == 0 && len % 4096 == 0 && len ≤ 128000000000 && dst + len ≤ hbmEnd) 0x0304,
     c.addrOk s (c.dnum 24 8)]).andThen fun _ =>
    match c.block 0 with
    | none => .need (c.dnum 24 8) 64
    | some t =>
      (Chk.must (s.relayOk (relayMembers t)) 0x0304).andThen fun _ =>
        if (relayMembers t).head? = some s.pkgId then c.addrOk s (c.dnum 0 8) else .ok

/-- One chunk leaves over the direct link to a member. -/
def State.relaySend (s : State) (dst a part : Nat) (bs : List Byte) : State :=
  match s.linksTo dst with
  | [] => s
  | n :: _ =>
    let h : FabHdr :=
      { op := 3, size := 7, oclass := 0, resp := false, dst := BitVec.ofNat 16 dst, src := BitVec.ofNat 16 s.pkgId
        engine := BitVec.ofNat 12 s.stewardEngine, part := BitVec.ofNat 4 part, slot := 0, hops := 0, gen := 0
        addr := BitVec.ofNat 48 a, crcOk := true }
    s.sendPacket n none h none bs

/-- A relay's descriptor: destination, and its members. -/
def HRec.relayDst (h : HRec) : Nat := at_ (h.data.headD []) 8 8
def HRec.relayTable (h : HRec) : List Nat := relayMembers ((nth h.data 1).getD [])

/-- Rank 0 takes the next chunks of the image: each goes to its own destination, and to every other member. -/
def relayTake : Nat → State → Nat → List Byte → State
  | 0, s, _, _ => s
  | fuel + 1, s, i, bs =>
    match s.hslot i with
    | none => s
    | some h =>
      if bs.length < 4096 || !h.state.live || h.state = .cancelling then s
      else
        let a := h.relayDst + 4096 * h.chunks
        let s := s.hbmPut a (bs.take 4096)
        let s := (h.relayTable.filter fun m => m != s.pkgId).foldl (fun s m => s.relaySend m a h.part (bs.take 4096)) s
        let s := (s.modHslot i fun h => { h with chunks := h.chunks + 1 }).relayDone i
        relayTake fuel s i (bs.drop 4096)

/-- Rank 0 reads the image; every other member waits for its chunks. -/
def effRelay (s : State) (c : Cmd) : State :=
  let len := c.dnum 16 8
  match s.startLong c.q c.seq (if c.target < 16 then c.target else 0) [] with
  | (s, none) => s
  | (s, some i) =>
    let s := s.relayDone i
    match s.hslot i with
    | none => s
    | some h =>
      if h.state = .running && h.relayTable.head? = some s.pkgId then
        match s.fetch c.q (c.dnum 0 8) len with
        | .waits s => s
        | .got bs => relayTake (len / 4096) s i bs
        | .bad st => s.endOp i st 0
      else s

/-- Data of the image arrives at rank 0; an error ends the relay (R540). -/
def State.relayData (s : State) (q : Nat) (ok : Bool) (bs : List Byte) : State :=
  match s.handles.find? fun e =>
      e.2.state.live && e.2.opcode.toNat == opRELAY && e.2.queue == q && e.2.relayTable.head? == some s.pkgId with
  | none => s
  | some e =>
    if ok then relayTake (bs.length / 4096) s e.1 bs
    else if e.2.state = .cancelling then s
    else s.endOp e.1 0x0306 0

/-- RELAY_TIMEOUT: chunks have stopped for 2 ms. -/
def execRelayTimeout (h : Nat) (s : State) : Res :=
  match s.hslot h with
  | none => .next s
  | some r =>
    if s.up && r.opcode.toNat = opRELAY && r.state.live && r.state != .cancelling then .next (s.endOp h 0x0C02 0) else .next s

end Sys2Proof.Machine
end

