-- ==== Sys2Proof/Machine/CacheRows.lean ====
section
/-! DEFINITION. The messages of the coherence protocol (R369 to R383): requests at the home, evictions and writebacks, snoops, refills,
the host over CXL. -/

namespace Sys2Proof.Machine

/-! ### Delivering a grant -/

/-- The state in which a requester holds a granted line: one that asked for ownership writes it in M (R374). -/
def grantState (own : Bool) (st : Moesi) : Moesi := if own then .m else st

/-- A grant reaches its requester: a core's or a steward pair's L2 takes the line with the chunks that have arrived; the host and
PCIe I/O get the 64 bytes. -/
def State.deliver (s : State) (line req : Nat) (own : Bool) (chunks : BitVec 4) : Grant → State
  | .waits => s
  | .got none _ => if req < 98 then s else s.emit (.data (zeros 64) true)
  | .got (some d) st =>
    if 98 ≤ req then s.emit (.data (leBytes 64 d.toNat) false)
    else if (s.findLine 2 req line).isSome then (if own then s.updateOwn req line d else s)
    else s.fillL2 req line d (grantState own st) chunks

/-- Serve requests that waited, in their serial order (R377), from the data that has just come where nothing here keeps it. -/
def State.serveAll (s : State) (line : Nat) (data : W512) (rs : List HomeReq) : State :=
  rs.foldl
    (fun s r =>
      let q := s.homeServe line r.req r.unique
      let g := match q.2 with
        | .got none st => Grant.got (some data) st
        | g => g
      q.1.deliver line r.req r.unique 15 g) s

/-- A request row: the requester's line is not there yet in a state that would do, and its evict-pending buffers have room. -/
def State.mayAsk (s : State) (req line : Nat) (own : Bool) : Bool :=
  s.up && req < 100
    && (98 ≤ req
      || (s.levelOn 2 && s.evictRoom req
        && (match s.findLine 2 req line with
            | some (_, e) => own && (e.st == .s || e.st == .o)
            | none => true)))

/-- READ_SHARED: the home's answer (R374); the chunks follow with REFILL_CHUNK (R369). -/
def execReadShared (req line : Nat) (s : State) : Res :=
  if s.mayAsk req line false then
    let q := s.homeRequest line req false
    .next (q.1.deliver line req false 0 q.2)
  else .next s

/-- READ_UNIQUE: a copy that the requester's cluster still has is invalidated with the others. -/
def execReadUnique (req line : Nat) (s : State) : Res :=
  if s.mayAsk req line true then
    let q := s.homeRequest line req true
    .next (q.1.deliver line req true 0 q.2)
  else .next s

/-- UPGRADE: with the requester listed in S or O the others are invalidated, otherwise a read unique (R374, R379). -/
def execUpgrade (req line : Nat) (s : State) : Res :=
  if s.mayAsk req line true then
    let q := s.homeUpgrade line req
    .next (q.1.deliver line req true 0 q.2)
  else .next s

/-- REFILL_CHUNK: a 16-byte chunk arrives at an L2 entry that still lacks it. -/
def execRefillChunk (c line chunk : Nat) (data : BitVec 128) (s : State) : Res :=
  if s.up && c < 98 && chunk < 4 then
    .next (s.mapLines (fun k e => keyLevel k == 2 && keyInst k == c && e.line == line && !(bit e.chunks.toNat chunk))
      fun e =>
        { e with
          data := BitVec.ofNat 512 (setBits e.data.toNat (128 * chunk + 127) (128 * chunk) data.toNat)
          chunks := e.chunks ||| BitVec.ofNat 4 (2 ^ chunk) })
  else .next s

/-! ### Evictions, R371, R372, R377 -/

/-- The home acknowledges what a holder's evict-pending buffers hold of a line. -/
def State.ackEvict (s : State) (h line : Nat) : State :=
  { s with
    cache :=
      { s.cache with
        evict := s.cache.evict.map fun (v : Evict) =>
          if evictHolder v.owner = h ∧ v.line = line then { v with acked := true } else v } }

/-- Whether a holder has a line in an evict-pending buffer, not given up, and no acknowledgement is on the way. -/
def State.evicting (s : State) (h line : Nat) : Bool :=
  s.cache.evict.any fun v => evictHolder v.owner == h && v.line == line && !v.acked

/-- A holder stays listed while another of its caches holds the line. -/
def State.stillHolds (s : State) (h line : Nat) : Bool := s.cache.lines.any fun e => heldBy h line e.1 e.2

/-- A holder leaves a directory entry; a line that its owner leaves is in S. -/
def State.leaveDir (s : State) (h line : Nat) (d : DirEnt) : State :=
  if s.stillHolds h line then s.setDir line (some { d with st := .s })
  else
    let hs := d.holders.filter fun x => x != h
    s.setDir line (some { d with holders := hs, st := if d.holders.headD 99 = h then .s else d.st })

/-- The ways of a system-cache set whose line has not been hit since it was inserted, or that are invalid (R371). -/
def State.scFree (s : State) (line : Nat) : List Nat :=
  (scWays line).filter fun w =>
    match sfind? s.cache.lines (lineKey 4 (s.slice line) (s.setOf 4 line) w) with
    | some e => !e.hit
    | none => true

/-- A clean line offered to the system cache: accepted into an invalid way or over a line not hit since its insertion, otherwise
declined and counted (R371); host memory that no cache keeps is released to the host (R383). -/
def State.scOffer (s : State) (line : Nat) (d : W512) : State :=
  if (s.findLine 4 (s.slice line) line).isSome then s
  else if !(s.levelOn 4) then (if isHostLine line then s.emit (.cxl 2 line d) else s)
  else
    let ways := s.scFree line
    if ways.isEmpty then
      let s := s.countFld aCacheStatus 31 0 1
      if isHostLine line then s.emit (.cxl 2 line d) else s
    else
      let r := s.insertLine 4 (s.slice line) ways { line := line, st := .e, data := d, chunks := 15, hit := false }
      match r.2 with
      | some v =>
        if isHostLine v.line then r.1.emit (.cxl (if v.st = .m then 3 else 2) v.line v.data)
        else if v.st = .m then r.1.lineToHbm v.line v.data
        else r.1
      | none => r.1

/-- CLEAN_EVICTION_NOTICE: stale from one that is not listed, and from an owner in O (R374, R378); acknowledged either way. -/
def execCleanEvictionNotice (holder line : Nat) (data : BitVec 512) (s : State) : Res :=
  if s.up && holder < 14 && s.evicting holder line then
    let s := s.ackEvict holder line
    .next (match s.dirOf line with
      | some d =>
        if !(d.holders.contains holder) || (d.st == .o && d.holders.headD 99 == holder) then s
        else (s.leaveDir holder line d).scOffer line data
      | none => s)
  else .next s

/-- WRITEBACK: the header reaches the home; the owner stays owner until the data lands (R377); a stale one is acknowledged. -/
def execWriteback (holder line : Nat) (s : State) : Res :=
  if s.up && holder < 14 && s.evicting holder line then
    .next (match s.dirOf line with
      | some d =>
        if d.holders.headD 99 == holder && d.st != .s then s.setDir line (some { d with wb := true }) else s.ackEvict holder line
      | none => s.ackEvict holder line)
  else .next s

/-- WRITEBACK_DATA: the data goes to the system cache, the holder leaves, and the waiting requests are served in order. -/
def execWritebackData (holder line : Nat) (data : BitVec 512) (s : State) : Res :=
  if s.up && holder < 14 then
    match s.dirOf line with
    | some d =>
      if d.wb && d.holders.headD 99 == holder then
        let s := (s.scPut line data true).ackEvict holder line
        .next ((s.leaveDir holder line { d with wb := false, waiting := [] }).serveAll line data d.waiting)
      else .next s
    | none => .next s
  else .next s

/-- EVICT_ACK: the home's acknowledgement frees the entry. -/
def execEvictAck (owner line : Nat) (s : State) : Res :=
  .next { s with
    cache := { s.cache with evict := s.cache.evict.filter fun v => !(v.owner == owner && v.line == line && v.acked) } }

/-! ### Snoops, R378 -/

/-- A snoop at one holder, with what the directory then says of it; dirty data of an invalidating snoop goes to the system
cache. -/
def State.snoopOne (s : State) (h line : Nat) (inv : Bool) : State :=
  match s.dirOf line with
  | none => s
  | some d =>
    if !(d.holders.contains h) || d.wb then s
    else if inv then
      let r := s.snoopInv h line
      let s := match r.2 with
        | some x => r.1.scPut line x true
        | none => r.1
      s.leaveDir h line d
    else
      let (s1, _, keeps, owns) := s.snoopShared h line
      let own := d.holders.headD 99 == h
      if !keeps then s1.leaveDir h line d
      else s1.setDir line (some { d with st := if !own then d.st else if owns then .o else .s })

/-- SNOOP: a snoop reaches a cluster or a steward pair. -/
def execSnoop (cluster line : Nat) (inv : Bool) (s : State) : Res :=
  if s.up && cluster < 14 then .next (s.snoopOne cluster line inv) else .next s

/-! ### The host through CXL.mem, R382 -/

/-- A host write of a whole line: no copy remains, and HBM holds the data. -/
def State.hostLineWrite (s : State) (line : Nat) (d : W512) : State :=
  ((s.discardLine line).discardSc line).lineToHbm line d

/-- HOST_CXL_MEM: a host access to populated HBM as requester 98. An access that a writeback holds back is made again. -/
def execHostCxlMem (wr cached : Bool) (line : Nat) (data : BitVec 512) (s : State) : Res :=
  if !s.up || isHostLine line then .next (s.emit .notServed)
  else if wr then
    match s.dirOf line with
    | some d => if d.wb || !d.waiting.isEmpty then .next s else .next (s.hostLineWrite line data)
    | none => .next (s.hostLineWrite line data)
  else
    let q := s.homeRequest line (if cached then 98 else 99) false
    .next (q.1.deliver line 98 false 15 q.2)

/-! ### Host memory through CXL.cache, R383 -/

/-- The package's current data of a line of host memory: a dirty copy, another copy, or the system cache's. -/
def State.hostCopy (s : State) (line : Nat) : Option W512 :=
  match (s.holdersOf line).findSome? fun h => s.dirtyAt h line with
  | some d => some d
  | none => (s.cache.lines.find? fun e => e.2.line == line).map fun e => e.2.data

/-- The answer to a host snoop: the data, or that the package holds none. -/
def State.hostAnswer (s : State) (line : Nat) : State :=
  match s.hostCopy line with
  | some d => s.emit (.data (leBytes 64 d.toNat) false)
  | none => s.emit (.data [] false)

/-- SNPDATA: the answer, after which every copy here is a shared one beside the host's. -/
def execSnpdata (line : Nat) (s : State) : Res :=
  if s.up && isHostLine line then
    let s := s.hostAnswer line
    let s := s.mapLines (fun _ e => e.line == line) fun e => { e with st := .s }
    .next (match s.dirOf line with
      | some d => s.setDir line (some { d with st := .s, holders := addHolder d.holders (some 14) })
      | none =>
        if (s.hostCopy line).isSome then s.setDir line (some { st := .s, holders := [14], wb := false, waiting := [] }) else s)
  else .next s

/-- SNPINV: the answer, after which no copy remains. -/
def execSnpinv (line : Nat) (s : State) : Res :=
  if s.up && isHostLine line then .next (((s.hostAnswer line).discardLine line).discardSc line) else .next s

/-- SNPCUR: the current data; nothing changes. -/
def execSnpcur (line : Nat) (s : State) : Res :=
  if s.up && isHostLine line then .next (s.hostAnswer line) else .next s

/-- CXL_HOST_RESPONSE: the host's answer arrives and the requests that waited for it are served. Of populated HBM it is the host's
copy called back; of host memory it is the line. -/
def execCxlHostResponse (line : Nat) (unique : Bool) (data : BitVec 512) (s : State) : Res :=
  let mine := s.cache.cxlWait.filter fun e => e.1 == line
  if !s.up || mine.isEmpty then .next s
  else
    let s := { s with cache := { s.cache with cxlWait := s.cache.cxlWait.filter fun e => e.1 != line } }
    let d := (s.dirOf line).getD { st := .s, holders := [], wb := false, waiting := [] }
    let others := d.holders.filter fun h => h != 14
    let d := { d with holders := if unique then others else addHolder others (some 14), st := if unique then d.st else .s }
    let s := s.scPut line data (!(isHostLine line))
    .next ((s.setDir line (some d)).serveAll line data (mine.map fun e => e.2))

/-! ### Invalidate-all, R367 -/

/-- INVALIDATE_ALL_DONE: every entry of the level has left it; busy falls and the clean flag is set. -/
def execInvalidateAllDone (s : State) : Res :=
  match s.cache.ctl with
  | some (level, clean) =>
    if s.up then
      let s := s.invalidateLevel level clean
      .next ({ s with cache := { s.cache with ctl := none } }.setFld aCacheStatus (57 + level) (57 + level) 1)
    else .next s
  | none => .next s

end Sys2Proof.Machine
end

