-- ==== Sys2Proof/Machine/DetRows.lean ====
section
/-! DEFINITION. Determinism (R430, R441, R442): DET_SET, DIGEST_READ, and the digest engines' hashing of a chunk. -/

namespace Sys2Proof.Machine

def chkDetSet (_s : State) (c : Cmd) : Chk := Chk.must (c.onlyNamed [(16, 1)] && c.parm 16 1 < 2) 0x0304

/-- A change of the mode while a long operation is in progress is refused as a write of DEV_MODE would be (R36). -/
def effDetSet (s : State) (c : Cmd) : State :=
  let v := c.parm 16 1
  if v = b2n s.globalDet then c.done s 0 0
  else if s.anyLongOp then c.done s 0x0103 0
  else c.done (s.setFld aDevMode 0 0 v) 0 0

def chkDigestRead (s : State) (c : Cmd) : Chk :=
  (c.addrOk s (c.parm 24 8)).andThen fun _ => Chk.must (s.digs.any fun d => d.handle == c.parm 16 4) 0x030A

/-- The chain, then the five components. -/
def effDigestRead (s : State) (c : Cmd) : State :=
  match s.digs.reverse.find? fun d => d.handle == c.parm 16 4 with
  | some d => c.done (s.dmaWrite c.q (c.parm 24 8) (digestBytes d.chain ++ d.comps.flatMap digestBytes)) 0 0
  | none => c.done s 0x030A 0

/-- DIGEST_CHUNK_HASH: every digest in progress of the partition hashes the chunk, unless it has. -/
def execDigestChunkHash (p chunk : Nat) (s : State) : Res :=
  if s.up then
    .next ((s.digRun.filter fun e => e.2.part == p).foldl (fun s e => s.hashChunk e.1 chunk) s)
  else .next s

end Sys2Proof.Machine
end

