-- ==== Sys2Proof/Machine/Granary.lean ====
section
/-! DEFINITION. The Granary (R444 to R465): SNAPSHOT and RESTORE, the mirror area and its buddy's side, the loss of a partner, and takeover by a
spare. -/

namespace Sys2Proof.Machine

/-! ### SNAPSHOT, R445 to R452 -/

/-- What a snapshot's parameters ask for. -/
def Cmd.snapAsk (s : State) (c : Cmd) (host : Bool) : SnapAsk :=
  { image := c.parm 16 6, furrow := s.furrow, quality := s.quality, pos := c.parm 40 16, rank := c.parm 24 2
    count := c.parm 26 2, dedupe := host && bit (c.parm 22 1) 1 }

/-- Pages of the image that a host copy writes: the data of other replicas is left out (R451). -/
def State.hostPages (s : State) (p : Nat) (a : SnapAsk) : Nat :=
  let rs := s.ckptRegions p
  1 + pagesOf (s.confBlock p).length
    + (((below rs.length).zip rs).map fun e => if a.elsewhere (e.1 + 1) then 0 else e.2.2.2).sum

def chkSnapshot (s : State) (c : Cmd) : Chk :=
  let p := c.target
  let host := bit (c.parm 22 1) 0
  Chk.all
    [Chk.must (pAtFurrow c.pkt) 0x0303,
     Chk.must (!(s.flag (aCkptPartLatest p) 49) || s.latestImage p < c.parm 16 6) 0x0304,
     Chk.must (c.parm 22 1 < 4 && c.parm 23 1 == 0) 0x0304,
     Chk.must (c.parm 24 2 < c.parm 26 2 && c.parm 26 2 ≤ 4096) 0x0304,
     if host then
       Chk.all
         [Chk.must (c.parm 32 8 % 4096 == 0) 0x0304, c.addrOk s (c.parm 32 8),
          Chk.must (s.hostPages p (c.snapAsk s true) ≤ c.parm 28 4) 0x0304]
     else .ok]

/-- The busy handles of a partition: live operations but idle collectives (R445). -/
def State.busyHandles (s : State) (p : Nat) : List Nat :=
  ((s.liveOps fun h => h.part == p).map s.hword).filter fun w =>
    match s.handle? w with
    | some (_, h) => s.queryCode w h != 6
    | none => false

/-- The capture takes the partition as it stands now: the image goes into the slot that does not hold the latest one,
and the chunks of the next seal are set (R446, R449, R454). -/
def State.capture (s : State) (p : Nat) (a : SnapAsk) : State :=
  let k := s.snapSlot p
  let img := s.imageOf p a
  let cs := s.chunksToSend p
  let s := (s.setSlot p k 0).hbmPut (s.slotBase p k) img
  if s.mirroring then
    { s with
      ckpt :=
        { s.ckpt with
          sending := sins s.ckpt.sending p cs, dirty := s.ckpt.dirty.filter fun e => e.1 / 2 ^ 28 != p } }
  else s

/-- A snapshot at its furrow: quiescence, the slot, the log; then the capture. One that a warm reset interrupted goes on under its handle
(R119). -/
def effSnapshot (s : State) (c : Cmd) : State :=
  let p := c.target
  let ask := c.snapAsk s false
  let old := ((s.queue c.q).entry? c.seq).bind fun e => if e.handle = 0 then none else s.handle? e.handle.toNat
  match old with
  | some _ => s.capture p ask
  | none =>
    match s.busyHandles p with
    | x :: xs => c.done s 0x0305 (xs.foldl min x)
    | [] =>
      let n := (s.chunksToSend p).length
      if s.slotPages p (s.snapSlot p) < s.imagePages p then c.done s 0x0304 (4096 * s.imagePages p)
      else if s.mirroring && s.flag (aCkptPartSealed p) 48 && s.fld aCkptMirror 27 0 < n then c.done s 0x0304 (n + 2 ^ 63)
      else
        match s.startLong c.q c.seq p [] with
        | (s, none) => s
        | (s, some _) => s.capture p ask

/-- The image as a host copy has it (R451), from the image of the slot. -/
def hostImage (a : SnapAsk) (img : List Byte) : List Byte :=
  let rs := (entriesOf img).map fun e => (⟨e.1, e.2.1, e.2.2.1⟩ : ImgRegion)
  let (table, data, size) := layRegions a 0 4096 rs
  let page := img.take 80 ++ leBytes 8 size ++ (img.drop 88).take 168 ++ table
  page ++ zeros (4096 - page.length) ++ data

/-- A running SNAPSHOT whose capture is or is not complete. -/
def HRec.snap (h : HRec) (late : Bool) : Bool := h.opcode.toNat == opSNAPSHOT && h.state.live && h.late == late

/-- SNAPSHOT_CAPTURE_DONE: the image is the latest one; mirroring and the host copy begin. -/
def execSnapshotCaptureDone (h : Nat) (s : State) : Res :=
  match s.hslot h with
  | none => .next s
  | some r =>
    let p := r.part
    let capturing := !(s.sched.any fun e => e.kind == .cmd r.queue r.seq)
    if s.up && r.snap false && r.state = .running && capturing then
      let k := s.snapSlot p
      let n := r.parm 16 6
      let img := s.slotImage p k
      let s := s.setSlot p k (n + 1)
      let s := ((s.setFld (aCkptPartLatest p) 49 49 1).setFld (aCkptPartLatest p) 48 48 k).setFld (aCkptPartLatest p) 47 0 n
      let s := s.modHslot h fun v => { v with late := true }
      let s := if s.mirroring && (sfind? s.ckpt.sending p).isSome then s.sendImage p n img else s
      let ask : SnapAsk :=
        { image := n, furrow := 0, quality := 0, pos := 0, rank := r.parm 24 2, count := r.parm 26 2, dedupe := bit (r.parm 22 1) 1 }
      let s := if bit (r.parm 22 1) 0 then s.dmaWrite r.queue (r.parm 32 8) (hostImage ask img) else s
      .next (s.snapFinish h)
    else .next s

/-- HOST_COPY_DONE. -/
def execHostCopyDone (h : Nat) (s : State) : Res :=
  match s.hslot h with
  | none => .next s
  | some r =>
    if s.up && r.snap true && bit (r.parm 22 1) 0 then .next ((s.modHslot h fun v => { v with hostDone := true }).snapFinish h)
    else .next s

/-! ### RESTORE, R460 and R461 -/

def chkRestore (s : State) (c : Cmd) : Chk :=
  let p := c.target
  let judge := fun (img : List Byte) =>
    match s.imageCheck p img with
    | (0, _) => Chk.ok
    | (st, d) => .bad st d
  match c.parm 22 1 with
  | 0 =>
    match s.slotOf p (c.parm 16 6) with
    | none => .bad 0x0304 0
    | some k => judge (s.slotImage p k)
  | 1 =>
    (Chk.all [c.addrOk s (c.parm 24 8), Chk.must (4096 ≤ c.parm 32 8) 0x0304]).andThen fun _ =>
      match c.block 0 with
      | none => .need (c.parm 24 8) (c.parm 32 8)
      | some img => judge img
  | _ => .bad 0x0304 0

/-- A rollback takes an operation back: what it wrote, and its tiles, which stand still until it runs again. -/
def State.takeBack (s : State) (i : Nat) : State :=
  match s.hslot i with
  | none => s
  | some h =>
    let s := (s.rollback i).abandon h.tiles
    h.tiles.foldl (fun s t => s.modTile t fun x => { x.discard with stopped := true, save := none }) s

/-- RESTORE starts: every started operation of the partition is rolled back, and the copy begins. -/
def effRestore (s : State) (c : Cmd) : State :=
  match s.startLong c.q c.seq c.target [] with
  | (s, none) => s
  | (s, some i) => ((s.liveOps fun h => h.part == c.target).filter fun k => k != i).foldl State.takeBack s

/-- The image that a RESTORE copies. -/
def State.restoreImage (s : State) (h : HRec) : List Byte :=
  if h.parm 22 1 = 1 then (nth h.data (b2n (pPtr h.pkt))).getD []
  else
    match s.slotOf h.part (h.parm 16 6) with
    | some k => s.slotImage h.part k
    | none => []

/-- An operation of a restored partition runs again once, as after a warm reset (R461): its records are restated. Collectives and relays are no
work of the partition's state. -/
def State.runAgain (s : State) (i : Nat) : State :=
  match s.hslot i with
  | none => s
  | some h =>
    if h.opcode.toNat = opCOLLSETUP || h.opcode.toNat = opRELAY then s
    else (s.modQueue h.queue fun v => v.modEntry h.seq fun e => { e with restated := true }).warmOp i

/-- RESTORE_COPY_DONE: the image stands in the partition, every chunk is marked, and the operations that had started run again. -/
def execRestoreCopyDone (h : Nat) (s : State) : Res :=
  match s.hslot h with
  | none => .next s
  | some r =>
    if s.up && r.opcode.toNat = opRESTORE && r.state = .running then
      let p := r.part
      let img := s.restoreImage r
      let s := s.putImage p img
      let s := s.modHslot h fun v => { v with chunks := pagesOf img.length }
      let s := { s with ckpt := { s.ckpt with replay := s.ckpt.replay.filter fun x => x != p } }
      let s := s.endOp h 0 0
      .next (((s.opsInOrder.filter fun e => e.2.part == p).map fun e => e.1).foldl State.runAgain s)
    else .next s

/-! ### The mirror area, R453 -/

/-- The page range that MIRROR_CFG names meets a slot or a region. -/
def State.areaMeets (s : State) (page n : Nat) : Bool :=
  s.granary.any fun e => e.1 != 1000 && overlap page n e.2.1 e.2.2

def chkMirrorCfg (s : State) (c : Cmd) : Chk :=
  let base := c.parm 16 8
  let n := c.parm 24 4 + c.parm 28 4
  Chk.all
    [Chk.must (s.buddy != 0) 0x0304,
     Chk.must (base % 4096 == 0 && inHbm (base / 4096) n && !(s.areaMeets (base / 4096) n)) 0x0304,
     Chk.must (262144 ≤ c.parm 28 4) 0x0304, Chk.must (n * 4096 ≤ 128000000000) 0x0304]

/-- A new buddy holds nothing: no image is sealed, every chunk goes with the next seal, and it is asked by MIRROR_DELTA (R456, R457). -/
def State.newBuddy (s : State) : State :=
  let s :=
    { s with
      ckpt := { s.ckpt with mirror := [], partnerJ := [], lost := false, notice := false, trying := none, paired := s.buddy, sending := [] } }
  ((below 16).filter s.partExists).foldl
    (fun s p => ((s.wr (aCkptPartSealed p) 0).markAll p).emit (.mirror 0x0C01 [p, s.latestImage p])) s

def effMirrorCfg (s : State) (c : Cmd) : State :=
  let on := bit (c.parm 32 1) 0
  let fresh := on && (!(s.flag aCkptMirror 63) || s.ckpt.lost || s.ckpt.paired != s.buddy)
  let s := s.wr aCkptMirror (b2n on * 2 ^ 63 + (c.parm 24 4 % 2 ^ 28) * 2 ^ 28 + c.parm 28 4 % 2 ^ 28)
  let s := s.wr aCkptMirrorBase (c.parm 16 8 % 2 ^ 48)
  c.done (if fresh then s.newBuddy else s) 0 0

/-! ### The buddy's side, R454 and R455 -/

/-- This package takes mirroring operations of a partner. -/
def State.buddyUp (s : State) : Bool := s.up && s.buddy != 0

/-- A partner's partition in the mirror area. -/
def State.mirrorsPart (s : State) (p : Nat) : Bool := s.buddyUp && s.flag aCkptMirror 63 && p < 16

/-- JOURNAL_ENTRY: the entry is stored in its slot of the journal, and its storing is confirmed. -/
def execJournalEntry (q seq : Nat) (pkt : BitVec 512) (s : State) : Res :=
  if s.buddyUp && q < 64 then
    let kept : List JXfer := s.ckpt.partnerJ.filter fun (j : JXfer) => !(j.queue == q && j.seq % 4096 == seq % 4096)
    let j : JXfer := { queue := q, seq := seq, pkt := pkt, retired := false }
    let s := { s with ckpt := { s.ckpt with partnerJ := kept ++ [j] } }
    .next (s.emit (.mirror 0x30 [q, seq]))
  else .next s

/-- RETIRE_MARK: the mark is stored, and its storing is confirmed. -/
def execRetireMark (q seq : Nat) (s : State) : Res :=
  if s.buddyUp && q < 64 then
    let s :=
      { s with
        ckpt :=
          { s.ckpt with
            partnerJ := s.ckpt.partnerJ.map fun (j : JXfer) => if j.queue = q && j.seq = seq then { j with retired := true } else j } }
    .next (s.emit (.mirror 0x31 [q, seq, 1]))
  else .next s

/-- HEARTBEAT_SEND: while a pair is in service, which forms the heartbeat. -/
def execHeartbeatSend (s : State) : Res :=
  if s.buddyUp && s.pairInService then .next (s.emit (.mirror 0x32 [0])) else .next s

/-- HEARTBEAT: the partner is there; a warm-reset notice stands until it resumes (R456). -/
def execHeartbeat (notice : Bool) (s : State) : Res :=
  if s.buddyUp then .next { s with ckpt := { s.ckpt with notice := notice } } else .next s

/-- IMAGE_CHUNK: into the log, or straight into the copy area while no image is sealed there. -/
def execImageChunk (p idx : Nat) (data : BitVec 32768) (s : State) : Res :=
  if s.mirrorsPart p then
    let m := s.mirror p
    if m.image.isSome then .next (s.setMirror p { m with log := m.log ++ [(idx, data)] })
    else .next (s.setMirror p { m with chunks := sins m.chunks idx data })
  else .next s

/-- SEAL: the count is checked, and the log's copy begins. -/
def execSeal (p image count : Nat) (digest : BitVec 256) (s : State) : Res :=
  if s.mirrorsPart p then
    let m := s.mirror p
    let held := if m.image.isSome then m.log.length else m.chunks.length
    if held = count then .next (s.setMirror p { m with sealing := some (image, digest) }) else .next s
  else .next s

/-- SEAL_COPY_DONE: the image is sealed, and the partner hears of it. -/
def execSealCopyDone (p : Nat) (s : State) : Res :=
  let m := s.mirror p
  match m.sealing with
  | none => .next s
  | some (image, _) =>
    if s.mirrorsPart p then
      let chunks := m.log.foldl (fun c e => sins c e.1 e.2) m.chunks
      let s := s.setMirror p { image := some image, chunks := chunks, log := [], sealing := none }
      .next ((s.countFld aCkptStatus 47 32 1).emit (.mirror 0x34 [p, image]))
    else .next s

/-- SEAL_ANSWER: the buddy holds a sealed image; for a seal on its way that ends it, otherwise the answer is the detail of MIRROR_DELTA (R457). -/
def execSealAnswer (p image : Nat) (s : State) : Res :=
  if !(s.buddyUp && p < 16) then .next s
  else
    let n := image % 2 ^ 48
    match sfind? s.ckpt.sending p with
    | some _ =>
      if n = s.latestImage p then
        let s := s.wr (aCkptPartSealed p) (2 ^ 48 + n)
        let s := { s with ckpt := { s.ckpt with sending := sdel s.ckpt.sending p } }
        let mine := s.liveOps fun h => h.part == p && h.snap true && h.parm 16 6 == n
        .next (mine.foldl (fun s i => (s.modHslot i fun v => { v with sealDone := true }).snapFinish i) s)
      else .next s
    | none =>
      let whole := bit image 63
      let s := s.wr (aCkptPartSealed p) (if n = 0 && whole then 0 else 2 ^ 48 + n)
      .next (if whole then s.markAll p else s)

def chkMirrorDelta (_s : State) (_c : Cmd) : Chk := .ok

/-- MIRROR_DELTA at the buddy: unsealed chunks are discarded, and the sealed image is named. -/
def effMirrorDelta (s : State) (c : Cmd) : State :=
  let m := s.mirror c.target
  let s := s.setMirror c.target { m with log := [], sealing := none, chunks := if m.image.isSome then m.chunks else [] }
  c.done s 0
    (match m.image with
     | some n => n % 2 ^ 48 + b2n (n != c.parm 16 6) * 2 ^ 63
     | none => 2 ^ 63)

/-! ### The loss of the partner, R456 and R458 -/

/-- BUDDY_LOSS_DECLARE: declared once; snapshots go on without a seal, and TAKEOVER goes to a spare. -/
def execBuddyLossDeclare (s : State) : Res :=
  if s.buddyUp && !s.ckpt.lost then
    let s := (s.setFlag aCkptStatus 62).setFlag aIntkStatus 61
    let s := State.buddyRecord { s with ckpt := { s.ckpt with lost := true, notice := false, sending := [] } }
    .next ((s.liveOps fun h => h.snap true).foldl State.snapFinish (s.trySpare 0))
  else .next s

/-- TAKEOVER_TIMEOUT: the spare that has not answered is passed over. -/
def execTakeoverTimeout (s : State) : Res :=
  match s.ckpt.trying with
  | some k => if s.up then .next (s.dropTakeover.trySpare (k + 1)) else .next s
  | none => .next s

/-! ### The spare, R458 and R459 -/

/-- Only a package with role spare takes over, one partner at a time. -/
def chkTakeover (s : State) (_c : Cmd) : Chk := Chk.must (s.flag aCkptCfg 63 && s.ckpt.takeover.isNone) 0x0304

/-- TAKEOVER waits for the images and the journal. -/
def effTakeover (s : State) (c : Cmd) : State :=
  { s with ckpt := { s.ckpt with takeover := some (c.parm 16 2, c.parm 18 2, c.q, c.seq), takeChunks := [] } }

/-- TAKEOVER_CHUNK. -/
def execTakeoverChunk (p idx : Nat) (data : BitVec 32768) (s : State) : Res :=
  if s.up && s.ckpt.takeover.isSome && p < 16 && idx < 2 ^ 28 then
    .next { s with ckpt := { s.ckpt with takeChunks := sins s.ckpt.takeChunks (p * 2 ^ 28 + idx) data } }
  else .next s

/-- The image of a partition as its chunks have arrived: the first chunk says how long it is. -/
def State.takenImage (s : State) (p : Nat) : List Byte :=
  let chunk := fun (i : Nat) => leBytes 4096 (((sfind? s.ckpt.takeChunks (p * 2 ^ 28 + i)).map BitVec.toNat).getD 0)
  (below (pagesOf (at_ (chunk 0) 80 8))).flatMap chunk

/-- A partition is created from the configuration block of its image, and the image becomes the latest and the sealed one (steps 1 and 3). -/
def State.takePart (s : State) (p : Nat) : State :=
  let img := s.takenImage p
  let n := at_ img 8 6
  let blk := img.drop 4096
  let s := (below 4).foldl (fun s d => s.wr (aTilePart p d) (at_ blk (16 + 8 * d) 8)) s
  let s := (s.partTiles p).foldl (fun s k => s.modTile k Tile.create) s
  let s := (s.putBlock p blk).hbmPut (s.slotBase p 0) img
  let s := (s.setSlot p 0 (n + 1)).wr (aCkptPartLatest p) (2 ^ 49 + n)
  s.wr (aCkptPartSealed p) (2 ^ 48 + n)

/-- JOURNAL_TRANSFER: with every image of this package's shape and in place, the journal is taken and TAKEOVER ends. -/
def execJournalTransfer (anchored : List (Nat × Nat)) (entries : List JXfer) (s : State) : Res :=
  match s.ckpt.takeover with
  | none => .next s
  | some (_, mask, q, seq) =>
    if !s.up then .next s
    else
      let ps := (below 16).filter fun p => bit mask p
      let fresh := fun (s : State) => { s with ckpt := { s.ckpt with takeover := none, takeChunks := [] } }
      if ps.any fun p => at_ (s.takenImage p) 24 1 != s.active % 256 then .next ((fresh s).finish q seq 0x0F01 0 0)
      else
        match ps.find? fun p => s.slotPages p 0 < pagesOf (s.takenImage p).length with
        | some p => .next ((fresh s).finish q seq 0x0304 0 (s.takenImage p).length)
        | none =>
          let s := fresh (ps.foldl State.takePart s)
          let s := (anchored.filter fun e => e.1 < 64).foldl (fun s e => s.takeQueue entries e.1 e.2) s
          let s := { s with ckpt := { s.ckpt with replay := ps, lost := false } }
          let s := (s.finish q seq 0 0 0).setFlag aCkptStatus 61
          .next ((s.setFld aCkptCfg 63 63 0).setFld aFabCfg 63 48 s.ckpt.takeFrom)

end Sys2Proof.Machine
end

