-- ==== Sys2Proof/Machine/ThrMath.lean ====
section
/-! DEFINITION. What a Thresher computes for one problem (R273 to R282): Q64 values in the slots of a range certificate, sums of limb
products, correctly rounded quotients and roots, LU, Cholesky, triangular solves and CG, the true residual, and the flags. The order of
roundings inside LU, Cholesky, the substitutions and CG is read from R273, R274 and R277 (notes/assumptions 50); QR, BiCGSTAB and GMRES,
whose sequence the rules do not fix, take Config.solver. -/

namespace Sys2Proof.Machine

/-! ### Flags, R275, R276, R278 and R283 -/

/-- A problem at work: the certificate's exponents and what its status word collects. -/
structure Th where
  exps : List Int
  ovfSlot : Option Nat
  first : Option Nat
  reg : Nat
  notPd : Bool
  nan : Bool
  /-- column or iteration at work; 0xFFFFFFFE during input conversion -/
  step : Nat
  deriving DecidableEq, Repr

/-- The exponent of a slot. -/
def Th.exp (t : Th) (slot : Nat) : Int := (t.exps[slot]?).getD 0

/-- The first flag of a problem records its step. -/
def Th.flag (t : Th) : Th := { t with first := some (t.first.getD t.step) }

/-- Write a value to a slot: outside the slot's range it saturates and overflow is recorded. -/
def Th.fit (t : Th) (slot : Nat) (v : Int) : Th × Int :=
  if inRange 64 true v then (t, v)
  else ({ t.flag with ovfSlot := some (t.ovfSlot.getD slot) }, if v < 0 then imin 64 true else imax 64 true)

/-- Round n / d * 2^e to the nearest integer, ties to even, and write it. -/
def Th.round (t : Th) (slot : Nat) (neg : Bool) (n d : Nat) (e : Int) : Th × Int := t.fit slot (toIntQ 0 0 neg n d e).1

/-- A value of one slot in another's format (R193). -/
def Th.move (t : Th) (src dst : Nat) (v : Int) : Th × Int := t.round dst (v < 0) v.natAbs 1 (t.exp src - t.exp dst)

/-! ### Limb products, R168 and R241 -/

/-- Limb p of a Q64 element: the top one is signed. -/
def limbOf (v : Int) (p : Nat) : Int := if p = 7 then v / (2 : Int) ^ 56 else v / (2 : Int) ^ (8 * p) % 256

/-- The kept passes of one product, in units of 2^56 of the integer product. -/
def limbProd (a b : Int) : Int :=
  ((below 8).flatMap fun i => (below 8).map fun j =>
    if 7 ≤ i + j then limbOf a i * limbOf b j * (2 : Int) ^ (8 * (i + j - 7)) else 0).sum

/-- A sum of products, finished into a slot. -/
def Th.dot (t : Th) (sa sb dst : Nat) (ps : List (Int × Int)) : Th × Int :=
  let c := (ps.map fun p => limbProd p.1 p.2).sum
  t.round dst (c < 0) c.natAbs 1 (t.exp sa + t.exp sb - t.exp dst - 7)

/-! ### Quotients and roots -/

/-- num / den into a slot. -/
def Th.quot (t : Th) (sn sd dst : Nat) (num den : Int) : Th × Int :=
  t.round dst ((num < 0) != (den < 0)) num.natAbs den.natAbs (t.exp sn - t.exp sd + 63 - t.exp dst)

/-- 1 / p into the slot of the pivot reciprocals. -/
def Th.recip (t : Th) (p : Int) : Th × Int := t.round 4 (p < 0) 1 p.natAbs (126 - t.exp 2 - t.exp 4)

/-- The square root of n * 2^e as a dyadic with a sticky last bit. -/
def rootQ (n : Nat) (e : Int) : Nat × Int :=
  let (n, e) := if e % 2 = 0 then (n, e) else (2 * n, e - 1)
  let x := n <<< 256
  let r := Nat.sqrt x
  ((if r * r = x then 2 * r else 2 * r + 1), e / 2 - 129)

/-! ### Matrices -/

/-- Element (i, j) of a row-major table. -/
abbrev Mat := SMap Int

def mat (m : Mat) (n i j : Nat) : Int := sget 0 m (i * n + j)
def matPut (m : Mat) (n i j : Nat) (v : Int) : Mat := sput 0 m (i * n + j) v

/-- Exchange two rows. -/
def swapRows (m : Mat) (n w i k : Nat) : Mat :=
  if i = k then m
  else (below w).foldl (fun m j => let a := mat m n i j; let b := mat m n k j; matPut (matPut m n i j b) n k j a) m

/-- Apply a step to each of several numbers, carrying the flags and a table. -/
def eachIdx {α : Type} (is : List Nat) (a : α) (f : α → Nat → α) : α := is.foldl f a

/-- What a factorisation keeps: trailing sums in slot 3, factors in slot 2, pivot reciprocals in slot 4, right-hand sides in slot 1. -/
structure Fact where
  th : Th
  m : Mat
  f : Mat
  recip : Mat
  b : Mat
  deriving DecidableEq, Repr

/-! ### Pivots, R278 -/

/-- tau in slot 2, or one unit of it. -/
def Th.tauQ (t : Th) (tau : FVal) : Int :=
  match tau with
  | .fin _ m e => let k := (toIntQ 0 0 false m 1 (e + 63 - t.exp 2)).1; if k = 0 then 1 else min k (imax 64 true)
  | _ => 1

/-- The pivot test of LU and of the triangular solves. -/
def Th.pivot (t : Th) (tq p : Int) : Th × Int :=
  if (p.natAbs : Int) < tq then ({ t.flag with reg := t.reg + 1 }, if p < 0 then -tq else tq) else (t, p)

/-! ### LU, R277 -/

/-- Row of the entry of largest magnitude in column k from row k on, the lowest on ties. -/
def pivotRow (m : Mat) (n k : Nat) : Nat :=
  (upFrom k (n - k)).foldl (fun best i => if (mat m n best k).natAbs < (mat m n i k).natAbs then i else best) k

def luStep (n nrhs : Nat) (tq : Int) (s : Fact) (k : Nat) : Fact :=
  let s := { s with th := { s.th with step := k } }
  let r := pivotRow s.m n k
  let s := { s with m := swapRows s.m n n r k, f := swapRows s.f n n r k, b := swapRows s.b nrhs nrhs r k }
  let (t, p) := s.th.move 3 2 (mat s.m n k k)
  let (t, p) := t.pivot tq p
  let (t, rc) := t.recip p
  let s := { s with th := t, f := matPut s.f n k k p, recip := sput 0 s.recip k rc }
  let s := eachIdx (upFrom (k + 1) (n - k - 1)) s fun s j =>
    let (t, u) := s.th.move 3 2 (mat s.m n k j)
    { s with th := t, f := matPut s.f n k j u }
  eachIdx (upFrom (k + 1) (n - k - 1)) s fun s i =>
    let (t, l) := s.th.dot 3 4 2 [(mat s.m n i k, rc)]
    eachIdx (upFrom (k + 1) (n - k - 1)) { s with th := t, f := matPut s.f n i k l } fun s j =>
      let (t, p) := s.th.dot 2 2 3 [(l, mat s.f n k j)]
      let (t, v) := t.fit 3 (mat s.m n i j - p)
      { s with th := t, m := matPut s.m n i j v }

/-- Forward substitution with a unit diagonal or with reciprocals: results in `slot`. -/
def forward (n nrhs slot : Nat) (unit : Bool) (s : Fact) (c : Nat) : Fact × Mat :=
  eachIdx (below n) (s, ([] : Mat)) fun r i =>
    let (s, y) := r
    let (t, v) := s.th.move 1 3 (mat s.b nrhs i c)
    let (t, p) := t.dot 2 slot 3 ((below i).map fun j => (mat s.f n i j, sget 0 y j))
    let (t, v) := t.fit 3 (v - p)
    let (t, v) := if unit then t.move 3 slot v else t.dot 3 4 slot [(v, sget 0 s.recip i)]
    ({ s with th := t }, sput 0 y i v)

/-- Back substitution from values in `src`: results in slot 5. `at_` reads the factor. -/
def backward (n src : Nat) (unit : Bool) (at_ : Fact → Nat → Nat → Int) (s : Fact) (y : Mat) : Fact × Mat :=
  eachIdx ((below n).reverse) (s, ([] : Mat)) fun r i =>
    let (s, x) := r
    let (t, v) := s.th.move src 3 (sget 0 y i)
    let (t, p) := t.dot 2 5 3 ((upFrom (i + 1) (n - i - 1)).map fun j => (at_ s i j, sget 0 x j))
    let (t, v) := t.fit 3 (v - p)
    let (t, v) := if unit then t.move 3 5 v else t.dot 3 4 5 [(v, sget 0 s.recip i)]
    ({ s with th := t }, sput 0 x i v)

/-- Put a solved column into a solution table. -/
def putCol (x : Mat) (nrhs n c : Nat) (col : Mat) : Mat := eachIdx (below n) x fun x i => matPut x nrhs i c (sget 0 col i)

def solveLu (n nrhs : Nat) (tq : Int) (s : Fact) : Th × Mat :=
  let s := eachIdx (below n) s (luStep n nrhs tq)
  let r := eachIdx (below nrhs) (s, ([] : Mat)) fun r c =>
    let (s, y) := forward n nrhs 3 true r.1 c
    let (s, col) := backward n 3 false (fun s i j => mat s.f n i j) s y
    (s, putCol r.2 nrhs n c col)
  (r.1.th, r.2)

/-! ### Cholesky -/

def cholStep (n : Nat) (tq : Int) (s : Fact) (k : Nat) : Fact :=
  let s := { s with th := { s.th with step := k } }
  let t := s.th
  let row := (below k).map fun j => mat s.f n k j
  -- d_k formed exactly, then rounded into slot 3
  let c := (row.map fun l => limbProd l l).sum
  let e := min (t.exp 0 - 63) (2 * t.exp 2 - 70)
  let d := mat s.m n k k * (2 : Int) ^ (t.exp 0 - 63 - e).toNat - c * (2 : Int) ^ (2 * t.exp 2 - 70 - e).toNat
  let (t, d3) := t.round 3 (d < 0) d.natAbs 1 (e + 63 - t.exp 3)
  let (dn, dd) := scaleQ d3.natAbs 1 (t.exp 3 - 63 - (2 * t.exp 2 - 126))
  let (t, l) :=
    if d3 < 0 || decide (dn < (tq * tq).toNat * dd) then
      ({ t.flag with reg := t.reg + 1, notPd := t.notPd || decide (d3 ≤ 0) }, tq)
    else
      let r := rootQ d3.natAbs (t.exp 3 - 63)
      t.round 2 false r.1 1 (r.2 + 63 - t.exp 2)
  let (t, rc) := t.recip l
  let s := { s with th := t, f := matPut s.f n k k l, recip := sput 0 s.recip k rc }
  eachIdx (upFrom (k + 1) (n - k - 1)) s fun s i =>
    let (t, v) := s.th.move 0 3 (mat s.m n i k)
    let (t, p) := t.dot 2 2 3 ((below k).map fun j => (mat s.f n i j, mat s.f n k j))
    let (t, v) := t.fit 3 (v - p)
    let (t, v) := t.dot 3 4 2 [(v, rc)]
    { s with th := t, f := matPut s.f n i k v }

def solveChol (n nrhs : Nat) (tq : Int) (s : Fact) : Th × Mat :=
  let s := eachIdx (below n) s (cholStep n tq)
  let r := eachIdx (below nrhs) (s, ([] : Mat)) fun r c =>
    let (s, y) := forward n nrhs 3 false r.1 c
    let (s, col) := backward n 3 false (fun s i j => mat s.f n j i) s y
    (s, putCol r.2 nrhs n c col)
  (r.1.th, r.2)

/-! ### Triangular solves -/

def triStep (n : Nat) (lower unit : Bool) (tq : Int) (s : Fact) (k : Nat) : Fact :=
  let s := { s with th := { s.th with step := k } }
  let s := eachIdx (if lower then below k else upFrom (k + 1) (n - k - 1)) s fun s j =>
    let (t, v) := s.th.move 0 2 (mat s.m n k j)
    { s with th := t, f := matPut s.f n k j v }
  if unit then s
  else
    let (t, p) := s.th.move 0 2 (mat s.m n k k)
    let (t, p) := t.pivot tq p
    let (t, rc) := t.recip p
    { s with th := t, recip := sput 0 s.recip k rc }

def solveTri (n nrhs : Nat) (lower unit : Bool) (tq : Int) (s : Fact) : Th × Mat :=
  let s := eachIdx (below n) s (triStep n lower unit tq)
  let r := eachIdx (below nrhs) (s, ([] : Mat)) fun r c =>
    let (s, col) :=
      if lower then forward n nrhs 5 unit r.1 c
      else backward n 1 unit (fun s i j => mat s.f n i j) r.1 ((below n).foldl (fun y i => sput 0 y i (mat r.1.b nrhs i c)) [])
    (s, putCol r.2 nrhs n c col)
  (r.1.th, r.2)

/-! ### Iterative problems, R279 to R281 -/

/-- How an iterative problem ended: outcome of R283, iterations, and the solution in slot 2. -/
structure IterEnd where
  th : Th
  outcome : Nat
  iters : Nat
  x : Mat
  happy : Bool
  deriving DecidableEq, Repr

/-- norm <= tol^2 * normB, exactly, both in slot 7. -/
def converged (tol : FVal) (r b : Int) : Bool :=
  match tol with
  | .fin _ m e => let (n, d) := scaleQ (m * m * b.toNat) 1 (2 * e); r.toNat * d ≤ n
  | _ => false

/-- A vector operation element by element. -/
def vecEach (n : Nat) (t : Th) (f : Th → Nat → Th × Int) : Th × Mat :=
  eachIdx (below n) (t, ([] : Mat)) fun r i => let (t, v) := f r.1 i; (t, sput 0 r.2 i v)

/-- The squared norm of a vector of slot `s`, in slot 7. -/
def Th.norm (t : Th) (s n : Nat) (v : Mat) : Th × Int := t.dot s s 7 ((below n).map fun i => (sget 0 v i, sget 0 v i))

/-- A conjugate-gradient iteration's state: x in slot 2, r in 3, p in 4, rho in 7. -/
structure CgS where
  th : Th
  x : Mat
  r : Mat
  p : Mat
  rho : Int
  deriving DecidableEq, Repr

/-- CG from its initial residual; `a` gives the entries of a row of the operator by column. -/
def cgLoop (a : Nat → List (Nat × Int)) (n : Nat) (tol : FVal) (nb : Int) (cap : Nat) : Nat → Nat → CgS → IterEnd
  | 0, it, s => { th := s.th, outcome := 2, iters := it, x := s.x, happy := false }
  | fuel + 1, it, s =>
    let t := { s.th with step := it }
    let (t, q) := vecEach n t fun t i => t.dot 0 4 5 ((a i).map fun e => (e.2, sget 0 s.p e.1))
    let (t, pq) := t.dot 4 5 6 ((below n).map fun i => (sget 0 s.p i, sget 0 q i))
    if pq ≤ 0 then { th := { t.flag with notPd := true }, outcome := 3, iters := it, x := s.x, happy := false }
    else
      let (t, al) := t.quot 7 6 6 s.rho pq
      let (t, x) := vecEach n t fun t i => let (t, v) := t.dot 6 4 2 [(al, sget 0 s.p i)]; t.fit 2 (sget 0 s.x i + v)
      let (t, r) := vecEach n t fun t i => let (t, v) := t.dot 6 5 3 [(al, sget 0 q i)]; t.fit 3 (sget 0 s.r i - v)
      let (t, rho) := t.norm 3 n r
      if converged tol rho nb then { th := t, outcome := 1, iters := it + 1, x := x, happy := false }
      else if it + 1 = cap then { th := t, outcome := 2, iters := it + 1, x := x, happy := false }
      else
        let (t, be) := t.quot 7 7 6 rho s.rho
        let (t, p) := vecEach n t fun t i =>
          let (t, u) := t.move 3 4 (sget 0 r i)
          let (t, v) := t.dot 6 4 4 [(be, sget 0 s.p i)]
          t.fit 4 (u + v)
        cgLoop a n tol nb cap fuel (it + 1) { th := t, x := x, r := r, p := p, rho := rho }

/-! ### The true residual, R282 -/

/-- The square root of a ratio n / d * 2^e rounded once into FP32. -/
def rootRatio (n d : Nat) (e : Int) : Nat :=
  let (n, e) := if e % 2 = 0 then (n, e) else (2 * n, e - 1)
  let w := 64 + d.log2
  let y := (n <<< (2 * w)) / d
  let r := Nat.sqrt y
  let exact := r * r = y && y * d = n <<< (2 * w)
  (roundQ fp32 0 0 false (if exact then 2 * r else 2 * r + 1) 1 (e / 2 - w - 1)).1

/-- ||r|| / ||b|| of one column from its exact sums of squares, r in a slot of exponent er, b of eb: a pair to compare, none for infinity. -/
def ratioOf (rr bb : Nat) : Option (Nat × Nat) := if bb = 0 then (if rr = 0 then some (0, 1) else none) else some (rr, bb)

/-- The largest of the columns' ratios, in FP32. -/
def maxRatio (e : Int) (rs : List (Option (Nat × Nat))) : Nat :=
  if rs.any fun r => r.isNone then fp32.infPat false
  else
    let m := rs.foldl (fun m r => match r with
      | some y => if m.1 * y.2 < y.1 * m.2 then y else m
      | none => m) (0, 1)
    if m.1 = 0 then 0 else rootRatio m.1 m.2 e

end Sys2Proof.Machine
end

