-- ==== Sys2Proof/Machine/Thresher.lean ====
section
/-! DEFINITION. SOLVE_BATCH (R265 to R286): the checks of its descriptor, the inputs of a problem, what a problem leaves in the scratch
area when it stops, and the commit phase. -/

namespace Sys2Proof.Machine

/-! ### The batch descriptor, R265 -/

/-- The nine words. -/
abbrev BDesc := List Nat

def BDesc.w (d : BDesc) (i : Nat) : Nat := (nth d i).getD 0
def BDesc.alg (d : BDesc) : Nat := bits (d.w 0) 63 60
def BDesc.inQ (d : BDesc) : Bool := bit (d.w 0) 59
def BDesc.outQ (d : BDesc) : Bool := bit (d.w 0) 58
def BDesc.x0 (d : BDesc) : Bool := bit (d.w 0) 57
def BDesc.unit (d : BDesc) : Bool := bit (d.w 0) 56
def BDesc.gm (d : BDesc) : Nat := bits (d.w 0) 55 48
def BDesc.nrhs (d : BDesc) : Nat := bits (d.w 0) 47 40
def BDesc.n (d : BDesc) : Nat := bits (d.w 0) 37 24
def BDesc.count (d : BDesc) : Nat := bits (d.w 0) 23 0
def BDesc.cap (d : BDesc) : Nat := bits (d.w 8) 63 32
def BDesc.iter (d : BDesc) : Bool := d.alg == 8 || d.alg == 9 || d.alg == 10

/-- The descriptor of a command or an operation. -/
def descOf (bs : List Byte) : BDesc := (below 9).map fun i => leNat ((bs.drop (8 * i)).take 8)

/-- Vectors that a problem keeps in the tile store (R279). -/
def BDesc.vectors (d : BDesc) : Nat :=
  match d.alg with
  | 8 => 6
  | 9 => 9
  | _ => d.gm + 5

/-- Word 0, the iterative working set included. -/
def BDesc.word0Ok (d : BDesc) : Bool :=
  let dense := 1 ≤ d.alg && d.alg ≤ 5
  (dense || d.iter) && bits (d.w 0) 39 38 == 0 && (!d.x0 || d.iter) && (!d.unit || d.alg == 4 || d.alg == 5)
    && (if d.alg = 10 then 1 ≤ d.gm && d.gm ≤ 32 else d.gm == 0) && 1 ≤ d.count
    && (if d.iter then d.nrhs == 1 && 1 ≤ d.n && d.n ≤ 8192 && d.vectors * d.n * 8 ≤ 2621440
        else 1 ≤ d.nrhs && d.nrhs ≤ 64 && 1 ≤ d.n && d.n ≤ 64)

/-- Bytes of one problem's solution. -/
def BDesc.xLen (d : BDesc) : Nat := d.n * d.nrhs * 8

/-- Length of the region that word `i` begins, R267. -/
def BDesc.len (d : BDesc) (i : Nat) : Nat :=
  match i with
  | 1 => d.count * (if d.iter then 8 else d.n * d.n * 8)
  | 2 => d.count * d.xLen
  | 3 => d.count * d.xLen
  | 4 => d.count * 16
  | 5 => d.count * 16
  | _ => d.count * (d.xLen + 16)

/-- A region lies in populated HBM of this package, aligned. -/
def State.regionOk (s : State) (d : BDesc) (i : Nat) : Bool :=
  let g := d.w i
  g % (if i = 4 || i = 5 then 16 else 8) == 0 && (bits g 63 48 == 0 || bits g 63 48 == s.pkgId)
    && bits g 47 0 + d.len i ≤ hbmEnd

/-- The local base of a region. -/
def BDesc.base (d : BDesc) (i : Nat) : Nat := bits (d.w i) 47 0

/-- The scratch area meets another region. -/
def BDesc.scratchMeets (d : BDesc) : Bool :=
  (upFrom 1 5).any fun i => overlap (d.base 6) (d.len 6) (d.base i) (d.len i)

/-- FP64, finite and not negative. -/
def tolOk (x : Nat) : Bool :=
  match fdecode fp64 x with
  | .fin neg m _ => !neg || m == 0
  | _ => false

/-- Whether descriptor word `i` passes R266. -/
def State.batchWordOk (s : State) (d : BDesc) (i : Nat) : Bool :=
  match i with
  | 0 => d.word0Ok
  | 7 => !d.iter || tolOk (d.w 7)
  | 8 => bits (d.w 8) 31 0 == 0 && (!d.iter || 1 ≤ d.cap)
  | 6 => s.regionOk d 6 && !d.scratchMeets
  | _ => s.regionOk d i

def chkSolve (s : State) (c : Cmd) : Chk :=
  if s.busyOp c.target then .hold
  else
    (Chk.must (pParamLen c.pkt == 72) 0x0304).andThen fun _ =>
      let d := descOf c.desc
      match (below 9).find? fun i => !(s.batchWordOk d i) with
      | some i => .bad 0x0304 i
      | none => .ok

/-- The batch starts: its tiles RUNNING, the progress cleared, after the releases of the partition's windows (R384). -/
def effSolve (s : State) (c : Cmd) : State :=
  let p := c.target
  let ks := s.partTiles p
  match s.startLong c.q c.seq p ks with
  | (s, none) => s
  | (s, some i) =>
    let s := ks.foldl (fun s k => s.modTile k Tile.solve) s
    let s := s.wr (aThrPartProgress p) 0
    let b : Batched :=
      { handle := s.hword i, part := p, desc := (descOf c.desc).map (BitVec.ofNat 64), stopped := []
        tau := BitVec.ofNat 64 (s.rd (aThrPartTau p)) }
    { s with batches := sins s.batches i b }.partWindows p false

/-! ### The inputs of a problem, R271 to R276 -/

/-- An operator record within populated HBM. -/
structure OpRec where
  bs : Nat
  nb : Nat
  rowPtr : Nat
  colIdx : Nat
  blocks : Nat
  finish : Nat
  deriving DecidableEq, Repr

def up8 (a : Nat) : Nat := (a + 7) / 8 * 8

/-- The record at a local address (R271); none when it breaks the layout or n. -/
def State.opRec (s : State) (a n : Nat) : Option OpRec :=
  let v := fun (o k : Nat) => mval s.hbm.mem o k
  let bs := v a 4
  let nb := v (a + 4) 4
  let nnzb := v (a + 8) 8
  let rp := a + 16
  let ci := up8 (rp + 4 * (nb + 1))
  let bl := up8 (ci + 4 * nnzb)
  let fin := bl + nnzb * bs * bs * 8
  if hbmEnd < a + 16 || !(bs == 8 || bs == 16 || bs == 32 || bs == 64) || nb * bs ≠ n || hbmEnd < fin then none
  else if v rp 4 == 0 && v (rp + 4 * nb) 4 == nnzb && (below nb).all (fun i => v (rp + 4 * i) 4 ≤ v (rp + 4 * (i + 1)) 4)
      && (below nnzb).all (fun j => v (ci + 4 * j) 4 < nb) then
    some { bs := bs, nb := nb, rowPtr := rp, colIdx := ci, blocks := bl, finish := fin }
  else none

/-- One input element converted into a slot: a value, and the flags of R276. -/
def Th.input (t : Th) (isQ : Bool) (slot x : Nat) : Th × Int :=
  if isQ then (t, sint 64 x)
  else
    match fdecode fp64 x with
    | .nan _ => ({ t.flag with nan := true }, 0)
    | .inf neg => t.fit slot (if neg then -(2 : Int) ^ 64 else (2 : Int) ^ 64)
    | .fin neg m e => t.round slot neg m 1 (e + 63 - t.exp slot)

/-- `n` input elements from an address. -/
def State.inputs (s : State) (t : Th) (isQ : Bool) (slot a n : Nat) : Th × Mat :=
  eachIdx (below n) (t, ([] : Mat)) fun r i => let (t, v) := r.1.input isQ slot (mval s.hbm.mem (a + 8 * i) 8); (t, sput 0 r.2 i v)

/-- Row `i` of an operator: columns and entries, in slot 0. -/
def State.opRow (s : State) (t : Th) (isQ : Bool) (o : OpRec) (i : Nat) : Th × List (Nat × Int) :=
  let br := i / o.bs
  let v := fun (a k : Nat) => mval s.hbm.mem a k
  let lo := v (o.rowPtr + 4 * br) 4
  eachIdx (upFrom lo (v (o.rowPtr + 4 * (br + 1)) 4 - lo)) (t, ([] : List (Nat × Int))) fun r j =>
    eachIdx (below o.bs) r fun r c =>
      let (t, x) := r.1.input isQ 0 (v (o.blocks + 8 * (j * o.bs * o.bs + i % o.bs * o.bs + c)) 8)
      (t, r.2 ++ [(v (o.colIdx + 4 * j) 4 * o.bs + c, x)])

/-- The certificate of a problem. -/
def State.cert (s : State) (d : BDesc) (i : Nat) : List Int :=
  (below 8).map fun k => sint 16 (mval s.hbm.mem (d.base 4 + 16 * i + 2 * k) 2)

/-- The 64-byte-block ranges that a problem reads: address and length; the operator record apart. -/
def BDesc.reads (d : BDesc) (i : Nat) : List (Nat × Nat) :=
  [(d.base 4 + 16 * i, 16), (d.base 2 + d.xLen * i, d.xLen)]
    ++ (if d.iter then [(d.base 1 + 8 * i, 8)] else [(d.base 1 + d.n * d.n * 8 * i, d.n * d.n * 8)])
    ++ (if d.x0 then [(d.base 3 + d.xLen * i, d.xLen)] else [])

/-! ### A problem, R277 to R283 -/

/-- How a problem ends: outcome, iterations, happy, drift, residual in FP32, flags, and its solution with the slot that it stands in. -/
structure Solved where
  outcome : Nat
  iters : Nat
  happy : Bool
  drift : Bool
  resid : Nat
  th : Th
  x : Mat
  slot : Nat
  deriving DecidableEq, Repr

def Th.zero (es : List Int) : Th :=
  { exps := es, ovfSlot := none, first := none, reg := 0, notPd := false, nan := false, step := 0xFFFFFFFE }

/-- Overflow, or a NaN input: a result outside its certificate (R275, R276). -/
def Th.degraded (t : Th) : Bool := t.ovfSlot.isSome || t.nan

/-- Flagged, R283. -/
def Solved.flagged (v : Solved) : Bool :=
  (2 ≤ v.outcome && v.outcome ≤ 5) || v.th.reg != 0 || v.th.degraded || v.th.notPd || v.drift

/-- The status word, R283. -/
def Solved.word (v : Solved) : Nat :=
  v.outcome + 2 ^ 4 * b2n (v.th.reg != 0) + 2 ^ 5 * b2n v.th.ovfSlot.isSome + 2 ^ 6 * b2n v.th.degraded + 2 ^ 7 * b2n v.th.notPd
    + 2 ^ 8 * b2n v.th.nan + 2 ^ 9 * b2n v.happy + 2 ^ 10 * b2n v.drift + 2 ^ 16 * min v.th.reg 64
    + 2 ^ 24 * v.th.ovfSlot.getD 15 + 2 ^ 32 * v.iters + 2 ^ 64 * v.resid + 2 ^ 96 * v.th.first.getD 0xFFFFFFFF

/-- A problem that ends without a solution. -/
def Solved.none (outcome : Nat) (es : List Int) : Solved :=
  { outcome := outcome, iters := 0, happy := false, drift := false, resid := 0, th := Th.zero es, x := [], slot := 5 }

/-- Residual columns b - A x: sums of squares of r in `slot` and of b in slot 1, by column; `row` gives the entries of a row. -/
def trueResidual (n nrhs slot sx : Nat) (row : Nat → List (Nat × Int)) (b x : Mat) (t : Th) : Th × List (Nat × Nat) :=
  eachIdx (below nrhs) (t, ([] : List (Nat × Nat))) fun r c =>
    let (t, rr) := eachIdx (below n) (r.1, 0) fun y i =>
      let (t, v) := y.1.move 1 slot (mat b nrhs i c)
      let (t, p) := t.dot 0 sx slot ((row i).map fun e => (e.2, mat x nrhs e.1 c))
      let (t, v) := t.fit slot (v - p)
      (t, y.2 + v.natAbs * v.natAbs)
    (t, r.2 ++ [(rr, ((below n).map fun i => (mat b nrhs i c).natAbs ^ 2).sum)])

/-- Results of Config.solver for algorithms whose roundings the rules do not fix. -/
def freeSolve (key : List Nat) (n : Nat) (iter : Bool) (gm cap : Nat) (t : Th) : IterEnd :=
  let v := Config.solver key
  let x : Mat := eachIdx (below n) [] fun x i => sput 0 x i (sint 64 (v (8 + i)))
  let regs := if iter then 0 else v 0 % (n + 1)
  let outcome := if iter then 1 + v 1 % 3 else 0
  let t := if regs = 0 then t else { t with reg := regs, first := some (t.first.getD (v 2 % n)) }
  let t := if v 3 % 2 = 0 then t
    else { t with ovfSlot := some (t.ovfSlot.getD (v 4 % 8)), first := some (t.first.getD (v 5 % (max n cap))) }
  let it := if iter then v 6 % (cap + 1) else 0
  let t := if outcome = 3 then { t with first := some (t.first.getD it) } else t
  { th := t, outcome := if outcome = 3 && 0 < gm then 1 else outcome, iters := if outcome = 2 then cap else it, x := x
    happy := decide (0 < gm) && v 7 % 2 == 1 }

/-- Dense problem `i` (R277). -/
def State.solveDense (s : State) (d : BDesc) (tau : Nat) (i : Nat) : Solved :=
  let n := d.n
  let k := d.nrhs
  let t := Th.zero (s.cert d i)
  let (t, a) := s.inputs t d.inQ 0 (d.base 1 + n * n * 8 * i) (n * n)
  let (t, b) := s.inputs t d.inQ 1 (d.base 2 + d.xLen * i) (n * k)
  let tq := t.tauQ (fdecode fp64 tau)
  let (t, m3) := if d.alg = 1 then vecEach (n * n) { t with step := 0 } fun t j => t.move 0 3 (sget 0 a j) else (t, a)
  let f : Fact := { th := t, m := m3, f := [], recip := [], b := b }
  let key := [d.alg, n, k, tau] ++ (s.cert d i).map (wrapInt 16) ++ (a ++ b).flatMap fun e => [e.1, wrapInt 64 e.2]
  let (t, x) :=
    match d.alg with
    | 1 => solveLu n k tq f
    | 2 => solveChol n k tq f
    | 3 => let r := freeSolve key (n * k) false 0 0 t; (r.th, r.x)
    | 4 => solveTri n k true d.unit tq f
    | _ => solveTri n k false d.unit tq f
  let entry := fun (r c : Nat) =>
    match d.alg with
    | 2 => if c ≤ r then mat a n r c else mat a n c r
    | 4 => if c = r && d.unit then (toIntQ 0 0 false 1 1 (63 - t.exp 0)).1 else if c ≤ r then mat a n r c else 0
    | 5 => if c = r && d.unit then (toIntQ 0 0 false 1 1 (63 - t.exp 0)).1 else if r ≤ c then mat a n r c else 0
    | _ => mat a n r c
  let (t, rs) := trueResidual n k 6 5 (fun r => (below n).map fun c => (c, entry r c)) b x { t with step := n }
  { outcome := 0, iters := 0, happy := false, drift := false
    resid := maxRatio (2 * (t.exp 6 - t.exp 1)) (rs.map fun r => ratioOf r.1 r.2), th := t, x := x, slot := 5 }

/-- Iterative problem `i` (R279 to R281). -/
def State.solveIter (s : State) (d : BDesc) (tau : Nat) (i : Nat) (o : OpRec) : Solved :=
  let n := d.n
  let t := Th.zero (s.cert d i)
  let (t, rows) := eachIdx (below n) (t, ([] : SMap (List (Nat × Int)))) fun r j =>
    let (t, row) := s.opRow r.1 d.inQ o j
    (t, r.2 ++ [(j, row)])
  let a := fun j => sget [] rows j
  let (t, b) := s.inputs t d.inQ 1 (d.base 2 + d.xLen * i) n
  let (t, x0) := if d.x0 then s.inputs t d.inQ 2 (d.base 3 + d.xLen * i) n else (t, [])
  let tol := fdecode fp64 (d.w 7)
  let t := { t with step := 0 }
  let (t, nb) := t.norm 1 n b
  let res := fun (t : Th) (x : Mat) => vecEach n t fun t j =>
    let (t, v) := t.move 1 3 (sget 0 b j)
    let (t, p) := t.dot 0 2 3 ((a j).map fun e => (e.2, sget 0 x e.1))
    t.fit 3 (v - p)
  let e : IterEnd :=
    if nb = 0 then { th := t, outcome := 1, iters := 0, x := [], happy := false }
    else
      let (t, r) := res t x0
      let (t, rho) := t.norm 3 n r
      if converged tol rho nb then { th := t, outcome := 1, iters := 0, x := x0, happy := false }
      else if d.alg = 8 then
        let (t, p) := vecEach n t fun t j => t.move 3 4 (sget 0 r j)
        cgLoop a n tol nb d.cap d.cap 0 { th := t, x := x0, r := r, p := p, rho := rho }
      else
        let key := [d.alg, n, d.gm, tau, d.w 7, d.cap] ++ (s.cert d i).map (wrapInt 16)
          ++ (b ++ x0).flatMap (fun e => [e.1, wrapInt 64 e.2]) ++ rows.flatMap fun r => r.2.flatMap fun e => [r.1, e.1, wrapInt 64 e.2]
        freeSolve key n true d.gm d.cap t
  let (t, rs) := trueResidual n 1 3 2 a b e.x { e.th with step := e.iters }
  let (t, r) := res t e.x
  let (t, rho) := t.norm 3 n r
  let drift := e.outcome == 1 && nb != 0 && !(converged tol rho nb)
  { outcome := e.outcome, iters := e.iters, happy := e.happy, drift := drift
    resid := maxRatio (2 * (t.exp 3 - t.exp 1)) (rs.map fun r => ratioOf r.1 r.2)
    th := if drift then t.flag else t, x := e.x, slot := 2 }

/-- A problem with its inputs as they stand. -/
def State.solveProblem (s : State) (d : BDesc) (tau i : Nat) : Solved :=
  let es := s.cert d i
  if (d.reads i).any fun r => s.hbm.anyPoison r.1 r.2 then Solved.none 5 es
  else if es.any fun e => e < -2048 || 2047 < e then Solved.none 4 es
  else if d.iter then
    let g := mval s.hbm.mem (d.base 1 + 8 * i) 8
    match s.dest g with
    | .here a =>
      match s.opRec a d.n with
      | none => if a + 16 ≤ hbmEnd && s.hbm.anyPoison a 16 then Solved.none 5 es else Solved.none 4 es
      | some o => if s.hbm.anyPoison a (o.finish - a) then Solved.none 5 es else s.solveIter d tau i o
    | _ => Solved.none 4 es
  else s.solveDense d tau i

/-- The bytes of a solution: in its slot's format, or FP64; +0 for BAD_INPUT and POISON (R272, R276). -/
def Solved.bytes (v : Solved) (d : BDesc) : List Byte :=
  (below (d.n * d.nrhs)).flatMap fun i =>
    let q := sget 0 v.x i
    leBytes 8 (if 4 ≤ v.outcome then 0 else if d.outQ then wrapInt 64 q else (convQF fp64 0 0 (v.th.exp v.slot) q).1)

/-! ### PROBLEM_STOP, R283 and R284 -/

/-- Chunks of a digest's regions that a range touches are hashed when they are first read (R441). -/
def State.hashRange (s : State) (w a n : Nat) : State :=
  (upFrom (a / 4096) (if n = 0 then 0 else (a + n - 1) / 4096 + 1 - a / 4096)).foldl (fun s g => s.hashChunk w g) s

/-- PROBLEM_STOP: a problem of the batch in handle slot `h` reaches its outcome, and its solution and status word go to scratch. -/
def execProblemStop (h i : Nat) (s : State) : Res :=
  match sfind? s.batches h, s.hslot h with
  | some b, some r =>
    let d : BDesc := b.desc.map BitVec.toNat
    if !(s.up && (r.state == .running || r.state == .suspending) && i < d.count && (sfind? b.stopped i).isNone
        && !(s.winBusy b.part false)) then .next s
    else
      let s := (d.reads i).foldl (fun s e => s.hashRange b.handle e.1 e.2) s
      let v := s.solveProblem d b.tau.toNat i
      let s := s.hbmPut (d.base 6 + (d.xLen + 16) * i) (v.bytes d ++ leBytes 16 v.word)
      let s := { s with batches := sins s.batches h { b with stopped := sins b.stopped i v.flagged } }
      let s := s.countFld (aThrPartProgress b.part) 31 0 1
      .next (if v.flagged then s.countFld (aThrPartProgress b.part) 63 32 1 else s)
  | _, _ => .next s

/-! ### The commit phase, R284 -/

/-- Every problem has stopped. -/
def Batched.over (b : Batched) : Bool := b.stopped.length == bits ((nth b.desc 0).getD 0).toNat 23 0

/-- The commit phase starts at a furrow boundary once every problem has stopped (R284); a suspended batch keeps waiting. -/
def State.commitsBegin (s : State) : State :=
  s.batches.foldl
    (fun s e =>
      match s.hslot e.1 with
      | some h =>
        if e.2.over && (h.state == .running || h.state == .suspending) && !h.late && h.ending.isNone then
          s.modHslot e.1 fun h => { h with late := true }
        else s
      | none => s) s

/-- Every solution is copied to x_addr and every status word to status_addr. -/
def State.commitCopy (s : State) (d : BDesc) : State :=
  eachIdx (below d.count) s fun s i =>
    let a := d.base 6 + (d.xLen + 16) * i
    let s := s.hbmPut (d.base 3 + d.xLen * i) (mread s.hbm.mem a d.xLen)
    s.hbmPut (d.base 5 + 16 * i) (mread s.hbm.mem (a + d.xLen) 16)

/-- COMMIT_PHASE_END: the copy and the clearing finish, and the operation ends. -/
def execCommitPhaseEnd (h : Nat) (s : State) : Res :=
  match sfind? s.batches h, s.hslot h with
  | some b, some r =>
    if !(s.up && r.late && r.state.live && r.ending.isNone) then .next s
    else
      let d : BDesc := b.desc.map BitVec.toNat
      let s := s.commitCopy d
      let s := r.tiles.foldl (fun s k => s.modTile k Tile.solved) s
      let bad := b.stopped.filter fun e => e.2
      let low := ((bad.head?).map fun e => e.1).getD 0xFFFFFFFF
      let s := { s with batches := sdel s.batches h }
      .next (s.opEnds h (if bad.isEmpty then 0 else 0x0801) (low * 2 ^ 32 + bad.length))
  | _, _ => .next s

end Sys2Proof.Machine
end

