-- ==== Sys2Proof/Machine/CmdRows.lean ====
section
/-! DEFINITION. The start of a command of each opcode (R79, R84, R96): the rules of every opcode in two tables, the row that starts the next command of a
queue when it is of the row's opcode, and the DMA reads that a starting command waits for (R540). -/

namespace Sys2Proof.Machine

/-- Check 7 of R84: the parameters, by opcode. -/
def cmdChk (s : State) (c : Cmd) : Chk :=
  match c.op with
  | 0x0001 => chkNop s c
  | 0x0002 => chkFlush s c
  | 0x0003 => chkHandleCtl s c
  | 0x0004 => chkHandleCtl s c
  | 0x0005 => chkHandleCtl s c
  | 0x0006 => chkQuery s c
  | 0x0101 => chkTimeSet s c
  | 0x0102 => chkFurrowSet s c
  | 0x0103 => chkBarrier s c
  | 0x0201 => chkPartCreate s c
  | 0x0202 => chkPartReset s c
  | 0x0203 => chkMemCopy s c
  | 0x0204 => chkMemFill s c
  | 0x0205 => chkPartDelete s c
  | 0x0301 => chkProgLoad s c
  | 0x0302 => chkProgRun s c
  | 0x0303 => chkTrainStep s c
  | 0x0401 => chkSolve s c
  | 0x0501 => chkCollSetup s c
  | 0x0502 => chkCollStep s c
  | 0x0503 => chkCollTeardown s c
  | 0x0601 => chkSnapshot s c
  | 0x0602 => chkRestore s c
  | 0x0603 => chkMirrorCfg s c
  | 0x0701 => chkCapSet s c
  | 0x0702 => chkPhaseTable s c
  | 0x0801 => chkStage s c
  | 0x0802 => chkActivate s c
  | 0x0901 => chkHealth s c
  | 0x0902 => chkErrlog s c
  | 0x0903 => chkRepair s c
  | 0x0A01 => chkDetSet s c
  | 0x0A02 => chkDigestRead s c
  | 0x0B01 => chkRemoteOp s c
  | 0x0B02 => chkRelay s c
  | 0x0C01 => chkMirrorDelta s c
  | 0x0C02 => chkTakeover s c
  | 0x0D01 => chkDebugHalt s c
  | 0x0D02 => chkScan s c
  | _ => .bad 0x0301 0

/-- What a checked command does, by opcode. -/
def cmdEff (s : State) (c : Cmd) : State :=
  match c.op with
  | 0x0001 => effNop s c
  | 0x0002 => effFlush s c
  | 0x0003 => effSuspend s c
  | 0x0004 => effResume s c
  | 0x0005 => effCancel s c
  | 0x0006 => effQuery s c
  | 0x0101 => effTimeSet s c
  | 0x0102 => effFurrowSet s c
  | 0x0103 => effBarrier s c
  | 0x0201 => effPartCreate s c
  | 0x0202 => effPartReset s c
  | 0x0203 => effMem s c
  | 0x0204 => effMem s c
  | 0x0205 => effPartDelete s c
  | 0x0301 => effProgLoad s c
  | 0x0302 => effProgRun s c
  | 0x0303 => effProgRun s c
  | 0x0401 => effSolve s c
  | 0x0501 => effCollSetup s c
  | 0x0502 => effCollStep s c
  | 0x0503 => effCollTeardown s c
  | 0x0601 => effSnapshot s c
  | 0x0602 => effRestore s c
  | 0x0603 => effMirrorCfg s c
  | 0x0701 => effCapSet s c
  | 0x0702 => effPhaseTable s c
  | 0x0801 => effStage s c
  | 0x0802 => effActivate s c
  | 0x0901 => effHealth s c
  | 0x0902 => effErrlog s c
  | 0x0903 => effRepair s c
  | 0x0A01 => effDetSet s c
  | 0x0A02 => effDigestRead s c
  | 0x0B01 => effRemoteOp s c
  | 0x0B02 => effRelay s c
  | 0x0C01 => effMirrorDelta s c
  | 0x0C02 => effTakeover s c
  | 0x0D01 => effDebugHalt s c
  | 0x0D02 => effScan s c
  | _ => s

/-- The next command of queue `q` starts, if it is of opcode `op`. -/
def startCmd (op : Nat) (s : State) (q : Nat) : State := startRow cmdChk cmdEff op s q

/-! ### The start rows -/

/-- NOP starts. -/
def execNop (q : Nat) (s : State) : Res := .next (startCmd 0x0001 s q)

/-- FLUSH starts. -/
def execFlush (q : Nat) (s : State) : Res := .next (startCmd 0x0002 s q)

/-- SUSPEND starts. -/
def execSuspend (q : Nat) (s : State) : Res := .next (startCmd 0x0003 s q)

/-- RESUME starts. -/
def execResume (q : Nat) (s : State) : Res := .next (startCmd 0x0004 s q)

/-- CANCEL starts. -/
def execCancel (q : Nat) (s : State) : Res := .next (startCmd 0x0005 s q)

/-- QUERY_HANDLE starts. -/
def execQueryHandle (q : Nat) (s : State) : Res := .next (startCmd 0x0006 s q)

/-- TIME_SET starts. -/
def execTimeSet (q : Nat) (s : State) : Res := .next (startCmd 0x0101 s q)

/-- FURROW_SET starts. -/
def execFurrowSet (q : Nat) (s : State) : Res := .next (startCmd 0x0102 s q)

/-- BARRIER starts. -/
def execBarrier (q : Nat) (s : State) : Res := .next (startCmd 0x0103 s q)

/-- PART_CREATE starts. -/
def execPartCreate (q : Nat) (s : State) : Res := .next (startCmd 0x0201 s q)

/-- PART_RESET starts. -/
def execPartReset (q : Nat) (s : State) : Res := .next (startCmd 0x0202 s q)

/-- MEM_COPY starts. -/
def execMemCopy (q : Nat) (s : State) : Res := .next (startCmd 0x0203 s q)

/-- MEM_FILL starts. -/
def execMemFill (q : Nat) (s : State) : Res := .next (startCmd 0x0204 s q)

/-- PART_DELETE starts. -/
def execPartDelete (q : Nat) (s : State) : Res := .next (startCmd 0x0205 s q)

/-- PROG_LOAD starts. -/
def execProgLoad (q : Nat) (s : State) : Res := .next (startCmd 0x0301 s q)

/-- PROG_RUN starts. -/
def execProgRun (q : Nat) (s : State) : Res := .next (startCmd 0x0302 s q)

/-- TRAIN_STEP starts. -/
def execTrainStep (q : Nat) (s : State) : Res := .next (startCmd 0x0303 s q)

/-- SOLVE_BATCH starts. -/
def execSolveBatch (q : Nat) (s : State) : Res := .next (startCmd 0x0401 s q)

/-- COLL_SETUP starts. -/
def execCollSetup (q : Nat) (s : State) : Res := .next (startCmd 0x0501 s q)

/-- COLL_STEP starts. -/
def execCollStep (q : Nat) (s : State) : Res := .next (startCmd 0x0502 s q)

/-- COLL_TEARDOWN starts. -/
def execCollTeardown (q : Nat) (s : State) : Res := .next (startCmd 0x0503 s q)

/-- SNAPSHOT starts. -/
def execSnapshot (q : Nat) (s : State) : Res := .next (startCmd 0x0601 s q)

/-- RESTORE starts. -/
def execRestore (q : Nat) (s : State) : Res := .next (startCmd 0x0602 s q)

/-- MIRROR_CFG starts. -/
def execMirrorCfg (q : Nat) (s : State) : Res := .next (startCmd 0x0603 s q)

/-- CAP_SET starts. -/
def execCapSet (q : Nat) (s : State) : Res := .next (startCmd 0x0701 s q)

/-- PHASE_TABLE starts. -/
def execPhaseTable (q : Nat) (s : State) : Res := .next (startCmd 0x0702 s q)

/-- FW_STAGE starts. -/
def execFwStage (q : Nat) (s : State) : Res := .next (startCmd 0x0801 s q)

/-- FW_ACTIVATE starts. -/
def execFwActivate (q : Nat) (s : State) : Res := .next (startCmd 0x0802 s q)

/-- HEALTH_READ starts. -/
def execHealthRead (q : Nat) (s : State) : Res := .next (startCmd 0x0901 s q)

/-- ERRLOG_READ starts. -/
def execErrlogRead (q : Nat) (s : State) : Res := .next (startCmd 0x0902 s q)

/-- REPAIR starts. -/
def execRepair (q : Nat) (s : State) : Res := .next (startCmd 0x0903 s q)

/-- DET_SET starts. -/
def execDetSet (q : Nat) (s : State) : Res := .next (startCmd 0x0A01 s q)

/-- DIGEST_READ starts. -/
def execDigestRead (q : Nat) (s : State) : Res := .next (startCmd 0x0A02 s q)

/-- REMOTE_OP starts. -/
def execRemoteOp (q : Nat) (s : State) : Res := .next (startCmd 0x0B01 s q)

/-- IMAGE_RELAY starts. -/
def execImageRelay (q : Nat) (s : State) : Res := .next (startCmd 0x0B02 s q)

/-- MIRROR_DELTA starts. -/
def execMirrorDelta (q : Nat) (s : State) : Res := .next (startCmd 0x0C01 s q)

/-- TAKEOVER starts. -/
def execTakeover (q : Nat) (s : State) : Res := .next (startCmd 0x0C02 s q)

/-- DEBUG_HALT starts. -/
def execDebugHalt (q : Nat) (s : State) : Res := .next (startCmd 0x0D01 s q)

/-- SCAN starts. -/
def execScan (q : Nat) (s : State) : Res := .next (startCmd 0x0D02 s q)

/-! ### DMA reads, R540 -/

/-- DMA_READ_COMPLETION: the data goes to the command of the queue that waits for it, whose checks go on; an error ends it. With none
waiting it belongs to an IMAGE_RELAY. -/
def execDmaReadCompletion (q : Nat) (ok : Bool) (data : List Byte) (s : State) : Res :=
  if !s.up || 64 ≤ q then .next s
  else
    match (s.queue q).entries.find? fun e => e.stage == .fetching with
    | none => .next (s.relayData q ok data)
    | some e =>
      if !ok then .next (s.finish q e.seq 0x0306 0 0)
      else
        let s := s.modQueue q fun v => v.modEntry e.seq fun e => { e with data := e.data ++ [data] }
        .next (startEntry cmdChk cmdEff 8 s { s.cmdOf q e with data := e.data ++ [data] })

end Sys2Proof.Machine
end

