-- ==== Sys2Proof/Machine/Furrow.lean ====
section
/-! DEFINITION. The start of a furrow (R56, R59, R63, R72): the counter reaches the boundary, or steps there; buffered adds are applied; operations that
end, stop or go on at a boundary do; the furrow's events take place in the order of R72; and Balers, commits, grants and furrow waits follow. -/

namespace Sys2Proof.Machine

/-! ### The counter, R56 and R63 -/

/-- A step of `k` furrows at the boundary where the counter stands: its pulses, and what is left of the offset. -/
def State.stepTime (s : State) (k : Int) : State :=
  let d := k * s.furrowLen
  let t := s.time.setCount (s.time.count + d * 65536)
  let secs := t.ns / nsPerSec - s.time.ns / nsPerSec
  let q := s.quality
  let s := { s with time := { t with step := none, slew := s.time.slew - d * 65536 } }
  let s := (s.setFlag aTimeStatus 62).detEvent 4 none 0
  if d ≤ 0 || secs = 0 then s
  else if d ≤ 100000000 then
    let s := s.setFlag aTimeStatus 61
    if s.flag aTimePpsCfg 0 then
      { s with time := { s.time with ppsEvent := some (s.time.ns / nsPerSec, q) }, pins := { s.pins with ppsOut := true } }
    else s
  else (s.setFlag aTimeStatus 60).countFld aTimeStatus 47 40 secs

/-- The counter comes to the next boundary, and steps there when a step is due. -/
def State.toBoundary (s : State) : State :=
  let f := s.nextFurrow
  let s := s.setTime (s.time.runTo (s.boundary f * 65536))
  match s.time.step with
  | some (at_, k) => if reached at_ f then s.stepTime k else s
  | none => s

/-! ### Operations at a boundary, R99, R140 to R144, R471 -/

/-- What a cancelled SNAPSHOT leaves: the latest image is the one before it, and its chunks are marked again (R101, R449). -/
def State.snapCancel (s : State) (p : Nat) (late : Bool) : State :=
  let s := if (sfind? s.ckpt.sending p).isSome then { s with ckpt := { s.ckpt with sending := sdel s.ckpt.sending p } }.markAll p else s
  if !late then s
  else
    match s.latestSlot p with
    | none => s
    | some k =>
      let old := sget 0 s.ckpt.slots (2 * p + (1 - k))
      (s.setSlot p k 0).wr (aCkptPartLatest p) (if old = 0 then 0 else 2 ^ 49 + (1 - k) * 2 ^ 48 + (old - 1))

/-- An operation in CANCELLING reaches its furrow boundary (R142). Writes of a chunk that are on their way land first (R101). -/
def State.cancelDue (s : State) (i : Nat) (h : HRec) : State :=
  let o := h.opcode.toNat
  if (o = opMEMCOPY || o = opMEMFILL) && h.job.writing && h.job.left != 0 then s
  else if o = opCOLLSETUP then
    match s.collOf (s.hword i) with
    | some (c, _) => (s.collEnds c).cancelEnd i
    | none => s.cancelEnd i
  else if o = opSOLVE then
    let s := h.tiles.foldl (fun s k => s.modTile k Tile.solved) s
    State.cancelEnd { s with batches := sdel s.batches i } i
  else if o = opSNAPSHOT then (s.snapCancel h.part h.late).cancelEnd i
  else if h.isProg then ((s.haltTiles h.tiles).abandon h.tiles).cancelEnd i
  else s.cancelEnd i

/-- Whether an operation in SUSPENDING has reached its safe point. -/
def State.suspendReady (s : State) (i : Nat) (h : HRec) : Bool :=
  if h.isProg then
    h.tiles.all (fun k => (s.tile k).run == .suspended || (s.tile k).run == .halted) && h.tiles.any fun k => (s.tile k).run == .suspended
  else if h.opcode.toNat = opCOLLSETUP then
    match s.collOf (s.hword i) with
    | some (_, k) => k.run != .run
    | none => true
  else !h.late && h.job.left == 0

/-- The collective of an operation changes what it does. -/
def State.collTurn (s : State) (i : Nat) (a b : CollRun) : State :=
  match s.collOf (s.hword i) with
  | some (c, k) => if k.run = a then s.setColl c { k with run := b } else s
  | none => s

/-- It is SUSPENDED from furrow `f` on (R140). -/
def State.suspendDue (s : State) (i : Nat) (h : HRec) (f : Nat) : State :=
  let s := (s.hmove i .suspended).modHslot i fun v => { v with suspFurrow := f }
  let s := if h.opcode.toNat = opSOLVE then h.tiles.foldl (fun s k => s.modTile k fun t => { t with run := .suspended }) s else s
  (if h.opcode.toNat = opCOLLSETUP then s.collTurn i .idle .suspended else s).settle

/-- A RESUME takes effect at furrow `f` (R99, R141). -/
def State.resumeDue (s : State) (i : Nat) (h : HRec) (f : Nat) : State :=
  let s := (s.hmove i .running).modHslot i fun v => { v with resumeAt := none }
  let o := h.opcode.toNat
  let s :=
    if h.isProg then
      if h.tiles.any fun k => (s.tile k).run == .suspended && (s.tile k).save.isNone then s.startAgain i
      else
        h.tiles.foldl
          (fun s k =>
            if (s.tile k).run = .suspended then (s.loadTile h.part k).modTile k fun t => t.restore (aheadOf f h.suspFurrow) else s) s
    else if o = opSOLVE then
      h.tiles.foldl (fun s k => s.modTile k fun t => if t.run = .suspended then { t with run := .running } else t) s
    else if o = opCOLLSETUP then s.collTurn i .suspended .idle
    else if o = opMEMCOPY || o = opMEMFILL then s.memGo i
    else s
  s.settle

/-- A fault has fixed the end of an operation: the firmware halts its tiles, and it ends (R144). -/
def State.faultDue (s : State) (i : Nat) (h : HRec) (status : Nat) (detail : Nat) : State :=
  ((s.haltTiles h.tiles).abandon h.tiles).opEnds i status detail

/-- What the start of furrow `f` makes of one operation in progress. -/
def State.opFurrow (f : Nat) (s : State) (i : Nat) : State :=
  match s.hslot i with
  | none => s
  | some h =>
    if !h.state.live then s
    else if h.state = .cancelling then s.cancelDue i h
    else
      match (if h.late then none else h.ending) with
      | some (g, st, d) => if reached g f then s.faultDue i h st.toNat d.toNat else s
      | none =>
        match h.resumeAt with
        | some g =>
          if !(reached g f) then s
          else if h.state = .suspended then s.resumeDue i h f
          else
            let s := (s.startAgain i).modHslot i fun v => { v with resumeAt := none }
            if h.state = .suspending then s.askSuspend i else s
        | none => if h.state = .suspending && s.suspendReady i h then s.suspendDue i h f else s

/-! ### Events, R59 and R72 -/

/-- Place of an event in the order of one furrow. -/
def FEvent.key (e : FEvent) : Nat × Nat × Nat :=
  match e.kind with
  | .phase p _ => (e.row, 0, p)
  | .cmd q seq => (e.row, q + 1, seq)

/-- `a` takes place before `b`, `from_` being the furrow that began the boundary. -/
def FEvent.before (from_ : Nat) (a b : FEvent) : Bool :=
  let x := (aheadOf a.furrow from_ + 2 ^ 47) % 2 ^ 48
  let y := (aheadOf b.furrow from_ + 2 ^ 47) % 2 ^ 48
  x < y || (x == y && (a.key.1 < b.key.1 || (a.key.1 == b.key.1
    && (a.key.2.1 < b.key.2.1 || (a.key.2.1 == b.key.2.1 && a.key.2.2 < b.key.2.2)))))

def eventInsert (from_ : Nat) (x : FEvent) : List FEvent → List FEvent
  | [] => [x]
  | y :: ys => if x.before from_ y then x :: y :: ys else y :: eventInsert from_ x ys

/-- The event waits for the next furrow. -/
def State.eventAgain (s : State) (e : FEvent) : State := { s with sched := s.sched ++ [{ e with furrow := s.nextFurrow }] }

/-- A command's event: its checks are made again, as of now (notes/assumptions 42), and it takes place. -/
def State.fireCmd (s : State) (e : FEvent) (q seq : Nat) : State :=
  match (s.queue q).entry? seq with
  | none => s
  | some x =>
    let c := s.cmdOf q x
    match (s.baseChk q x.pkt).andThen fun _ => (c.paramChk).andThen fun _ => cmdChk s c with
    | .bad st d => c.done s st d
    | .need _ _ => c.done s 0x0306 0
    | .hold => s.eventAgain e
    | .ok =>
      if c.op = 0x0502 && s.collHolds c then s.eventAgain e
      else
        let s := s.modQueue q fun v => v.modEntry seq fun e => { e with stage := .started }
        if c.op = 0x0202 then s.partResetAct c else cmdEff s c

/-- One event takes place; one whose furrow a step skipped is recorded so (R59). -/
def State.fire (s : State) (e : FEvent) : State :=
  let stepped := e.furrow != s.furrow
  let s := { s with sched := s.sched.erase e }
  let s := { s with fired := s.fired ++ [{ furrow := e.furrow, row := e.row, kind := e.kind, stepped := stepped, quality := s.quality }] }
  let s := if stepped then s.detEvent 4 none 0 else s
  match e.kind with
  | .phase p ph =>
    if !(s.partExists p) then s
    else if s.stepOpen p then s.eventAgain e
    else s.setFld (aPwrPart p) 35 32 ph
  | .cmd q seq => s.fireCmd e q seq

/-- The events of the boundary that a predicate names, in their order. -/
def State.fireAll (s : State) (from_ : Nat) (es : List FEvent) (p : FEvent → Bool) : State :=
  ((es.filter p).foldl (fun l x => eventInsert from_ x l) []).foldl State.fire s

/-! ### What follows the events -/

/-- DEBUG_HALT commands whose furrow has come (R115). -/
def State.debugDue (s : State) : State :=
  (s.ctl.filter fun c => c.kind == .debugHalt && (c.furrow.map fun g => reached g s.furrow).getD false).foldl State.debugAct s

/-- A gated tile that waits for a furrow which has come will be late (R139). -/
def State.lateWaits (s : State) : State :=
  (s.tiles.filter fun e => e.2.gated && !e.2.debug).foldl
    (fun s e =>
      match e.2.fwait with
      | .hold target false => if target ≤ s.progFurrow e.2 then s.modTile e.1 fun t => { t with fwait := .hold target true } else s
      | _ => s) s

/-- The Balers of every partition. -/
def State.balersFurrow (s : State) : State :=
  ((below 16).filter fun p => s.flag (aBayBalerCfg p) 63 && s.partExists p).foldl
    (fun s p => (s.partTiles p).foldl (fun s k => s.balerFurrow k p) s) s

/-- All that the package does at the start of a furrow, the counter standing there; `from_` is the furrow that was due. -/
def State.furrowWork (s : State) (from_ : Nat) : State :=
  let f := s.furrow
  let s := s.applyOrder
  let s := (s.opsInOrder.map fun e => e.1).foldl (State.opFurrow f) s
  let es := s.sched.filter fun e => reached e.furrow f
  let s := s.fireAll from_ es fun e => e.furrow != f
  let s := s.fireAll from_ es fun e => e.furrow == f && e.row ≤ 4
  let cs := s.colls.map fun e => e.1
  let s := cs.foldl (fun s c => s.barrierFurrow c f) s
  let s := cs.foldl (fun s c => s.collFurrow c f) s
  let s := s.fireAll from_ es fun e => e.furrow == f && 5 ≤ e.row
  (s.debugDue.commitsBegin.floorStep.gateFurrow.lateWaits.balersFurrow).settle

/-- FURROW_BOUNDARY: the next furrow begins. -/
def execFurrowBoundary (s : State) : Res :=
  if !s.boot.alive then .next s
  else
    let from_ := s.nextFurrow
    let s := s.toBoundary
    if s.up then .next (s.furrowWork from_) else .next s

end Sys2Proof.Machine
end

