-- ==== Sys2Proof/Machine/RegRows.lean ====
section
/-! DEFINITION. Commands that write or read a register (R11, R34 to R36, R66, R94, R367, R509, R532, R543): from the host through BAR0,
from the board through I3C, from a user core. -/

namespace Sys2Proof.Machine

/-- All 64 bits of a register. -/
def allBits : Nat := 2 ^ 64 - 1

/-- A register write that the package takes: the host is served once boot is done; without valid firmware it discards every write
(R512, R517). -/
def State.hostReg (s : State) (o v : Nat) : State := if s.up then s.regWrite o v allBits else s

/-- REGISTER_WRITE: by the host, whose bad size or alignment is a Completer Abort; by I3C, to DEV_PKG_ADDR only; by a user core; never by
the Shuttle, whose cells have 64 bytes (R34, R532). -/
def execRegisterWrite (who : Requester) (off size : Nat) (val : W64) (s : State) : Res :=
  match who with
  | .host =>
    if !s.up then .next (s.emit .notServed)
    else if !(ctlAligned off size) then .next (s.emit .abort)
    else .next (s.ctlWrite off size (val.toNat % 2 ^ (8 * size)))
  | .i3c => if s.pins.pwrok && off = aDevPkgAddr && size = 8 then .next (s.regWrite off val.toNat allBits) else .next s
  | .core c =>
    if !s.up || 96 ≤ c then .next s
    else if !(ctlAligned off size) then .next (s.coreUnpop c)
    else .next (s.ctlWrite off size (val.toNat % 2 ^ (8 * size)))
  | .shuttle => .next s

/-- PKG_ADDR_WRITE. -/
def execPkgAddrWrite (val : W64) (s : State) : Res := .next (s.hostReg aDevPkgAddr val.toNat)

/-- GLOBAL_DET_WRITE. -/
def execGlobalDetWrite (val : W64) (s : State) : Res := .next (s.hostReg aDevMode val.toNat)

/-- FURROW_CFG_WRITE. -/
def execFurrowCfgWrite (val : W64) (s : State) : Res := .next (s.hostReg aTimeFurrowCfg val.toNat)

/-- FURROW_EPOCH_WRITE. -/
def execFurrowEpochWrite (val : W64) (s : State) : Res := .next (s.hostReg aTimeFurrowEpoch val.toNat)

/-- QUEUE_ENABLE. -/
def execQueueEnable (q : Nat) (val : W64) (s : State) : Res :=
  if q < 64 then .next (s.hostReg (aIntkQCfg q) val.toNat) else .next s

/-- CQ_HEAD_WRITE: held records follow while there is room. -/
def execCqHeadWrite (q : Nat) (val : W64) (s : State) : Res :=
  if q < 64 then .next (s.hostReg (aIntkQCqHead q) val.toNat) else .next s

/-- INVALIDATE_ALL: CACHE_CTL action 1. -/
def execInvalidateAll (level : Nat) (s : State) : Res :=
  if level < 8 then .next (s.hostReg aCacheCtl (8 + level)) else .next s

/-- CLEAN_AND_INVALIDATE_ALL: CACHE_CTL action 2. -/
def execCleanAndInvalidateAll (level : Nat) (s : State) : Res :=
  if level < 8 then .next (s.hostReg aCacheCtl (16 + level)) else .next s

/-- CACHE_MODE_WRITE. -/
def execCacheModeWrite (val : W64) (s : State) : Res := .next (s.hostReg aCacheMode val.toNat)

/-- BOOT_RESET_WARM: BOOT_RESET action 1. -/
def execBootResetWarm (s : State) : Res := .next (s.hostReg aBootReset 1)

/-- BOOT_RESET_COLD: BOOT_RESET action 2. -/
def execBootResetCold (s : State) : Res := .next (s.hostReg aBootReset 2)

/-- LINK_RESET: FAB_LINK_CFG enable written 0, then 1. -/
def execLinkReset (n : Nat) (s : State) : Res :=
  if n < 64 then
    let v := s.rd (aFabLinkCfg n)
    .next ((s.hostReg (aFabLinkCfg n) (setBits v 63 63 0)).hostReg (aFabLinkCfg n) (setBits v 63 63 1))
  else .next s

/-! ### The I3C port, R532 -/

/-- Offsets that an I3C read may name: the DEV_ and PWR_ regions, BOOT_STATUS and RAS_STATUS. -/
def i3cReads (off : Nat) : Bool :=
  off < 0x100000 || (0x1000000 ≤ off && off < 0x1100000) || off == aBootStatus || off == aRasStatus

/-- I3C_READ: in service also during boot and after a package trip. -/
def execI3cRead (off : Nat) (s : State) : Res :=
  if !s.pins.pwrok then .next (s.emit .notServed)
  else if i3cReads off && off % 8 = 0 then .next (s.emit (.reg (BitVec.ofNat 64 (s.regRead off))))
  else .next ((s.emit (.reg 0)).emit .nackI3c)

/-- I3C_WRITE: DEV_PKG_ADDR is the only register that it can write. -/
def execI3cWrite (off : Nat) (val : W64) (s : State) : Res :=
  if s.pins.pwrok && off = aDevPkgAddr then .next (s.regWrite off val.toNat allBits) else .next s

/-- DYNAMIC_ADDRESS_ASSIGNMENT. -/
def execDynamicAddressAssignment (addr : BitVec 7) (s : State) : Res := .next { s with i3cAddr := addr }

end Sys2Proof.Machine
end

