-- ==== Sys2Proof/Machine/TileVec.lean ====
section
/-! DEFINITION. The vector engine of a tile (R221 to R244, R192, R214 to R217): element arithmetic, compares and masks, reductions, converts
with group quantisation and stochastic rounding, the combiner's split and finish, moves, and the vector mode. -/

namespace Sys2Proof.Machine

/-! ### The mode, R224 -/

def Vec.mbits (v : Vec) (hi lo : Nat) : Nat := bits v.mode.toNat hi lo
def Vec.qd (v : Vec) : Nat := v.mbits 26 25
def Vec.qb (v : Vec) : Nat := v.mbits 24 23
def Vec.qa (v : Vec) : Nat := v.mbits 22 21
def Vec.scaleE4 (v : Vec) : Bool := v.mbits 20 20 == 1
def Vec.group (v : Vec) : Nat := v.mbits 19 17
def Vec.part (v : Vec) : Nat := v.mbits 16 14
def Vec.rowPeriod (v : Vec) : Nat := v.mbits 13 11
def Vec.mz (v : Vec) : Bool := v.mbits 10 10 == 1
def Vec.maskEn (v : Vec) : Bool := v.mbits 9 9 == 1
def Vec.mk_ (v : Vec) : Nat := v.mbits 8 6
def Vec.rmode (v : Vec) : Nat := v.mbits 5 3
def Vec.type (v : Vec) : Nat := v.mbits 2 0

/-- Width of the mode's type. -/
def Vec.width (v : Vec) : Nat := if v.type = 1 ∨ v.type = 4 ∨ v.type = 5 then 64 else 32

/-- The float format of the type, none for an integer type. -/
def Vec.fmt (v : Vec) : Option Fmt :=
  match v.type with
  | 0 => some fp32
  | 1 => some fp64
  | _ => none

/-- A signed integer type. -/
def Vec.signed (v : Vec) : Bool := v.type == 2 || v.type == 4

/-- A Q64 block exponent, signed 12 bits (R187). -/
def Vec.qexp (v : Vec) (i : Nat) : Int := (sget 0 v.qe i).toInt

/-- A mode value within the ranges of VEC_MODE. -/
def modeOk (x : Nat) : Bool := x < 2 ^ 27 && bits x 19 17 ≤ 3 && bits x 13 11 ≤ 5 && bits x 5 3 ≤ 5 && bits x 2 0 ≤ 5

/-! ### Elements and masks, R221, R222, R229 -/

/-- Element `i` of width `w` of tile register `r`, row-major. -/
def Tile.vel (t : Tile) (r w i : Nat) : Nat := mval t.treg (4096 * r + i * w / 8) (w / 8)

def Tile.vput (t : Tile) (r w i v : Nat) : Tile := { t with treg := mstore t.treg (4096 * r + i * w / 8) (w / 8) v }

def Tile.vflag (t : Tile) (g : Nat) : Tile := { t with vec := { t.vec with flags := orFlags t.vec.flags g } }

/-- Columns and elements of a register. -/
def vcols (w : Nat) : Nat := 1024 / w
def vcount (w : Nat) : Nat := 32 * vcols w

/-- The mask bit of element `i`. -/
def maskPos (w i : Nat) : Nat := i / vcols w * 32 + i % vcols w

/-- Mask register mk enables a bit position, or no mask is applied. -/
def Tile.vOn (t : Tile) (pos : Nat) : Bool := !t.vec.maskEn || bit (sget 0 t.mreg t.vec.mk_).toNat pos

/-- Bits (r, 0) to (r, 15) of every row. -/
def lowHalves : Nat := ((below 32).map fun r => 65535 * 2 ^ (32 * r)).sum

/-- Write a mask register: under a 64-bit type bits (r, 16) to (r, 31) become 0. -/
def Tile.putMask (t : Tile) (m v : Nat) : Tile :=
  { t with mreg := sput 0 t.mreg m (BitVec.ofNat 1024 (if t.vec.width = 64 then v &&& lowHalves else v)) }

/-- Write every element of vd: the enabled ones as `f` answers from the state before the instruction, none when it traps; a disabled one
keeps its bits, or is zero under mz. -/
def Tile.vmap (t : Tile) (vd w : Nat) (f : Nat → Option IRes) : Option Tile :=
  (below (vcount w)).foldl
    (fun (acc : Option Tile) i =>
      match acc with
      | none => none
      | some r =>
        if t.vOn (maskPos w i) then
          match f i with
          | none => none
          | some x => some ((r.vput vd w i x.1).vflag x.2)
        else if t.vec.mz then some (r.vput vd w i 0)
        else acc) (some t)

/-- The second source of element `i`, R228. -/
def Tile.src2 (t : Tile) (w bsrc vb x i : Nat) : Nat :=
  let c := vcols w
  match bsrc with
  | 0 => t.vel vb w i
  | 1 => t.vel vb w (i / c % 2 ^ t.vec.rowPeriod * c + i % c)
  | 2 => t.vel vb w (i / c * c)
  | _ => x % 2 ^ w

/-! ### Starting a V instruction -/

/-- The head of the V queue starts, if it is of the class asked for, and takes effect. -/
def State.vStart (s : State) (k : Nat) (is : W32 → Bool) (f : State → QEnt → Effect) : State :=
  match s.engHead k .v with
  | none => s
  | some h =>
    if !(is h.word) then s
    else
      match f (s.engStart k .v h) h with
      | .error cause => s.engFault k .v h cause
      | .ok s => s

/-- The opcode of a V slot. -/
def vIs (op : Nat) (w : W32) : Bool := slotOp w == op

/-- An effect on the tile alone: outer error for a fault. -/
def tileEff (k : Nat) (f : Tile → QEnt → Except Nat Tile) (s : State) (h : QEnt) : Effect :=
  match f (s.tile k) h with
  | .error c => .error c
  | .ok t => .ok (s.setTile k t)

/-! ### Float arithmetic, R226 and R227 -/

/-- A float function, rounding RNE. -/
def vFloatOp (f : Fmt) (fn a b d : Nat) : FRes :=
  match fn with
  | 0 => fadd f 0 a b
  | 1 => fsub f 0 a b
  | 2 => fmul f 0 a b
  | 3 => ffma f 0 false a b d
  | 4 => ffma f 0 true a b d
  | 5 => fdiv f 0 a b
  | 6 => fmaxmin f true a b
  | 7 => fmaxmin f false a b
  | 8 => fsqrt f 0 a
  | 9 => fabs f a
  | 10 => fneg f a
  | 11 => let r := fadd f 0 a b; ((fmaxmin f true r.1 0).1, r.2)
  | 12 => fdiv f 0 (f.bias * 2 ^ f.mbits) a
  | _ => (b, 0)

def effFloat (t : Tile) (h : QEnt) : Except Nat Tile :=
  let o := slotLow h.word
  match t.vec.fmt with
  | none => .error 1
  | some f =>
    let w := f.width
    let vd := bits o 18 15
    match t.vmap vd w fun i =>
        some (vFloatOp f (bits o 4 0) (t.vel (bits o 14 11) w i) (t.src2 w (bits o 6 5) (bits o 10 7) h.x.toNat i) (t.vel vd w i)) with
    | some t => .ok t
    | none => .error 8

/-- FLOAT_ARITHMETIC. -/
def execFloatArithmetic (t : Nat) (s : State) : Res := .next (s.vStart t (vIs 1) (tileEff t effFloat))

/-! ### Integer arithmetic -/

/-- An integer function; none when a checked one traps (R201). -/
def vIntFn (w : Nat) (sg : Bool) (fn a b : Nat) : Option IRes :=
  match fn with
  | 0 => some (iAdd w sg a b)
  | 1 => some (iSub w sg a b)
  | 2 => some (iMulLow w sg a b)
  | 3 => some (iMulHigh w sg a b)
  | 4 => some (iDiv w sg a b)
  | 5 => some (iRem w sg a b)
  | 6 => some (iSatAdd w sg a b)
  | 7 => some (iSatSub w sg a b)
  | 8 => some (iNeg w sg a)
  | 9 => some (iAbs w sg a)
  | 10 => if sg then checked (iNeg w sg a) else some (iNeg w sg a)
  | 11 => if sg then checked (iAbs w sg a) else some (iAbs w sg a)
  | 12 => checked (iDiv w sg a b)
  | 13 => some (iAnd a b)
  | 14 => some (iOr a b)
  | 15 => some (iXor a b)
  | 16 => some (iShl w a b)
  | 17 => some (iShr w a b)
  | 18 => some (iSar w a b)
  | 19 => some (iRol w a b)
  | 20 => some (iMax w sg a b)
  | 21 => some (iMin w sg a b)
  | _ => some (b, 0)

def effInt (t : Tile) (h : QEnt) : Except Nat Tile :=
  let o := slotLow h.word
  if t.vec.fmt.isSome then .error 1
  else
    let w := t.vec.width
    match t.vmap (bits o 18 15) w fun i =>
        vIntFn w t.vec.signed (bits o 4 0) (t.vel (bits o 14 11) w i) (t.src2 w (bits o 6 5) (bits o 10 7) h.x.toNat i) with
    | some t => .ok t
    | none => .error 8

/-- INTEGER_ARITHMETIC. -/
def execIntegerArithmetic (t : Nat) (s : State) : Res := .next (s.vStart t (vIs 2) (tileEff t effInt))

/-! ### Compare and mask logic -/

/-- A compare of the mode's type: whether the condition holds, and its flag. -/
def Vec.cmp (v : Vec) (c a b : Nat) : Bool × Nat :=
  match v.fmt with
  | some f => fcompare f c a b
  | none => (fcond c (some (compare (ival v.width v.signed a) (ival v.width v.signed b))), 0)

def effCompare (t : Tile) (h : QEnt) : Except Nat Tile :=
  let o := slotLow h.word
  let c := bits o 5 3
  let w := t.vec.width
  let md := bits o 18 16
  if t.vec.fmt.isNone && c == 6 then .error 1
  else
    let r := (below (vcount w)).foldl
      (fun (r : Nat × Nat) i =>
        let pos := maskPos w i
        if t.vOn pos then
          let x := t.vec.cmp c (t.vel (bits o 15 12) w i) (t.src2 w (bits o 7 6) (bits o 11 8) h.x.toNat i)
          (setBits r.1 pos pos (b2n x.1), r.2 ||| x.2)
        else if t.vec.mz then (setBits r.1 pos pos 0, r.2)
        else r) ((sget 0 t.mreg md).toNat, 0)
    .ok ((t.putMask md r.1).vflag r.2)

/-- V_COMPARE. -/
def execVCompare (t : Nat) (s : State) : Res := .next (s.vStart t (vIs 3) (tileEff t effCompare))

/-- A mask-logic function. -/
def maskFn (fn a b x : Nat) : Nat :=
  match fn with
  | 0 => a &&& b
  | 1 => a ||| b
  | 2 => a ^^^ b
  | 3 => a - (a &&& b)
  | 4 => 2 ^ 1024 - 1 - a
  | 5 => ((below 32).map fun r => x % 2 ^ 32 * 2 ^ (32 * r)).sum
  | _ => 2 ^ min x 1024 - 1

def effMask (t : Tile) (h : QEnt) : Except Nat Tile :=
  let o := slotLow h.word
  let m := fun (i : Nat) => (sget 0 t.mreg i).toNat
  .ok (t.putMask (bits o 18 16) (maskFn (bits o 9 7) (m (bits o 15 13)) (m (bits o 12 10)) h.x.toNat))

/-- MASK_LOGIC. -/
def execMaskLogic (t : Nat) (s : State) : Res := .next (s.vStart t (vIs 4) (tileEff t effMask))

/-! ### Reductions, R231 to R233 -/

/-- The function of a reduce on two elements. -/
def Vec.redOp (v : Vec) (fn a b : Nat) : IRes :=
  match v.fmt with
  | some f =>
    match fn with
    | 0 => fadd f 0 a b
    | 1 => fmaxmin f true a b
    | _ => fmaxmin f false a b
  | none =>
    match fn with
    | 0 => iAdd v.width v.signed a b
    | 1 => iMax v.width v.signed a b
    | 2 => iMin v.width v.signed a b
    | 3 => iAnd a b
    | 4 => iOr a b
    | _ => iXor a b

/-- The identity of a reduce. -/
def Vec.redId (v : Vec) (fn : Nat) : Nat :=
  match v.fmt with
  | some f =>
    match fn with
    | 0 => f.signBit true
    | 1 => f.infPat true
    | _ => f.infPat false
  | none =>
    match fn with
    | 1 => wrapInt v.width (imin v.width v.signed)
    | 2 => wrapInt v.width (imax v.width v.signed)
    | 3 => 2 ^ v.width - 1
    | _ => 0

/-- One stage of the tree: each element c whose bit s is 0 takes in element c + 2^s. -/
def redStage (op : Nat → Nat → IRes) (st : Nat) (r : List Nat × Nat) : List Nat × Nat :=
  let v := fun (i : Nat) => (nth r.1 i).getD 0
  let out := (below r.1.length).map fun c => if bit c st then (v c, 0) else op (v c) (v (c + 2 ^ st))
  (out.map fun x => x.1, out.foldl (fun g x => g ||| x.2) r.2)

/-- Combine a line of elements: a tree along a row, ascending order along a column. -/
def redLine (op : Nat → Nat → IRes) (axis : Nat) (xs : List Nat) : IRes :=
  if axis = 0 then
    let r := (below xs.length.log2).foldl (fun r st => redStage op st r) (xs, 0)
    (r.1.headD 0, r.2)
  else
    match xs with
    | [] => (0, 0)
    | x :: more => more.foldl (fun r y => let z := op r.1 y; (z.1, r.2 ||| z.2)) (x, 0)

/-- Elements of line `j`. -/
def redIdx (w axis j : Nat) : List Nat :=
  let c := vcols w
  if axis = 0 then (below c).map fun i => j * c + i else (below 32).map fun r => r * c + j

/-- EXPMAX of a line: the exponent, and its flag. -/
def expMax (f : Fmt) (xs : List Nat) : Int × Nat :=
  let vs := xs.map (fdecode f)
  if vs.any fun v => match v with
      | .fin _ _ _ => false
      | _ => true
  then (1024, fNV)
  else
    (vs.foldl (fun m v => match v with
      | .fin _ (n + 1) e => max m (qlog2 (n + 1) 1 + e)
      | _ => m) (-1075), 0)

def effReduce (t : Tile) (h : QEnt) : Except Nat Tile :=
  let o := slotLow h.word
  let vd := bits o 18 15
  let va := bits o 14 11
  let axis := bits o 10 10
  let fn := bits o 9 7
  let acc := bit o 6
  let w := t.vec.width
  let lines := below (if axis = 0 then 32 else vcols w)
  match t.vec.fmt with
  | some f =>
    if fn = 6 then
      .ok (lines.foldl
        (fun r j =>
          let x := expMax f (((redIdx w axis j).filter fun i => t.vOn (maskPos w i)).map fun i => t.vel va w i)
          let pos := 32 * j + axis
          let v := if acc then max x.1 (sint 32 (t.vel vd 32 pos)) else x.1
          (r.vput vd 32 pos (wrapInt 32 v)).vflag x.2) t)
    else if 3 ≤ fn then .error 1
    else .ok (reduceLines t lines w axis fn vd va acc)
  | none => if fn = 6 then .error 1 else .ok (reduceLines t lines w axis fn vd va acc)
where
  reduceLines (t : Tile) (lines : List Nat) (w axis fn vd va : Nat) (acc : Bool) : Tile :=
    lines.foldl
      (fun r j =>
        let xs := (redIdx w axis j).map fun i => if t.vOn (maskPos w i) then t.vel va w i else t.vec.redId fn
        let x := redLine (t.vec.redOp fn) axis xs
        let pos := if axis = 0 then j * vcols w else j
        let y := if acc then let z := t.vec.redOp fn x.1 (t.vel vd w pos); (z.1, x.2 ||| z.2) else x
        (r.vput vd w pos y.1).vflag y.2) t

/-- REDUCE. -/
def execReduce (t : Nat) (s : State) : Res := .next (s.vStart t (vIs 5) (tileEff t effReduce))

/-! ### Stochastic rounding, R192: Philox-4x32 with 10 rounds -/

/-- The random word of source element `i`: seed, die * 256 + logical index, counter. -/
def randomWord (seed dieTile counter i : Nat) : Nat :=
  let c := philox (i / 4 + dieTile * 2 ^ 32 + counter % 2 ^ 64 * 2 ^ 64) seed
  match i % 4 with
  | 0 => c.1
  | 1 => c.2.1
  | 2 => c.2.2.1
  | _ => c.2.2.2

/-! ### Converts, R193, R234 to R236 -/

/-- The formats of a convert. -/
inductive CvtFmt where
  | flt (f : Fmt)
  | int (w : Nat) (sg : Bool)
  | q64
  deriving DecidableEq, Repr

def cvtFmt (code : Nat) : CvtFmt :=
  match code with
  | 0x00 => .flt fp32
  | 0x01 => .flt fp64
  | 0x02 => .flt fp16
  | 0x03 => .flt bf16
  | 0x04 => .flt e5m2
  | 0x05 => .flt e4m3
  | 0x06 => .flt e3m2
  | 0x07 => .flt e2m3
  | 0x08 => .flt e2m1
  | 0x09 => .int 4 true
  | 0x0A => .int 8 true
  | 0x0B => .int 8 false
  | 0x0C => .int 16 true
  | 0x0D => .int 16 false
  | 0x0E => .int 32 true
  | 0x0F => .int 32 false
  | 0x10 => .int 64 true
  | 0x11 => .int 64 false
  | _ => .q64

def CvtFmt.width : CvtFmt → Nat
  | .flt f => f.width
  | .int w _ => w
  | .q64 => 64

/-- Convert one element: rounding code, wrap, random word, source and destination block exponents. -/
def convElem (sf df : CvtFmt) (mode : Nat) (wrap : Bool) (u : Nat) (qs qd : Int) (x : Nat) : IRes :=
  match sf, df with
  | .flt f, .flt g => convFF g mode u (fdecode f x)
  | .flt f, .int w sg => convFI w sg mode u (fdecode f x)
  | .flt f, .q64 => convFQ wrap mode u qd (fdecode f x)
  | .int w sg, .flt g => convIF g mode u (ival w sg x)
  | .int w sg, .int w' sg' => if wrap then wrapKeep w' sg' (ival w sg x) else satInt w' sg' (ival w sg x)
  | .int w sg, .q64 => let v := ival w sg x; convQI 64 true wrap mode u (v < 0) v.natAbs 1 (63 - qd)
  | .q64, .flt g => convQF g mode u qs (sint 64 x)
  | .q64, .int w sg => let v := sint 64 x; convQI w sg wrap mode u (v < 0) v.natAbs 1 (qs - 63)
  | .q64, .q64 => let v := sint 64 x; convQI 64 true wrap mode u (v < 0) v.natAbs 1 (qs - qd)

/-- Element `i` of a packed run of width `w` in a register (R183). -/
def Tile.pel (t : Tile) (r w i : Nat) : Nat :=
  let b := w * i
  bits (mval t.treg (4096 * r + b / 8) 9) (b % 8 + w - 1) (b % 8)

def Tile.ppel (t : Tile) (r w i v : Nat) : Tile :=
  let b := w * i
  let a := 4096 * r + b / 8
  let n := (b % 8 + w + 7) / 8
  { t with treg := mstore t.treg a n (setBits (mval t.treg a n) (b % 8 + w - 1) (b % 8) v) }

/-- The position of source element `i` for the mask and for R192. -/
def srcPos (w i : Nat) : Nat := if w = 64 then maskPos 64 i else i

/-- A convert of `n` elements from position `ss` of va to position `ds` of vd: `on` says which are enabled, `f` converts. -/
def Tile.convSpan (t : Tile) (vd va ws wd n ss ds : Nat) (on : Nat → Bool) (f : Nat → Nat → IRes) : Tile :=
  (below n).foldl
    (fun r j =>
      let pos := srcPos ws (ss + j)
      if on pos then
        let x := f pos (t.pel va ws (ss + j))
        (r.ppel vd wd (ds + j) x.1).vflag x.2
      else if t.vec.mz then r.ppel vd wd (ds + j) 0
      else r) t

/-! ### Group quantisation, R214, R215 and R237 -/

/-- Mx of a destination, as n / d. -/
def groupMax (code : Nat) : Nat × Nat :=
  match code with
  | 0x05 => (448, 1)
  | 0x04 => (57344, 1)
  | 0x06 => (28, 1)
  | 0x07 => (15, 2)
  | 0x08 => (6, 1)
  | _ => (127, 64)

/-- Destinations of a group quantisation. -/
def groupDst (code : Nat) : Bool := (4 ≤ code && code ≤ 8) || code == 0x0A

/-- A scale as exact value n * 2^e, and its code. -/
structure GScale where
  n : Nat
  e : Int
  code : Nat
  deriving DecidableEq, Repr

/-- The scale for a finite amax = m * 2^e. -/
def groupScale (isE4 : Bool) (dst m : Nat) (e : Int) : GScale :=
  if m = 0 then { n := 1, e := 0, code := if isE4 then 0x38 else 0x7F }
  else
    let (mn, md) := groupMax dst
    if isE4 then
      let c := (roundQ e4m3 3 0 false (m * md) mn e).1
      match fdecode e4m3 c with
      | .fin _ n e => { n := n, e := e, code := c }
      | _ => { n := 1, e := 0, code := c }
    else
      let l := qlog2 (m * md) mn
      let (a, b) := scaleQ (m * md) mn (-l)
      let x := max (-127) (min 127 ((if a = b then l else l + 1) + e))
      { n := 1, e := x, code := (x + 127).toNat }

/-- One element over its scale, rounded into the destination (R215). -/
def groupElem (dst mode u : Nat) (neg : Bool) (m : Nat) (e : Int) (g : GScale) : IRes :=
  match cvtFmt dst with
  | .flt f =>
    let r := roundQ f mode u neg m g.n (e - g.e)
    if r.2 &&& fOF ≠ 0 then (f.maxPat + f.signBit neg, fOF ||| fNX) else r
  | _ =>
    let (k, inex) := toIntQ mode u neg m g.n (e - g.e + 6)
    if 127 < k then (127, fSAT) else if k < -127 then (wrapInt 8 (-127), fSAT) else (wrapInt 8 k, if inex then fNX else 0)

/-- The larger of two magnitudes m * 2^e. -/
def magMax (a b : Nat × Int) : Nat × Int :=
  let e := min a.2 b.2
  if a.1 <<< (a.2 - e).toNat < b.1 <<< (b.2 - e).toNat then b else a

/-- Quantise group `g` of `len` FP32 elements of va. -/
def Tile.quantGroup (t0 t : Tile) (vd va dst len g ds scaleAt : Nat) (u : Nat → Nat) : Tile :=
  let wd := (cvtFmt dst).width
  let idx := upFrom (g * len) len
  let on := idx.filter fun i => t0.vOn i
  let val := fun (i : Nat) => fdecode fp32 (t0.pel va 32 i)
  let bad := on.any fun i => match val i with
    | .fin _ _ _ => false
    | _ => true
  let amax := (on.map fun i => match val i with
    | .fin _ m e => (m, e)
    | _ => (0, 0)).foldl magMax (0, 0)
  let sc := if bad then { n := 1, e := 0, code := if t0.vec.scaleE4 then 0x7F else 0xFF }
    else groupScale t0.vec.scaleE4 dst amax.1 amax.2
  let t := idx.foldl
    (fun r i =>
      if t0.vOn i then
        match val i with
        | .fin neg m e =>
          if bad then r.ppel vd wd (ds + i) 0
          else
            let x := groupElem dst t0.vec.rmode (u i) neg m e sc
            (r.ppel vd wd (ds + i) x.1).vflag x.2
        | _ => r.ppel vd wd (ds + i) 0
      else if t0.vec.mz then r.ppel vd wd (ds + i) 0
      else r) t
  let t := if bad then t.vflag fNV else t
  if on.isEmpty then t else { t with treg := mput t.treg (4096 * (vd + 1) + scaleAt + g) (BitVec.ofNat 8 sc.code) }

/-! ### V_CONVERT -/

/-- The random words of an instruction: each started SR convert uses a counter of its own (notes/assumptions 47). -/
def State.srWord (s : State) (k : Nat) : Nat → Nat :=
  let t := s.tile k
  let ahead := (t.ev.filter fun e => e.sr).length
  randomWord t.vec.seed.toNat (k / 156 * 256 + (s.logical? k).getD 0) (t.vec.sr.toNat + ahead)

/-- Mark the instruction that has just started as an SR convert. -/
def Tile.markSr (t : Tile) : Tile :=
  if t.vec.rmode = 4 then
    match t.ev.reverse with
    | h :: more => { t with ev := (({ h with sr := true } : QEnt) :: more).reverse }
    | [] => t
  else t

def effConvert (k : Nat) (s : State) (h : QEnt) : Effect :=
  let o := slotLow h.word
  let vd := bits o 18 15
  let va := bits o 14 11
  let sc := bits o 10 6
  let dc := bits o 5 1
  let t := s.tile k
  let sf := cvtFmt sc
  let df := cvtFmt dc
  let ws := sf.width
  let wd := df.width
  let n := 32768 / max (max ws wd) 32
  let part := t.vec.part
  let ss := if ws < wd then part * n else 0
  let ds := if wd < ws then part * n else 0
  let len := 32 * 2 ^ (t.vec.group - 1)
  if (ws = wd && part ≠ 0) || 32768 < (ss + n) * ws || 32768 < (ds + n) * wd then .error 1
  else if t.vec.group ≠ 0 then
    if sc ≠ 0 || !(groupDst dc) || vd = 15 then .error 1
    else
      let u := s.srWord k
      let r := (below (n / len)).foldl (fun r g => t.quantGroup r vd va dc len g ds (part * n / len) u) t
      .ok (s.setTile k r.markSr)
  else
    let u := s.srWord k
    let fv := s.free1
    let on := fun pos => if pos < 1024 then t.vOn pos else !t.vec.maskEn || bit fv (pos - 1024)
    let r := t.convSpan vd va ws wd n ss ds on fun pos x =>
      convElem sf df t.vec.rmode (bit o 0) (if t.vec.rmode = 4 then u pos else 0) (t.vec.qexp t.vec.qa) (t.vec.qexp t.vec.qd) x
    .ok ((s.setTile k r.markSr).freed)

/-- V_CONVERT. A mask has no bit for the packed elements from 1,024 up: whether they are enabled is a free value (notes/assumptions 48). -/
def execVConvert (t : Nat) (s : State) : Res := .next (s.vStart t (vIs 6) (effConvert t))

/-! ### The combiner, R240 to R242 -/

/-- Exponents of R239: (r, 0) and (c, 1) of an exponent register. -/
def Tile.expRow (t : Tile) (vx r : Nat) : Int := sint 32 (t.vel vx 32 (32 * r))
def Tile.expCol (t : Tile) (vx c : Nat) : Int := sint 32 (t.vel vx 32 (32 * c + 1))

/-- An FP64 element aligned to exponent E: 56 bits, and flags. -/
def splitElem (x : FVal) (e : Int) : Int × Nat :=
  match x with
  | .fin neg m q =>
    let (k, inex) := toIntQ 0 0 neg m 1 (q + 54 - e)
    if 2 ^ 55 ≤ k then (2 ^ 55 - 1, fSAT)
    else if k ≤ -2 ^ 55 then (-(2 ^ 55 - 1), fSAT)
    else (k, if inex then fNX else 0)
  | _ => (0, fNV)

def effSplit (t : Tile) (h : QEnt) : Except Nat Tile :=
  let o := slotLow h.word
  let vd := bits o 18 15
  let vx := bits o 10 7
  .ok ((below 512).foldl
    (fun r i =>
      let put := fun (r : Tile) (v : Nat) => (below 7).foldl (fun r p => r.vput vd 8 (512 * p + i) (v / 256 ^ p % 256)) r
      if t.vOn (maskPos 64 i) then
        let e := if bit o 5 then t.expCol vx (i % 16) else t.expRow vx (i / 16)
        let x := splitElem (fdecode fp64 (t.vel (bits o 14 11) 64 i)) e
        (put r (wrapInt 56 x.1)).vflag x.2
      else if t.vec.mz then put r 0
      else r) t)

/-- Combine with sub 1. -/
def vIsSplit (w : W32) : Bool := slotOp w == 7 && bit (slotLow w) 6

/-- SPLIT. -/
def execSplit (t : Nat) (s : State) : Res := .next (s.vStart t vIsSplit (tileEff t effSplit))

def effFinish (t : Tile) (h : QEnt) : Except Nat Tile :=
  let o := slotLow h.word
  let vd := bits o 18 15
  let vx := bits o 10 7
  let v := t.vec
  if v.rmode = 4 then .error 1
  else
    let val := fun (i : Nat) =>
      let c := (sget 0 t.mx.comb ((32 * bits o 5 4 + i / 16) * 64 + 16 * bits o 3 2 + i % 16)).toInt
      if t.mx.combQ64 then
        convQI 64 true false v.rmode 0 (c < 0) c.natAbs 1 (v.qexp v.qa + v.qexp v.qb - v.qexp v.qd - 7)
      else roundZ fp64 v.rmode 0 false c (t.expRow vx (i / 16) + t.expCol vx (i % 16) - 60)
    let t' := (t.vmap vd 64 fun i => some (val i)).getD t
    .ok (if bit o 1 then { t' with mx := { t'.mx with combLive := false } } else t')

/-- Combine with sub 0. -/
def vIsFinish (w : W32) : Bool := slotOp w == 7 && !(bit (slotLow w) 6)

/-- FINISH. -/
def execFinish (t : Nat) (s : State) : Res := .next (s.vStart t vIsFinish (tileEff t effFinish))

/-! ### Moves and the mode -/

def effVMove (t : Tile) (h : QEnt) : Except Nat Tile :=
  let o := slotLow h.word
  let vd := bits o 18 15
  let va := bits o 14 11
  let vb := bits o 7 4
  let w := t.vec.width
  match bits o 10 8 with
  | 0 => .ok ((t.vmap vd w fun i => some (t.vel va w i, 0)).getD t)
  | 1 =>
    if w = 64 then .error 1
    else .ok ((below 1024).foldl (fun r i => r.vput vd 32 i (t.vel va 32 (i % 32 * 32 + i / 32))) t)
  | _ =>
    .ok ((below (vcount w)).foldl
      (fun r i => r.vput vd w i (if t.vOn (maskPos w i) then t.vel va w i else t.vel vb w i)) t)

/-- V_MOVE. -/
def execVMove (t : Nat) (s : State) : Res := .next (s.vStart t (vIs 8) (tileEff t effVMove))

def effVset (t : Tile) (h : QEnt) : Except Nat Tile :=
  if modeOk h.x.toNat then .ok { t with vec := { t.vec with mode := BitVec.ofNat 27 h.x.toNat } } else .error 1

/-- VSET. -/
def execVset (t : Nat) (s : State) : Res := .next (s.vStart t (vIs 9) (tileEff t effVset))

def effVctl (t : Tile) (h : QEnt) : Except Nat Tile :=
  let o := slotLow h.word
  let x := h.x.toNat
  if bits o 13 11 = 0 then
    .ok { t with vec := { t.vec with qe := sput 0 t.vec.qe (bits o 10 9) (BitVec.ofNat 12 x) } }
  else .ok { t with vec := { t.vec with flags := BitVec.ofNat 8 (t.vec.flags.toNat - (t.vec.flags.toNat &&& x)) } }

/-- VCTL. -/
def execVctl (t : Nat) (s : State) : Res := .next (s.vStart t (vIs 10) (tileEff t effVctl))

/-! ### Requantisation, R216 and R217 -/

/-- The requantisation formula: accumulator, multiplier, shift, zero point, into `w` bits. No function code of R226 performs it
(notes/assumptions 49). -/
def requant (w : Nat) (sg wrap : Bool) (acc m : Int) (sh : Nat) (zp : Int) : IRes :=
  let p := acc * m
  let q : Int := if sh = 0 then p else p.sign * ((p.natAbs + 2 ^ (sh - 1)) / 2 ^ sh : Nat)
  if wrap then wrapKeep w sg (zp + q) else satInt w sg (zp + q)

end Sys2Proof.Machine
end

