-- ==== Sys2Proof/Machine/Dispatch.lean ====
section
/-! DEFINITION. exec: one arm for each command, a direct call of its meaning. -/

namespace Sys2Proof.Machine

/-- The effect of a command on everything but the queue of commands. -/
def exec (i : Instr) (s : State) : Host.Outcome State Fault Refusal :=
  match i with
  | .dmwrIntake vf off len pkt => Sys2Proof.Machine.execDmwrIntake vf off len pkt s
  | .postedWriteBar2 off len => Sys2Proof.Machine.execPostedWriteBar2 off len s
  | .commandDatagram len pkt => Sys2Proof.Machine.execCommandDatagram len pkt s
  | .labCmd dr => Sys2Proof.Machine.execLabCmd dr s
  | .labMem dr => Sys2Proof.Machine.execLabMem dr s
  | .idcode => Sys2Proof.Machine.execIdcode s
  | .bypass code => Sys2Proof.Machine.execBypass code s
  | .extest cells => Sys2Proof.Machine.execExtest cells s
  | .samplePreload sampled preload => Sys2Proof.Machine.execSamplePreload sampled preload s
  | .hostBar4Access wr addr len data => Sys2Proof.Machine.execHostBar4Access wr addr len data s
  | .registerWrite who off size val => Sys2Proof.Machine.execRegisterWrite who off size val s
  | .timeNowRead => Sys2Proof.Machine.execTimeNowRead s
  | .pkgAddrWrite val => Sys2Proof.Machine.execPkgAddrWrite val s
  | .globalDetWrite val => Sys2Proof.Machine.execGlobalDetWrite val s
  | .furrowCfgWrite val => Sys2Proof.Machine.execFurrowCfgWrite val s
  | .furrowEpochWrite val => Sys2Proof.Machine.execFurrowEpochWrite val s
  | .queueEnable q val => Sys2Proof.Machine.execQueueEnable q val s
  | .cqHeadWrite q val => Sys2Proof.Machine.execCqHeadWrite q val s
  | .coreStart c => Sys2Proof.Machine.execCoreStart c s
  | .coreHalt c => Sys2Proof.Machine.execCoreHalt c s
  | .invalidateAll level => Sys2Proof.Machine.execInvalidateAll level s
  | .cleanAndInvalidateAll level => Sys2Proof.Machine.execCleanAndInvalidateAll level s
  | .invalidateAllDone => Sys2Proof.Machine.execInvalidateAllDone s
  | .cacheModeWrite val => Sys2Proof.Machine.execCacheModeWrite val s
  | .bootResetWarm => Sys2Proof.Machine.execBootResetWarm s
  | .bootResetCold => Sys2Proof.Machine.execBootResetCold s
  | .linkReset n => Sys2Proof.Machine.execLinkReset n s
  | .nop q => Sys2Proof.Machine.execNop q s
  | .flush q => Sys2Proof.Machine.execFlush q s
  | .suspend q => Sys2Proof.Machine.execSuspend q s
  | .resume q => Sys2Proof.Machine.execResume q s
  | .cancel q => Sys2Proof.Machine.execCancel q s
  | .queryHandle q => Sys2Proof.Machine.execQueryHandle q s
  | .timeSet q => Sys2Proof.Machine.execTimeSet q s
  | .timeSetTimeout => Sys2Proof.Machine.execTimeSetTimeout s
  | .furrowSet q => Sys2Proof.Machine.execFurrowSet q s
  | .barrier q => Sys2Proof.Machine.execBarrier q s
  | .barrierArrival cs rank run furrow => Sys2Proof.Machine.execBarrierArrival cs rank run furrow s
  | .partCreate q => Sys2Proof.Machine.execPartCreate q s
  | .partReset q => Sys2Proof.Machine.execPartReset q s
  | .partitionClearDone p => Sys2Proof.Machine.execPartitionClearDone p s
  | .partDelete q => Sys2Proof.Machine.execPartDelete q s
  | .memCopy q => Sys2Proof.Machine.execMemCopy q s
  | .memFill q => Sys2Proof.Machine.execMemFill q s
  | .progLoad q => Sys2Proof.Machine.execProgLoad q s
  | .progRun q => Sys2Proof.Machine.execProgRun q s
  | .trainStep q => Sys2Proof.Machine.execTrainStep q s
  | .programHalted t => Sys2Proof.Machine.execProgramHalted t s
  | .solveBatch q => Sys2Proof.Machine.execSolveBatch q s
  | .problemStop h idx => Sys2Proof.Machine.execProblemStop h idx s
  | .collSetup q => Sys2Proof.Machine.execCollSetup q s
  | .setupSummary cs rank sum => Sys2Proof.Machine.execSetupSummary cs rank sum s
  | .setupVerdict cs status detail => Sys2Proof.Machine.execSetupVerdict cs status detail s
  | .summaryTimeout cs => Sys2Proof.Machine.execSummaryTimeout cs s
  | .collStep q => Sys2Proof.Machine.execCollStep q s
  | .doneNotice cs rank run step => Sys2Proof.Machine.execDoneNotice cs rank run step s
  | .slip cs rank run step => Sys2Proof.Machine.execSlip cs rank run step s
  | .readyWordReport cs slice val => Sys2Proof.Machine.execReadyWordReport cs slice val s
  | .collTeardown q => Sys2Proof.Machine.execCollTeardown q s
  | .snapshot q => Sys2Proof.Machine.execSnapshot q s
  | .snapshotCaptureDone h => Sys2Proof.Machine.execSnapshotCaptureDone h s
  | .hostCopyDone h => Sys2Proof.Machine.execHostCopyDone h s
  | .restore q => Sys2Proof.Machine.execRestore q s
  | .mirrorCfg q => Sys2Proof.Machine.execMirrorCfg q s
  | .mirrorDelta q => Sys2Proof.Machine.execMirrorDelta q s
  | .takeover q => Sys2Proof.Machine.execTakeover q s
  | .takeoverTimeout => Sys2Proof.Machine.execTakeoverTimeout s
  | .capSet q => Sys2Proof.Machine.execCapSet q s
  | .phaseTable q => Sys2Proof.Machine.execPhaseTable q s
  | .fwStage q => Sys2Proof.Machine.execFwStage q s
  | .fwActivate q => Sys2Proof.Machine.execFwActivate q s
  | .healthRead q => Sys2Proof.Machine.execHealthRead q s
  | .errlogRead q => Sys2Proof.Machine.execErrlogRead q s
  | .repair q => Sys2Proof.Machine.execRepair q s
  | .detSet q => Sys2Proof.Machine.execDetSet q s
  | .digestRead q => Sys2Proof.Machine.execDigestRead q s
  | .remoteOp q => Sys2Proof.Machine.execRemoteOp q s
  | .imageRelay q => Sys2Proof.Machine.execImageRelay q s
  | .relayTimeout h => Sys2Proof.Machine.execRelayTimeout h s
  | .debugHalt q => Sys2Proof.Machine.execDebugHalt q s
  | .scan q => Sys2Proof.Machine.execScan q s
  | .scanDone q pass fails row => Sys2Proof.Machine.execScanDone q pass fails row s
  | .anchorConfirm q seq retire => Sys2Proof.Machine.execAnchorConfirm q seq retire s
  | .receiptWrite q => Sys2Proof.Machine.execReceiptWrite q s
  | .msixHoldExpiry q => Sys2Proof.Machine.execMsixHoldExpiry q s
  | .journalEntry q seq pkt => Sys2Proof.Machine.execJournalEntry q seq pkt s
  | .retireMark q seq => Sys2Proof.Machine.execRetireMark q seq s
  | .heartbeatSend => Sys2Proof.Machine.execHeartbeatSend s
  | .heartbeat notice => Sys2Proof.Machine.execHeartbeat notice s
  | .buddyLossDeclare => Sys2Proof.Machine.execBuddyLossDeclare s
  | .imageChunk p idx data => Sys2Proof.Machine.execImageChunk p idx data s
  | .seal p image count digest => Sys2Proof.Machine.execSeal p image count digest s
  | .sealAnswer p image => Sys2Proof.Machine.execSealAnswer p image s
  | .takeoverChunk p idx data => Sys2Proof.Machine.execTakeoverChunk p idx data s
  | .journalTransfer anchored entries => Sys2Proof.Machine.execJournalTransfer anchored entries s
  | .furrowBoundary => Sys2Proof.Machine.execFurrowBoundary s
  | .balerRelease t => Sys2Proof.Machine.execBalerRelease t s
  | .balerRowArrival t row tag => Sys2Proof.Machine.execBalerRowArrival t row tag s
  | .beaconSend => Sys2Proof.Machine.execBeaconSend s
  | .beacon n msg => Sys2Proof.Machine.execBeacon n msg s
  | .ptpSync port t1 t2 => Sys2Proof.Machine.execPtpSync port t1 t2 s
  | .ptpAnnounce port => Sys2Proof.Machine.execPtpAnnounce port s
  | .ptpDelayReq port => Sys2Proof.Machine.execPtpDelayReq port s
  | .ptpDelayResp port t4 => Sys2Proof.Machine.execPtpDelayResp port t4 s
  | .peerDelayMessage port => Sys2Proof.Machine.execPeerDelayMessage port s
  | .ppsInEdge ptpTime => Sys2Proof.Machine.execPpsInEdge ptpTime s
  | .sourceLoss src => Sys2Proof.Machine.execSourceLoss src s
  | .holdoverLimit => Sys2Proof.Machine.execHoldoverLimit s
  | .slewComplete => Sys2Proof.Machine.execSlewComplete s
  | .ppsOutPulse => Sys2Proof.Machine.execPpsOutPulse s
  | .ppsOutPulseEnd => Sys2Proof.Machine.execPpsOutPulseEnd s
  | .bundleIssue t => Sys2Proof.Machine.execBundleIssue t s
  | .fwaitRelease t => Sys2Proof.Machine.execFwaitRelease t s
  | .safepointSave t => Sys2Proof.Machine.execSafepointSave t s
  | .sync t eng => Sys2Proof.Machine.execSync t eng s
  | .engineComplete t eng => Sys2Proof.Machine.execEngineComplete t eng s
  | .bayld t => Sys2Proof.Machine.execBayld t s
  | .mmul t => Sys2Proof.Machine.execMmul t s
  | .mmult t => Sys2Proof.Machine.execMmult t s
  | .conv t => Sys2Proof.Machine.execConv t s
  | .limb t => Sys2Proof.Machine.execLimb t s
  | .drain t => Sys2Proof.Machine.execDrain t s
  | .floatArithmetic t => Sys2Proof.Machine.execFloatArithmetic t s
  | .integerArithmetic t => Sys2Proof.Machine.execIntegerArithmetic t s
  | .vCompare t => Sys2Proof.Machine.execVCompare t s
  | .maskLogic t => Sys2Proof.Machine.execMaskLogic t s
  | .reduce t => Sys2Proof.Machine.execReduce t s
  | .vConvert t => Sys2Proof.Machine.execVConvert t s
  | .split t => Sys2Proof.Machine.execSplit t s
  | .finish t => Sys2Proof.Machine.execFinish t s
  | .vMove t => Sys2Proof.Machine.execVMove t s
  | .vset t => Sys2Proof.Machine.execVset t s
  | .vctl t => Sys2Proof.Machine.execVctl t s
  | .move t => Sys2Proof.Machine.execMove t s
  | .gather t => Sys2Proof.Machine.execGather t s
  | .scatter t => Sys2Proof.Machine.execScatter t s
  | .tedder t => Sys2Proof.Machine.execTedder t s
  | .tokenDeadlock t => Sys2Proof.Machine.execTokenDeadlock t s
  | .tileExceptionEntry t => Sys2Proof.Machine.execTileExceptionEntry t s
  | .enter c => Sys2Proof.Machine.execEnter c s
  | .leave c => Sys2Proof.Machine.execLeave c s
  | .leaveJ c => Sys2Proof.Machine.execLeaveJ c s
  | .fspill c => Sys2Proof.Machine.execFspill c s
  | .spill c => Sys2Proof.Machine.execSpill c s
  | .fill c => Sys2Proof.Machine.execFill c s
  | .add c rd ra rb w32 => Sys2Proof.Machine.execAdd c rd ra rb w32 s
  | .addu c rd ra rb w32 => Sys2Proof.Machine.execAddu c rd ra rb w32 s
  | .sub c rd ra rb w32 => Sys2Proof.Machine.execSub c rd ra rb w32 s
  | .subu c rd ra rb w32 => Sys2Proof.Machine.execSubu c rd ra rb w32 s
  | .and c rd ra rb w32 => Sys2Proof.Machine.execAnd c rd ra rb w32 s
  | .or c rd ra rb w32 => Sys2Proof.Machine.execOr c rd ra rb w32 s
  | .xor c rd ra rb w32 => Sys2Proof.Machine.execXor c rd ra rb w32 s
  | .slt c rd ra rb w32 => Sys2Proof.Machine.execSlt c rd ra rb w32 s
  | .sltu c rd ra rb w32 => Sys2Proof.Machine.execSltu c rd ra rb w32 s
  | .sadd c rd ra rb w32 => Sys2Proof.Machine.execSadd c rd ra rb w32 s
  | .ssub c rd ra rb w32 => Sys2Proof.Machine.execSsub c rd ra rb w32 s
  | .saddu c rd ra rb w32 => Sys2Proof.Machine.execSaddu c rd ra rb w32 s
  | .ssubu c rd ra rb w32 => Sys2Proof.Machine.execSsubu c rd ra rb w32 s
  | .neg c rd ra rb w32 => Sys2Proof.Machine.execNeg c rd ra rb w32 s
  | .abs c rd ra rb w32 => Sys2Proof.Machine.execAbs c rd ra rb w32 s
  | .cneg c rd ra rb w32 => Sys2Proof.Machine.execCneg c rd ra rb w32 s
  | .cabs c rd ra rb w32 => Sys2Proof.Machine.execCabs c rd ra rb w32 s
  | .min c rd ra rb w32 => Sys2Proof.Machine.execMin c rd ra rb w32 s
  | .max c rd ra rb w32 => Sys2Proof.Machine.execMax c rd ra rb w32 s
  | .minu c rd ra rb w32 => Sys2Proof.Machine.execMinu c rd ra rb w32 s
  | .maxu c rd ra rb w32 => Sys2Proof.Machine.execMaxu c rd ra rb w32 s
  | .sll c rd ra rb w32 => Sys2Proof.Machine.execSll c rd ra rb w32 s
  | .srl c rd ra rb w32 => Sys2Proof.Machine.execSrl c rd ra rb w32 s
  | .sra c rd ra rb w32 => Sys2Proof.Machine.execSra c rd ra rb w32 s
  | .rol c rd ra rb w32 => Sys2Proof.Machine.execRol c rd ra rb w32 s
  | .ror c rd ra rb w32 => Sys2Proof.Machine.execRor c rd ra rb w32 s
  | .mul c rd ra rb w32 => Sys2Proof.Machine.execMul c rd ra rb w32 s
  | .mulh c rd ra rb w32 => Sys2Proof.Machine.execMulh c rd ra rb w32 s
  | .mulhu c rd ra rb w32 => Sys2Proof.Machine.execMulhu c rd ra rb w32 s
  | .div c rd ra rb w32 => Sys2Proof.Machine.execDiv c rd ra rb w32 s
  | .divu c rd ra rb w32 => Sys2Proof.Machine.execDivu c rd ra rb w32 s
  | .rem c rd ra rb w32 => Sys2Proof.Machine.execRem c rd ra rb w32 s
  | .remu c rd ra rb w32 => Sys2Proof.Machine.execRemu c rd ra rb w32 s
  | .cdiv c rd ra rb w32 => Sys2Proof.Machine.execCdiv c rd ra rb w32 s
  | .cdivu c rd ra rb w32 => Sys2Proof.Machine.execCdivu c rd ra rb w32 s
  | .crem c rd ra rb w32 => Sys2Proof.Machine.execCrem c rd ra rb w32 s
  | .cremu c rd ra rb w32 => Sys2Proof.Machine.execCremu c rd ra rb w32 s
  | .addi c rd ra imm => Sys2Proof.Machine.execAddi c rd ra imm s
  | .andi c rd ra imm => Sys2Proof.Machine.execAndi c rd ra imm s
  | .ori c rd ra imm => Sys2Proof.Machine.execOri c rd ra imm s
  | .xori c rd ra imm => Sys2Proof.Machine.execXori c rd ra imm s
  | .lui c rd imm => Sys2Proof.Machine.execLui c rd imm s
  | .auipc c rd imm => Sys2Proof.Machine.execAuipc c rd imm s
  | .lb c rd ra off => Sys2Proof.Machine.execLb c rd ra off s
  | .lbu c rd ra off => Sys2Proof.Machine.execLbu c rd ra off s
  | .lh c rd ra off => Sys2Proof.Machine.execLh c rd ra off s
  | .lhu c rd ra off => Sys2Proof.Machine.execLhu c rd ra off s
  | .lw c rd ra off => Sys2Proof.Machine.execLw c rd ra off s
  | .lwu c rd ra off => Sys2Proof.Machine.execLwu c rd ra off s
  | .ld c rd ra off => Sys2Proof.Machine.execLd c rd ra off s
  | .ldAq c rd ra off => Sys2Proof.Machine.execLdAq c rd ra off s
  | .sb c rd ra off => Sys2Proof.Machine.execSb c rd ra off s
  | .sh c rd ra off => Sys2Proof.Machine.execSh c rd ra off s
  | .sw c rd ra off => Sys2Proof.Machine.execSw c rd ra off s
  | .sd c rd ra off => Sys2Proof.Machine.execSd c rd ra off s
  | .swRl c rd ra off => Sys2Proof.Machine.execSwRl c rd ra off s
  | .sdRl c rd ra off => Sys2Proof.Machine.execSdRl c rd ra off s
  | .atomic c rd ra rb fn => Sys2Proof.Machine.execAtomic c rd ra rb fn s
  | .fenceAcq c => Sys2Proof.Machine.execFenceAcq c s
  | .fenceRel c => Sys2Proof.Machine.execFenceRel c s
  | .fenceFull c => Sys2Proof.Machine.execFenceFull c s
  | .tlbinv c ra rb => Sys2Proof.Machine.execTlbinv c ra rb s
  | .branch c ra rb cond off => Sys2Proof.Machine.execBranch c ra rb cond off s
  | .call c off => Sys2Proof.Machine.execCall c off s
  | .jmpl c rd ra imm => Sys2Proof.Machine.execJmpl c rd ra imm s
  | .syscall c code => Sys2Proof.Machine.execSyscall c code s
  | .brk c => Sys2Proof.Machine.execBrk c s
  | .xret c => Sys2Proof.Machine.execXret c s
  | .mfsr c rd sr => Sys2Proof.Machine.execMfsr c rd sr s
  | .mtsr c rs sr => Sys2Proof.Machine.execMtsr c rs sr s
  | .wfi c => Sys2Proof.Machine.execWfi c s
  | .scalarFp c fd fa fb fn => Sys2Proof.Machine.execScalarFp c fd fa fb fn s
  | .fusedMultiplyAdd c fd fa fb fc fp32 neg => Sys2Proof.Machine.execFusedMultiplyAdd c fd fa fb fc fp32 neg s
  | .convert c rd ra src dst rc wrap low => Sys2Proof.Machine.execConvert c rd ra src dst rc wrap low s
  | .fpCompare c rd fa fb fn => Sys2Proof.Machine.execFpCompare c rd fa fb fn s
  | .furrowTimer c => Sys2Proof.Machine.execFurrowTimer c s
  | .interruptEntry c => Sys2Proof.Machine.execInterruptEntry c s
  | .doubleTrapMonitor c => Sys2Proof.Machine.execDoubleTrapMonitor c s
  | .cleanVa c ra => Sys2Proof.Machine.execCleanVa c ra s
  | .invVa c ra => Sys2Proof.Machine.execInvVa c ra s
  | .clinvVa c ra => Sys2Proof.Machine.execClinvVa c ra s
  | .zeroVa c ra => Sys2Proof.Machine.execZeroVa c ra s
  | .invzeroVa c ra => Sys2Proof.Machine.execInvzeroVa c ra s
  | .cleanVaMem c ra => Sys2Proof.Machine.execCleanVaMem c ra s
  | .clinvVaMem c ra => Sys2Proof.Machine.execClinvVaMem c ra s
  | .win c ra rb => Sys2Proof.Machine.execWin c ra rb s
  | .cleanSw c ra => Sys2Proof.Machine.execCleanSw c ra s
  | .invSw c ra => Sys2Proof.Machine.execInvSw c ra s
  | .clinvSw c ra => Sys2Proof.Machine.execClinvSw c ra s
  | .vcfg c rd ra wcode glog2 low => Sys2Proof.Machine.execVcfg c rd ra wcode glog2 low s
  | .twillInteger c f => Sys2Proof.Machine.execTwillInteger c f s
  | .twillFp c f => Sys2Proof.Machine.execTwillFp c f s
  | .twillCompare c f => Sys2Proof.Machine.execTwillCompare c f s
  | .wmul c f => Sys2Proof.Machine.execWmul c f s
  | .wmulu c f => Sys2Proof.Machine.execWmulu c f s
  | .wmacc c f => Sys2Proof.Machine.execWmacc c f s
  | .wmaccu c f => Sys2Proof.Machine.execWmaccu c f s
  | .dot4 c f => Sys2Proof.Machine.execDot4 c f s
  | .dot4u c f => Sys2Proof.Machine.execDot4u c f s
  | .dot2 c f => Sys2Proof.Machine.execDot2 c f s
  | .twillConvert c f => Sys2Proof.Machine.execTwillConvert c f s
  | .vld c f => Sys2Proof.Machine.execVld c f s
  | .vst c f => Sys2Proof.Machine.execVst c f s
  | .vgather c f => Sys2Proof.Machine.execVgather c f s
  | .vscatter c f => Sys2Proof.Machine.execVscatter c f s
  | .twillMove c f => Sys2Proof.Machine.execTwillMove c f s
  | .twillReduce c f => Sys2Proof.Machine.execTwillReduce c f s
  | .readShared req line => Sys2Proof.Machine.execReadShared req line s
  | .readUnique req line => Sys2Proof.Machine.execReadUnique req line s
  | .upgrade req line => Sys2Proof.Machine.execUpgrade req line s
  | .cleanEvictionNotice holder line data => Sys2Proof.Machine.execCleanEvictionNotice holder line data s
  | .writeback holder line => Sys2Proof.Machine.execWriteback holder line s
  | .writebackData holder line data => Sys2Proof.Machine.execWritebackData holder line data s
  | .snoop cluster line inv => Sys2Proof.Machine.execSnoop cluster line inv s
  | .evictAck owner line => Sys2Proof.Machine.execEvictAck owner line s
  | .refillChunk c line chunk data => Sys2Proof.Machine.execRefillChunk c line chunk data s
  | .hostCxlMem wr cached line data => Sys2Proof.Machine.execHostCxlMem wr cached line data s
  | .snpdata line => Sys2Proof.Machine.execSnpdata line s
  | .snpinv line => Sys2Proof.Machine.execSnpinv line s
  | .snpcur line => Sys2Proof.Machine.execSnpcur line s
  | .hbmRead addr bad => Sys2Proof.Machine.execHbmRead addr bad s
  | .hbmWrite addr data => Sys2Proof.Machine.execHbmWrite addr data s
  | .narrowRequest wr addr size data => Sys2Proof.Machine.execNarrowRequest wr addr size data s
  | .coalescerTimeout block => Sys2Proof.Machine.execCoalescerTimeout block s
  | .scrubRead addr bad written => Sys2Proof.Machine.execScrubRead addr bad written s
  | .hbmTempSample stack temp => Sys2Proof.Machine.execHbmTempSample stack temp s
  | .migrationCopy stack => Sys2Proof.Machine.execMigrationCopy stack s
  | .linkTrained n rep => Sys2Proof.Machine.execLinkTrained n rep s
  | .linkTrainRetry n => Sys2Proof.Machine.execLinkTrainRetry n s
  | .laneFail n lane => Sys2Proof.Machine.execLaneFail n lane s
  | .flitReceive n flit => Sys2Proof.Machine.execFlitReceive n flit s
  | .nack n seq => Sys2Proof.Machine.execNack n seq s
  | .linkDown n => Sys2Proof.Machine.execLinkDown n s
  | .d2dModuleFail conn module => Sys2Proof.Machine.execD2dModuleFail conn module s
  | .fabricRead hdr data => Sys2Proof.Machine.execFabricRead hdr data s
  | .fabricWrite hdr data => Sys2Proof.Machine.execFabricWrite hdr data s
  | .burstWrite hdr data => Sys2Proof.Machine.execBurstWrite hdr data s
  | .integerAdd hdr data => Sys2Proof.Machine.execIntegerAdd hdr data s
  | .signedMinMax hdr data => Sys2Proof.Machine.execSignedMinMax hdr data s
  | .unsignedMinMax hdr data => Sys2Proof.Machine.execUnsignedMinMax hdr data s
  | .swap hdr data => Sys2Proof.Machine.execSwap hdr data s
  | .compareAndSwap hdr data => Sys2Proof.Machine.execCompareAndSwap hdr data s
  | .floatAdd hdr data => Sys2Proof.Machine.execFloatAdd hdr data s
  | .floatMaximumMinimum hdr data => Sys2Proof.Machine.execFloatMaximumMinimum hdr data s
  | .orderedFloatAdd hdr data => Sys2Proof.Machine.execOrderedFloatAdd hdr data s
  | .commandPacket n hdr pkt => Sys2Proof.Machine.execCommandPacket n hdr pkt s
  | .commandAnswer src slot gen answer => Sys2Proof.Machine.execCommandAnswer src slot gen answer s
  | .fabricResponse src slot gen tag status data => Sys2Proof.Machine.execFabricResponse src slot gen tag status data s
  | .reissueTimeout idx => Sys2Proof.Machine.execReissueTimeout idx s
  | .fabPoisonTimeout idx => Sys2Proof.Machine.execFabPoisonTimeout idx s
  | .slotHoldExpiry dst slot => Sys2Proof.Machine.execSlotHoldExpiry dst slot s
  | .digestChunkHash p chunk => Sys2Proof.Machine.execDigestChunkHash p chunk s
  | .tileFault t corrected => Sys2Proof.Machine.execTileFault t corrected s
  | .lockstepInjection reported => Sys2Proof.Machine.execLockstepInjection reported s
  | .stewardMismatch outcome => Sys2Proof.Machine.execStewardMismatch outcome s
  | .powerTick m => Sys2Proof.Machine.execPowerTick m s
  | .vrAlert => Sys2Proof.Machine.execVrAlert s
  | .floorExit => Sys2Proof.Machine.execFloorExit s
  | .dieTempSample temp => Sys2Proof.Machine.execDieTempSample temp s
  | .coldBoot rep => Sys2Proof.Machine.execColdBoot rep s
  | .pwrokLow => Sys2Proof.Machine.execPwrokLow s
  | .warmReset => Sys2Proof.Machine.execWarmReset s
  | .i3cRead off => Sys2Proof.Machine.execI3cRead off s
  | .i3cWrite off val => Sys2Proof.Machine.execI3cWrite off val s
  | .pwrokRise board pkg => Sys2Proof.Machine.execPwrokRise board pkg s
  | .vrAlertRelease => Sys2Proof.Machine.execVrAlertRelease s
  | .restoreCopyDone h => Sys2Proof.Machine.execRestoreCopyDone h s
  | .fwStageDone => Sys2Proof.Machine.execFwStageDone s
  | .sealCopyDone p => Sys2Proof.Machine.execSealCopyDone p s
  | .memCopyFillDone h => Sys2Proof.Machine.execMemCopyFillDone h s
  | .commitPhaseEnd h => Sys2Proof.Machine.execCommitPhaseEnd h s
  | .windowOperationDone n => Sys2Proof.Machine.execWindowOperationDone n s
  | .shareWindowEnd obs => Sys2Proof.Machine.execShareWindowEnd obs s
  | .externalInterrupt c source => Sys2Proof.Machine.execExternalInterrupt c source s
  | .cxlHostResponse line unique data => Sys2Proof.Machine.execCxlHostResponse line unique data s
  | .dmaReadCompletion q ok data => Sys2Proof.Machine.execDmaReadCompletion q ok data s
  | .dynamicAddressAssignment addr => Sys2Proof.Machine.execDynamicAddressAssignment addr s

end Sys2Proof.Machine
end

