-- ==== Sys2Proof/Safety.lean ====
section
/-! DEFINITION. What counts as a safe state of the package, in the terms that statements use: the memories in their canonical
form, and the numbers of the discipline loop inside their bounds. -/

namespace Sys2Proof

open Machine

/-- HBM, both retention copies, the flash and every tile store are in canonical form. -/
def memOk (s : State) : Prop :=
  Mem.wf s.hbm.mem = true ∧ Mem.wf s.retA = true ∧ Mem.wf s.retB = true ∧ Mem.wf s.boot.flash = true

/-- The learned rate stays inside R53's bounds, so that the counter never runs backwards. -/
def rateOk (s : State) : Prop := -6 ≤ s.time.freqCorr ∧ s.time.freqCorr ≤ 6

/-- A run may go on from `s`: the next step answers a next state. -/
def goesOn (s : State) : Prop := ∃ t, step s = .next t

end Sys2Proof
end

