-- ==== Sys2Proof/Certificates/Slice0/Obligations.lean ====
section
/-! DEFINITION. The statements, and the words that they are said in. A statement with several parts is the conjunction of its parts, which stand
above it under `Sys2Proof.Claims`. -/

open Sys2Proof Sys2Proof.Machine


namespace Sys2Proof

/-! ### Cores -/

/-- Core `c` executes, no interrupt is to be taken first, and its fetch succeeds, leaving `s1`. -/
def Fetched (s : State) (c : Nat) (s1 : State) : Prop :=
  s.coreRuns c = true ∧ (s.core c).irq = none ∧ s.coreFetch c = (s1, .ok [])

/-- `t` is `s` but for core `c`, which is `k`. -/
def CoreOnly (s t : State) (c : Nat) (k : Cpu) : Prop :=
  t.core c = k ∧ (∀ j, j ≠ c → t.core j = s.core j) ∧ t = { s with cores := t.cores }

/-- The thread as the next instruction finds it. -/
def atNext (k : Cpu) : Cpu := { k with pc := k.pc + 4 }

/-- A trap is entered from `s` (R327): the saved registers, supervisor with interrupts off, the handler's entry. -/
def TrapEntered (s t : State) (c cause detail val ret : Nat) : Prop :=
  let k := s.core c
  CoreOnly s t c
    { k with
      xpc := BitVec.ofNat 64 ret
      xstate := BitVec.ofNat 64
        (k.resident * 2 ^ 12 + k.wsel * 2 ^ 8 + (if k.xact then 16 else 0) + (if k.tw then 8 else 0) + (if k.ie then 4 else 0)
          + k.priv.toNat)
      xcause := BitVec.ofNat 64 (cause + 256 * detail), xval := BitVec.ofNat 64 val
      priv := 1, ie := false, xact := true, pc := k.xbase + BitVec.ofNat 64 (128 * cause) }

/-- The core is frozen by a double trap (R329): nothing but its state and its shadow registers changes. -/
def DoubleTrapped (s t : State) (c cause detail val word : Nat) : Prop :=
  let k := s.core c
  CoreOnly s t c { k with run := .frozen, haltFurrow := s.furrow, shadow := (t.core c).shadow } ∧
    ∀ e ∈ [(0, k.pc), (1, BitVec.ofNat 64 (cause + 256 * detail)), (2, BitVec.ofNat 64 val), (3, BitVec.ofNat 64 word),
        (4, k.xpc), (5, k.xstate), (6, k.xcause), (7, k.xval), (8, k.spptr), (9, k.spbase), (10, k.splimit), (11, k.ptroot),
        (12, BitVec.ofNat 64 s.furrow), (13, BitVec.ofNat 64 s.time.ns),
        (14, BitVec.ofNat 64 (k.flags.toNat % 128 + k.fpctl.toNat * 256)),
        (15, BitVec.ofNat 64 (c + s.corePart c * 256 + k.resident * 4096))],
      sget 0 (t.core c).shadow e.1 = e.2

/-- A synchronous cause: a trap, or a double trap while a trap is handled. -/
def SyncTrapped (s t : State) (c cause detail val word ret : Nat) : Prop :=
  if (s.core c).xact then DoubleTrapped s t c cause detail val word else TrapEntered s t c cause detail val ret

/-- The low `w` bits of an exact result, with V when a signed one does not fit (R199). -/
def exactRes (w : Nat) (signed : Bool) (x : Int) : Nat × Nat :=
  ((x % 2 ^ w).toNat, if signed ∧ (x < -(2 ^ (w - 1)) ∨ 2 ^ (w - 1) ≤ x) then fV else 0)

/-- An exact result held to a range, with SAT when it lies outside (R199). -/
def clampRes (w : Nat) (lo hi x : Int) : Nat × Nat :=
  if x < lo then ((lo % 2 ^ w).toNat, fSAT) else if hi < x then ((hi % 2 ^ w).toNat, fSAT) else ((x % 2 ^ w).toNat, 0)

/-- A constructor of the register-register instructions. -/
abbrev AluCtor := Nat → BitVec 6 → BitVec 6 → BitVec 6 → Bool → Instr

/-- A register-register instruction: its opcode, its function, whether it names rb, and its result and flags for operands of `w` bits;
none when a checked variant traps. -/
abbrev AluRow := AluCtor × Nat × Nat × Bool × (Nat → Nat → Nat → Option (Nat × Nat))

/-- R338's opcodes 0x02 to 0x04 with the results of R198 to R201. -/
def aluRows : List AluRow :=
  [(.add, 2, 0, true, fun w a b => some (exactRes w true (sint w a + sint w b))),
   (.addu, 2, 1, true, fun w a b => some (exactRes w false (a + b))),
   (.sub, 2, 2, true, fun w a b => some (exactRes w true (sint w a - sint w b))),
   (.subu, 2, 3, true, fun w a b => some (exactRes w false (a - b))),
   (.and, 2, 4, true, fun _ a b => some (a &&& b, 0)),
   (.or, 2, 5, true, fun _ a b => some (a ||| b, 0)),
   (.xor, 2, 6, true, fun _ a b => some (a ^^^ b, 0)),
   (.slt, 2, 7, true, fun w a b => some (if sint w a < sint w b then 1 else 0, 0)),
   (.sltu, 2, 8, true, fun _ a b => some (if a < b then 1 else 0, 0)),
   (.sadd, 2, 9, true, fun w a b => some (clampRes w (-(2 ^ (w - 1))) (2 ^ (w - 1) - 1) (sint w a + sint w b))),
   (.ssub, 2, 10, true, fun w a b => some (clampRes w (-(2 ^ (w - 1))) (2 ^ (w - 1) - 1) (sint w a - sint w b))),
   (.saddu, 2, 11, true, fun w a b => some (clampRes w 0 (2 ^ w - 1) (a + b))),
   (.ssubu, 2, 12, true, fun w a b => some (clampRes w 0 (2 ^ w - 1) (a - b))),
   (.neg, 2, 13, false, fun w a _ => some (exactRes w true (-sint w a))),
   (.abs, 2, 14, false, fun w a _ => some (exactRes w true (if sint w a < 0 then -sint w a else sint w a))),
   (.cneg, 2, 15, false, fun w a _ => if sint w a = -(2 ^ (w - 1)) then none else some (exactRes w true (-sint w a))),
   (.cabs, 2, 16, false, fun w a _ =>
     if sint w a = -(2 ^ (w - 1)) then none else some (exactRes w true (if sint w a < 0 then -sint w a else sint w a))),
   (.min, 2, 17, true, fun w a b => some (if sint w a ≤ sint w b then a else b, 0)),
   (.max, 2, 18, true, fun w a b => some (if sint w a ≤ sint w b then b else a, 0)),
   (.minu, 2, 19, true, fun _ a b => some (if a ≤ b then a else b, 0)),
   (.maxu, 2, 20, true, fun _ a b => some (if a ≤ b then b else a, 0)),
   (.sll, 3, 0, true, fun w a b => some (if w ≤ b then 0 else a * 2 ^ b % 2 ^ w, 0)),
   (.srl, 3, 1, true, fun w a b => some (if w ≤ b then 0 else a / 2 ^ b, 0)),
   (.sra, 3, 2, true, fun w a b =>
     some (if w ≤ b then (if sint w a < 0 then 2 ^ w - 1 else 0) else (sint w a / 2 ^ b % 2 ^ w).toNat, 0)),
   (.rol, 3, 3, true, fun w a b => some (a * 2 ^ (b % w) % 2 ^ w + a / 2 ^ (w - b % w), 0)),
   (.ror, 3, 4, true, fun w a b => some (a / 2 ^ (b % w) + a * 2 ^ (w - b % w) % 2 ^ w, 0)),
   (.mul, 4, 0, true, fun w a b => some (exactRes w true (sint w a * sint w b))),
   (.mulh, 4, 1, true, fun w a b => some ((sint w a * sint w b / 2 ^ w % 2 ^ w).toNat, 0)),
   (.mulhu, 4, 2, true, fun w a b => some (a * b / 2 ^ w, 0)),
   (.div, 4, 3, true, fun w a b => some (if b = 0 then (0, fDZ) else exactRes w true (Int.tdiv (sint w a) (sint w b)))),
   (.divu, 4, 4, true, fun _ a b => some (if b = 0 then (0, fDZ) else (a / b, 0))),
   (.rem, 4, 5, true, fun w a b =>
     some (if b = 0 then (a, fDZ) else ((Int.tmod (sint w a) (sint w b) % 2 ^ w).toNat, 0))),
   (.remu, 4, 6, true, fun _ a b => some (if b = 0 then (a, fDZ) else (a % b, 0))),
   (.cdiv, 4, 7, true, fun w a b =>
     if b = 0 ∨ (sint w a = -(2 ^ (w - 1)) ∧ sint w b = -1) then none
     else some ((Int.tdiv (sint w a) (sint w b) % 2 ^ w).toNat, 0)),
   (.cdivu, 4, 8, true, fun _ a b => if b = 0 then none else some (a / b, 0)),
   (.crem, 4, 9, true, fun w a b => if b = 0 then none else some ((Int.tmod (sint w a) (sint w b) % 2 ^ w).toNat, 0)),
   (.cremu, 4, 10, true, fun _ a b => if b = 0 then none else some (a % b, 0))]

/-- The word of a register-register instruction (R337). -/
def aluWord (op fn : Nat) (rd ra rb : BitVec 6) (w32 : Bool) : Nat :=
  op * 2 ^ 26 + rd.toNat * 2 ^ 20 + ra.toNat * 2 ^ 14 + rb.toNat * 2 ^ 8 + (fn + if w32 then 128 else 0)

/-- A `w`-bit field as a signed value in 64 bits. -/
def simm (w x : Nat) : Nat := (sint w x % 2 ^ 64).toNat

end Sys2Proof

/-- Each of the 37 register-register instructions gives the result of R198 to R201 in rd, ORs its flags into FLAGS, advances the pc, and
changes nothing else; a checked variant that meets its case takes trap 0x0C instead. -/
def Sys2Proof.Claims.CoreAluResults : Prop :=
  ∀ r ∈ aluRows, ∀ (s s1 : State) (c : Nat) (rd ra rb : BitVec 6) (w32 : Bool),
    Fetched s c s1 → rd.toNat < 40 → ra.toNat < 40 → (r.2.2.2.1 = true → rb.toNat < 40) →
      ∃ t, exec (r.1 c rd ra rb w32) s = .next t ∧
        let k := s1.core c
        let w := if w32 then 32 else 64
        match r.2.2.2.2 w (k.reg ra.toNat % 2 ^ w) (k.reg rb.toNat % 2 ^ w) with
        | some v => CoreOnly s1 t c (atNext ((k.setReg rd.toNat (if w32 then simm 32 v.1 else v.1)).orFlag v.2))
        | none => SyncTrapped s1 t c 0x0C 0 (aluWord r.2.1 r.2.2.1 rd ra rb w32) (aluWord r.2.1 r.2.2.1 rd ra rb w32) k.pc.toNat

/-- A register specifier of 40 to 63 in a field that the instruction names raises ILLEGAL_INSN, and no result is written. -/
def Sys2Proof.Claims.CoreAluIllegal : Prop :=
  ∀ r ∈ aluRows, ∀ (s s1 : State) (c : Nat) (rd ra rb : BitVec 6) (w32 : Bool),
    Fetched s c s1 → (40 ≤ rd.toNat ∨ 40 ≤ ra.toNat ∨ (r.2.2.2.1 = true ∧ 40 ≤ rb.toNat)) →
      ∃ t, exec (r.1 c rd ra rb w32) s = .next t ∧
        SyncTrapped s1 t c 0x03 0 (aluWord r.2.1 r.2.2.1 rd ra rb w32) (aluWord r.2.1 r.2.2.1 rd ra rb w32) (s1.core c).pc.toNat

/-- g0 reads 0 and discards writes; every other register reads what was written to it and no other register changes, in whichever
window the names stand. -/
def Sys2Proof.Claims.CoreRegisters : Prop :=
  ∀ (k : Cpu) (r v : Nat), r < 40 → k.wsel ≤ 10 →
    k.reg 0 = 0 ∧ (k.setReg r v).reg r = (if r = 0 then 0 else v % 2 ^ 64) ∧
      (∀ q, q < 40 → q ≠ r → (k.setReg r v).reg q = k.reg q)

/-- The immediates: opcode, constructor, result and flags. -/
def Sys2Proof.immRows : List (Nat × (Nat → BitVec 6 → BitVec 6 → BitVec 14 → Instr) × (Nat → Nat → Nat × Nat)) :=
  [(5, .addi, fun a i => exactRes 64 true (sint 64 a + sint 64 i)), (6, .andi, fun a i => (a &&& i, 0)),
   (7, .ori, fun a i => (a ||| i, 0)), (8, .xori, fun a i => (a ^^^ i, 0))]

/-- ADDI, ANDI, ORI and XORI with a sign-extended 14-bit immediate, LUI and AUIPC with imm20 shifted left by 12. -/
def Sys2Proof.Claims.CoreImmediates : Prop :=
  (∀ r ∈ immRows, ∀ (s s1 : State) (c : Nat) (rd ra : BitVec 6) (imm : BitVec 14),
    Fetched s c s1 → rd.toNat < 40 → ra.toNat < 40 →
      ∃ t, exec (r.2.1 c rd ra imm) s = .next t ∧
        let v := r.2.2 ((s1.core c).reg ra.toNat) (simm 14 imm.toNat)
        CoreOnly s1 t c (atNext (((s1.core c).setReg rd.toNat v.1).orFlag v.2))) ∧
  (∀ (s s1 : State) (c : Nat) (rd : BitVec 6) (imm : BitVec 20), Fetched s c s1 → rd.toNat < 40 →
    (∃ t, exec (.lui c rd imm) s = .next t ∧
      CoreOnly s1 t c (atNext ((s1.core c).setReg rd.toNat (simm 32 (imm.toNat * 4096))))) ∧
    (∃ t, exec (.auipc c rd imm) s = .next t ∧
      CoreOnly s1 t c (atNext ((s1.core c).setReg rd.toNat ((s1.core c).pc.toNat + simm 32 (imm.toNat * 4096))))))

/-- Conditional branches, CALL and JMPL: where the pc goes and what links. Offsets count instructions from the branch itself, which is
the model's reading (notes/assumptions 35). -/
def Sys2Proof.Claims.CoreControlFlow : Prop :=
  ∀ (s s1 : State) (c : Nat), Fetched s c s1 →
    let k := s1.core c
    (∀ (ra rb : BitVec 6) (cond : BitVec 3) (off : BitVec 11), ra.toNat < 40 → rb.toNat < 40 →
      ∃ t, exec (.branch c ra rb cond off) s = .next t ∧
        let a := k.reg ra.toNat
        let b := k.reg rb.toNat
        let word := 0x0F * 2 ^ 26 + ra.toNat * 2 ^ 20 + rb.toNat * 2 ^ 14 + cond.toNat * 2 ^ 11 + off.toNat
        if 6 ≤ cond.toNat then SyncTrapped s1 t c 0x03 0 word word k.pc.toNat
        else
          CoreOnly s1 t c
            { k with
              pc :=
                if (cond = 0 ∧ a = b) ∨ (cond = 1 ∧ a ≠ b) ∨ (cond = 2 ∧ sint 64 a < sint 64 b)
                  ∨ (cond = 3 ∧ sint 64 b ≤ sint 64 a) ∨ (cond = 4 ∧ a < b) ∨ (cond = 5 ∧ b ≤ a)
                then BitVec.ofInt 64 (k.pc.toNat + 4 * sint 11 off.toNat)
                else k.pc + 4 }) ∧
    (∀ off : BitVec 26, ∃ t, exec (.call c off) s = .next t ∧
      CoreOnly s1 t c { (k.setReg 15 (k.pc.toNat + 4)) with pc := BitVec.ofInt 64 (k.pc.toNat + 4 * sint 26 off.toNat) }) ∧
    (∀ (rd ra : BitVec 6) (imm : BitVec 14), rd.toNat < 40 → ra.toNat < 40 →
      ∃ t, exec (.jmpl c rd ra imm) s = .next t ∧
        let to_ := (k.reg ra.toNat + simm 14 imm.toNat) % 2 ^ 64
        if to_ % 4 = 0 then CoreOnly s1 t c { (k.setReg rd.toNat (k.pc.toNat + 4)) with pc := BitVec.ofNat 64 to_ }
        else SyncTrapped s1 t c 0x09 0 to_ (0x11 * 2 ^ 26 + rd.toNat * 2 ^ 20 + ra.toNat * 2 ^ 14 + imm.toNat) k.pc.toNat)

/-- Loads: kind, constructor, bytes, and the register value of the bytes read. -/
def Sys2Proof.loadRows : List (Nat × (Nat → BitVec 6 → BitVec 6 → BitVec 11 → Instr) × Nat × (Nat → Nat)) :=
  [(0, .lb, 1, simm 8), (1, .lbu, 1, id), (2, .lh, 2, simm 16), (3, .lhu, 2, id), (4, .lw, 4, simm 32), (5, .lwu, 4, id),
   (6, .ld, 8, id), (7, .ldAq, 8, id)]

/-- A load reads at ra plus the signed offset. When the access answers bytes, rd receives them, extended as the kind says; when it
traps, rd is unchanged; when another package serves it, the core waits with a read request sent. LD.AQ alone asks for alignment. -/
def Sys2Proof.Claims.CoreLoads : Prop :=
  ∀ r ∈ loadRows, ∀ (s s1 s2 : State) (c : Nat) (rd ra : BitVec 6) (off : BitVec 11) (m : MRes),
    Fetched s c s1 → rd.toNat < 40 → ra.toNat < 40 →
    let va := ((s1.core c).reg ra.toNat + simm 11 off.toNat) % 2 ^ 64
    let word := 0x0B * 2 ^ 26 + rd.toNat * 2 ^ 20 + ra.toNat * 2 ^ 14 + r.1 * 2 ^ 11 + off.toNat
    s1.coreLoad c va r.2.2.1 (r.1 == 7) ((s1.core c).priv == 0) = (s2, m) →
      ∃ t, exec (r.2.1 c rd ra off) s = .next t ∧
        match m with
        | .ok bs => CoreOnly s2 t c (atNext ((s2.core c).setReg rd.toNat (r.2.2.2 (leNat bs))))
        | .trap a d v => SyncTrapped s2 t c a d v word (s2.core c).pc.toNat
        | .waits => t = s2
        | .remote pkg a =>
          let s3 := s2.coreIssue c 1 pkg a r.2.2.1 [] (.core c rd.toNat r.1)
          CoreOnly s3 t c { s3.core c with stalled := true, stallVa := BitVec.ofNat 64 va, stallWord := BitVec.ofNat 32 word }

/-- Stores: kind, constructor, bytes. -/
def Sys2Proof.storeRows : List (Nat × (Nat → BitVec 6 → BitVec 6 → BitVec 11 → Instr) × Nat) :=
  [(0, .sb, 1), (1, .sh, 2), (2, .sw, 4), (3, .sd, 8), (4, .swRl, 4), (5, .sdRl, 8)]

/-- A store writes the low bytes of the data register at ra plus the signed offset and changes no register. SW.RL and SD.RL ask for
alignment, and wait while the core has remote requests without a response. -/
def Sys2Proof.Claims.CoreStores : Prop :=
  ∀ r ∈ storeRows, ∀ (s s1 s2 : State) (c : Nat) (rd ra : BitVec 6) (off : BitVec 11) (m : MRes),
    Fetched s c s1 → rd.toNat < 40 → ra.toNat < 40 →
    let va := ((s1.core c).reg ra.toNat + simm 11 off.toNat) % 2 ^ 64
    let word := 0x0C * 2 ^ 26 + rd.toNat * 2 ^ 20 + ra.toNat * 2 ^ 14 + r.1 * 2 ^ 11 + off.toNat
    let bs := leBytes r.2.2 ((s1.core c).reg rd.toNat)
    s1.coreStore c va bs (decide (4 ≤ r.1)) ((s1.core c).priv == 0) = (s2, m) →
      ∃ t, exec (r.2.1 c rd ra off) s = .next t ∧
        if 4 ≤ r.1 ∧ s1.waitsFor (coreEngine c) = true then t = s1
        else
          match m with
          | .ok _ => CoreOnly s2 t c (atNext (s2.core c))
          | .trap a d v => SyncTrapped s2 t c a d v word (s2.core c).pc.toNat
          | .waits => t = s2
          | .remote pkg a =>
            let s3 := s2.coreIssue c 2 pkg a r.2.2 bs (.core c 0 8)
            CoreOnly s3 t c (atNext (s3.core c))

namespace Sys2Proof

/-- L2 and system cache are off and nothing is cached: accesses go to HBM. -/
def CachesOff (s : State) : Prop :=
  s.cache.lines = [] ∧ s.cache.dir = [] ∧ s.cache.evict = [] ∧ s.levelOn 2 = false ∧ s.levelOn 4 = false

/-- The thread of core `c` uses global addresses, and `va` names the `n` bytes at local address `a` of HBM, none of them poisoned. -/
def PlainHbm (s : State) (c va a n : Nat) : Prop :=
  bit (s.core c).ptroot.toNat 11 = false ∧ s.dest va = .here a ∧ a + n ≤ hbmEnd ∧ 0 < n ∧
    ∀ j, j < n → s.hbm.poisoned (a + j) = false

/-- `t` is `s` with `bs` stored at `a` of HBM, and no other byte changed. What else may differ is the digest leaves hashed before the
write (R441) and the marks of written chunks (R454). -/
def HbmStored (s t : State) (a : Nat) (bs : List Byte) : Prop :=
  (∀ x, mget t.hbm.mem x = if a ≤ x ∧ x < a + bs.length then (bs[x - a]?).getD 0 else mget s.hbm.mem x) ∧
    (∀ b, sget false t.hbm.poison b = sget false s.hbm.poison b) ∧
    t = { s with
          hbm := { s.hbm with mem := t.hbm.mem, poison := t.hbm.poison }, digRun := t.digRun
          ckpt := { s.ckpt with dirty := t.ckpt.dirty } }

end Sys2Proof

/-- With the caches off, what a core loads is the bytes of HBM, what it stores is there afterwards and changes no other byte, and an
atomic answers the old value and leaves the new one. -/
def Sys2Proof.Claims.CoresReachMemory : Prop :=
  ∀ (s : State) (c va a n : Nat) (al user : Bool), CachesOff s → PlainHbm s c va a n → (al = true → va % n = 0) →
    s.coreLoad c va n al user = (s, .ok (mread s.hbm.mem a n)) ∧
    (∀ bs : List Byte, bs.length = n → ∃ t, s.coreStore c va bs al user = (t, .ok []) ∧ HbmStored s t a bs) ∧
    (∀ fn x cmp : Nat, fn ≤ 6 → (n = 4 ∨ n = 8) → va % n = 0 →
      ∃ t, s.coreRmw c fn n va x cmp = (t, .ok (mread s.hbm.mem a n)) ∧
        match atomicNew fn (8 * n) (leNat (mread s.hbm.mem a n)) x cmp with
        | some v => HbmStored s t a (leBytes n v)
        | none => t = s)

/-- An atomic with fn [4] zero and an operation of 0 to 6 gives rd the old value, sign-extended for 4 bytes; with rl it waits for the
core's remote requests; its operation follows R338. -/
def Sys2Proof.Claims.CoreAtomics : Prop :=
  ∀ (s s1 s2 : State) (c : Nat) (rd ra rb : BitVec 6) (fn : BitVec 8) (m : MRes),
    Fetched s c s1 → rd.toNat < 40 → ra.toNat < 40 → rb.toNat < 40 → bit fn.toNat 4 = false → fn.toNat % 16 ≤ 6 →
    let k := s1.core c
    let n := if bit fn.toNat 5 then 8 else 4
    let x := k.reg rb.toNat % 2 ^ (8 * n)
    let cmp := k.reg rd.toNat % 2 ^ (8 * n)
    let word := 0x0D * 2 ^ 26 + rd.toNat * 2 ^ 20 + ra.toNat * 2 ^ 14 + rb.toNat * 2 ^ 8 + fn.toNat
    s1.coreRmw c (fn.toNat % 16) n (k.reg ra.toNat) x cmp = (s2, m) →
      ∃ t, exec (.atomic c rd ra rb fn) s = .next t ∧
        if bit fn.toNat 6 = true ∧ s1.waitsFor (coreEngine c) = true then t = s1
        else
          match m with
          | .ok bs =>
            CoreOnly s2 t c (atNext ((s2.core c).setReg rd.toNat (if n = 8 then leNat bs else simm 32 (leNat bs))))
          | .trap a d v => SyncTrapped s2 t c a d v word (s2.core c).pc.toNat
          | .waits => t = s2
          | .remote pkg a =>
            let data := if fn.toNat % 16 = 6 then leBytes n cmp ++ leBytes n x else leBytes n x
            let s3 := s2.coreIssue c (0x10 + fn.toNat % 16) pkg a n data (.core c rd.toNat (if n = 8 then 17 else 16))
            CoreOnly s3 t c
              { s3.core c with stalled := true, stallVa := BitVec.ofNat 64 (k.reg ra.toNat), stallWord := BitVec.ofNat 32 word }

/-- FENCE.ACQ completes; FENCE.REL and FENCE.FULL complete once no remote request of the core is without a response; TLBINV drops the
cached translations that R333 names. Nothing else changes but the pc. -/
def Sys2Proof.Claims.CoreFences : Prop :=
  ∀ (s s1 : State) (c : Nat), Fetched s c s1 →
    let k := s1.core c
    (∃ t, exec (.fenceAcq c) s = .next t ∧ CoreOnly s1 t c (atNext k)) ∧
    (∀ i ∈ [Instr.fenceRel c, Instr.fenceFull c], ∃ t, exec i s = .next t ∧
      if s1.waitsFor (coreEngine c) then t = s1 else CoreOnly s1 t c (atNext k)) ∧
    (∀ ra rb : BitVec 6, ra.toNat < 40 → rb.toNat < 40 →
      ∃ t, exec (.tlbinv c ra rb) s = .next t ∧
        CoreOnly s1 t c (atNext { k with tlb := (t.core c).tlb }) ∧
        (∀ e, e ∈ (t.core c).tlb ↔
          e ∈ k.tlb ∧ ra ≠ 0 ∧
            ¬(e.vpn = k.reg ra.toNat % 2 ^ 48 / 2 ^ (12 + 9 * e.level)
              ∧ (e.asid = k.reg rb.toNat % 2048 ∨ bit e.leaf.toNat 5 = true))))

/-- SYSCALL and BRK take their traps; XRET restores priv, ie, tw and wsel from XSTATE and jumps to XPC, or is illegal when no trap is
being handled. -/
def Sys2Proof.Claims.CoreTraps : Prop :=
  ∀ (s s1 : State) (c : Nat), Fetched s c s1 →
    let k := s1.core c
    (∀ code : BitVec 12, ∃ t, exec (.syscall c code) s = .next t ∧
      SyncTrapped s1 t c 0x0D 0 code.toNat (0x12 * 2 ^ 26 + code.toNat * 2 ^ 8) (k.pc.toNat + 4)) ∧
    (∃ t, exec (.brk c) s = .next t ∧ SyncTrapped s1 t c 0x0E 0 (0x12 * 2 ^ 26 + 1) (0x12 * 2 ^ 26 + 1) k.pc.toNat) ∧
    (∃ t, exec (.xret c) s = .next t ∧
      if k.xact = false then SyncTrapped s1 t c 0x03 0 (0x12 * 2 ^ 26 + 2) (0x12 * 2 ^ 26 + 2) k.pc.toNat
      else if k.xpc.toNat % 4 = 0 then
        CoreOnly s1 t c
          { k with
            priv := BitVec.ofNat 2 k.xstate.toNat, ie := k.xstate.getLsbD 2, tw := k.xstate.getLsbD 3
            wsel := k.xstate.toNat / 256 % 16, xact := false, pc := k.xpc }
      else SyncTrapped s1 t c 0x09 0 k.xpc.toNat (0x12 * 2 ^ 26 + 2) k.pc.toNat)

/-- A pending enabled interrupt, the lowest, is taken at the instruction boundary, by INTERRUPT_ENTRY and before any instruction; XPC
is the instruction that was not executed. The furrow timer stays pending until its source is cleared; that the other causes are
cleared as they are taken is the model's choice (notes/assumptions 32). -/
def Sys2Proof.Claims.CoreInterrupts : Prop :=
  ∀ (s : State) (c i : Nat), s.coreRuns c = true → (s.core c).ie = true → (s.core c).xact = false → i < 5 →
    (s.core c).ip.getLsbD i = true → (s.core c).ier.getLsbD i = true →
    (∀ j, j < i → ((s.core c).ip.getLsbD j && (s.core c).ier.getLsbD j) = false) →
      ∀ a ∈ Instr.interruptEntry c :: aluRows.map (fun r => r.1 c 1 2 3 false),
        ∃ t u, exec a s = .next t ∧ TrapEntered s u c (0x20 + i) 0 (sget 0 (s.core c).ival i).toNat (s.core c).pc.toNat ∧
          CoreOnly u t c { u.core c with ip := (t.core c).ip, ival := (t.core c).ival } ∧
          (∀ j, j < 5 → (t.core c).ip.getLsbD j = ((s.core c).ip.getLsbD j && (j != i || i == 0)))

/-- The system registers that MFSR reads (R323): number, least privilege, value. -/
def Sys2Proof.srRows (s : State) (c : Nat) : List (Nat × Nat × Nat) :=
  let k := s.core c
  [(0x000, 0, k.resident * 2 ^ 12 + k.wsel * 2 ^ 8 + (if k.xact then 16 else 0) + (if k.tw then 8 else 0)
      + (if k.ie then 4 else 0) + k.priv.toNat),
   (0x001, 0, k.flags.toNat % 128), (0x002, 0, k.fpctl.toNat), (0x003, 0, (s.time.refNs - k.startRef) * 16 / 5),
   (0x004, 0, s.furrow), (0x005, 0, s.time.ns), (0x010, 1, k.xpc.toNat), (0x011, 1, k.xstate.toNat),
   (0x012, 1, k.xcause.toNat), (0x013, 1, k.xval.toNat), (0x014, 1, k.xbase.toNat), (0x015, 1, k.ier.toNat),
   (0x016, 1, k.ip.toNat), (0x017, 1, k.fcmp.toNat), (0x020, 1, k.ptroot.toNat), (0x030, 1, k.spbase.toNat),
   (0x031, 1, k.splimit.toNat), (0x032, 1, k.spptr.toNat), (0x033, 1, k.hi * 16 + k.lo)]

/-- MFSR gives rd the register's value at its privilege and PRIV_INSN below it; an unlisted number is illegal; WFI waits when nothing
is pending. -/
def Sys2Proof.Claims.CoreSystemReads : Prop :=
  ∀ (s s1 : State) (c : Nat), Fetched s c s1 →
    let k := s1.core c
    (∀ (rd : BitVec 6) (sr : BitVec 12), rd.toNat < 40 →
      ∃ t, exec (.mfsr c rd sr) s = .next t ∧
        let word := 0x12 * 2 ^ 26 + rd.toNat * 2 ^ 20 + sr.toNat * 2 ^ 8 + 3
        (∀ r ∈ srRows s1 c, sr.toNat = r.1 →
          if k.priv.toNat < r.2.1 then SyncTrapped s1 t c 0x04 0 word word k.pc.toNat
          else CoreOnly s1 t c (atNext (k.setReg rd.toNat r.2.2))) ∧
        (sr.toNat ∉ 0x018 :: (srRows s1 c).map (fun r => r.1) → SyncTrapped s1 t c 0x03 0 word word k.pc.toNat)) ∧
    (∃ t, exec (.wfi c) s = .next t ∧ CoreOnly s1 t c (atNext { k with run := if k.ip = 0 then .wfi else k.run }))

/-- The system registers that MTSR writes (R323) but ICSEND: number, least privilege, the values it takes, and the thread after it; an
engine register is held while the spill engine works (R321). -/
def Sys2Proof.mtsrRows (s : State) : List (Nat × Nat × (Nat → Bool) × (Cpu → Nat → Cpu)) :=
  [(0x000, 1, fun _ => true, fun k v => { k with tw := bit v 3, ie := bit v 2 }),
   (0x001, 0, fun _ => true, fun k v => { k with flags := BitVec.ofNat 8 (v % 128) }),
   (0x002, 0, fun v => v % 8 != 4 && v % 8 != 6 && v % 8 != 7, fun k v => { k with fpctl := BitVec.ofNat 3 v }),
   (0x003, 0, fun _ => true, fun k _ => k), (0x004, 0, fun _ => true, fun k _ => k), (0x005, 0, fun _ => true, fun k _ => k),
   (0x010, 1, fun _ => true, fun k v => { k with xpc := BitVec.ofNat 64 v }),
   (0x012, 1, fun _ => true, fun k v => { k with xcause := BitVec.ofNat 64 (v % 2 ^ 16) }),
   (0x013, 1, fun _ => true, fun k v => { k with xval := BitVec.ofNat 64 v }),
   (0x014, 1, fun _ => true, fun k v => { k with xbase := BitVec.ofNat 64 (v / 2 ^ 13 * 2 ^ 13) }),
   (0x015, 1, fun _ => true, fun k v => { k with ier := BitVec.ofNat 5 v }),
   (0x016, 0, fun _ => true, fun k _ => k),
   (0x017, 1, fun _ => true, fun k v =>
     { k with
       fcmp := BitVec.ofNat 48 v
       ip := if s.furrow < v % 2 ^ 48 then k.ip &&& 0x1E else k.ip }),
   (0x020, 1, fun _ => true, fun k v => { k with ptroot := BitVec.ofNat 64 v }),
   (0x030, 1, fun _ => true, fun k v => { k with spbase := BitVec.ofNat 64 (v / 128 * 128) }),
   (0x031, 1, fun _ => true, fun k v => { k with splimit := BitVec.ofNat 64 (v / 128 * 128) }),
   (0x032, 1, fun _ => true, fun k v => { k with spptr := BitVec.ofNat 64 (v / 128 * 128) }),
   (0x033, 1, fun v => 2 ≤ v / 16 % 16 && v / 16 % 16 ≤ 9 && 1 ≤ v % 16 && v % 16 < v / 16 % 16,
     fun k v => { k with hi := v / 16 % 16, lo := v % 16 })]

/-- MTSR writes the register, takes PRIV_INSN below its privilege and ILLEGAL_INSN for a value that R323 excludes; XSTATE keeps its
privilege when 2 or 3 is written; ICSEND raises INTER_CORE at a core of the same partition and is ignored for another. -/
def Sys2Proof.Claims.CoreSystemWrites : Prop :=
  ∀ (s s1 : State) (c : Nat) (rs : BitVec 6) (sr : BitVec 12), Fetched s c s1 → rs.toNat < 40 →
    let k := s1.core c
    let v := k.reg rs.toNat
    let word := 0x12 * 2 ^ 26 + rs.toNat * 2 ^ 20 + sr.toNat * 2 ^ 8 + 4
    ∃ t, exec (.mtsr c rs sr) s = .next t ∧
      (∀ r ∈ mtsrRows s1, sr.toNat = r.1 →
        (r.2.2.1 v = false → SyncTrapped s1 t c 0x03 0 word word k.pc.toNat) ∧
        (r.2.2.1 v = true →
          if k.priv.toNat < r.2.1 then SyncTrapped s1 t c 0x04 0 word word k.pc.toNat
          else if 0x030 ≤ r.1 ∧ r.1 ≤ 0x032 ∧ k.engineBusy = true then t = s1
          else CoreOnly s1 t c (atNext (r.2.2.2 k v)))) ∧
      (sr.toNat = 0x011 → 1 ≤ k.priv.toNat →
        CoreOnly s1 t c (atNext { k with xstate := (t.core c).xstate }) ∧
          (t.core c).xstate.toNat % 4 = (if v % 4 < 2 then v % 4 else k.xstate.toNat % 4) ∧
          (t.core c).xstate.getLsbD 2 = v.testBit 2 ∧ (t.core c).xstate.getLsbD 3 = v.testBit 3) ∧
      (sr.toNat = 0x018 → 1 ≤ k.priv.toNat →
        if v % 128 < 96 ∧ s1.corePart (v % 128) = s1.corePart c then
          ((t.core (v % 128)).ip.getLsbD 1 = true ∧ sget 0 (t.core (v % 128)).ival 1 = BitVec.ofNat 64 c ∧
            ∀ j, j ≠ c → j ≠ v % 128 → t.core j = s1.core j)
        else CoreOnly s1 t c (atNext k))


/-! ### Scalar floating point -/

/-- The nine scalar operations of R338 in a format, rounding by a code; the flags are those of R204. -/
def Sys2Proof.fpRows (f : Fmt) (mode a b : Nat) : List (Nat × Nat × Nat) :=
  [(0, fadd f mode a b), (1, fsub f mode a b), (2, fmul f mode a b), (3, fdiv f mode a b), (4, fsqrt f mode a),
   (5, fmaxmin f true a b), (6, fmaxmin f false a b), (7, fabs f a), (8, fneg f a)]

/-- Scalar FP, fused multiply-add, converts and compares with tw 1: the result by R194 to R197 in the destination, flags ORed into FLAGS,
nothing else changed; with tw 0 they raise VECTOR_DISABLED. FP32 results clear bits [63:32] of the FP register (R341). -/
def Obligations.CoreFloat : Prop :=
  ∀ (s s1 : State) (c : Nat), Fetched s c s1 →
    let k := s1.core c
    (∀ (fd fa fb : BitVec 6) (fn : BitVec 8), fn.toNat % 128 < 9 → fd.toNat < 32 → fa.toNat < 32 →
      (fn.toNat % 128 ∈ [4, 7, 8] ∨ fb.toNat < 32) →
      ∃ t, exec (.scalarFp c fd fa fb fn) s = .next t ∧
        if k.tw then
          (let one := fn.getLsbD 7
           ∀ r ∈ fpRows (if one then fp32 else fp64) k.fpctl.toNat (k.fop one fa.toNat) (k.fop one fb.toNat),
             fn.toNat % 128 = r.1 → CoreOnly s1 t c (atNext ((k.setFreg fd.toNat r.2.1).orFlag r.2.2)))
        else
          SyncTrapped s1 t c 0x05 0 (0x13 * 2 ^ 26 + fd.toNat * 2 ^ 20 + fa.toNat * 2 ^ 14 + fb.toNat * 2 ^ 8 + fn.toNat)
            (0x13 * 2 ^ 26 + fd.toNat * 2 ^ 20 + fa.toNat * 2 ^ 14 + fb.toNat * 2 ^ 8 + fn.toNat) k.pc.toNat) ∧
    (k.tw = true → ∀ (fd fa fb fc : BitVec 6) (one neg : Bool),
      fd.toNat < 32 → fa.toNat < 32 → fb.toNat < 32 → fc.toNat < 32 →
      ∃ t, exec (.fusedMultiplyAdd c fd fa fb fc one neg) s = .next t ∧
        let r := ffma (if one then fp32 else fp64) k.fpctl.toNat neg (k.fop one fa.toNat) (k.fop one fb.toNat) (k.fop one fc.toNat)
        CoreOnly s1 t c (atNext ((k.setFreg fd.toNat r.1).orFlag r.2))) ∧
    (k.tw = true → ∀ (rd ra : BitVec 6) (src dst : BitVec 4) (rc : BitVec 3) (wrap : Bool) (x y : NumTy),
      numTy src.toNat = some x → numTy dst.toNat = some y → src.toNat < 8 → dst.toNat < 8 → (rc.toNat < 4 ∨ rc = 5) →
      ra.toNat < (if src.toNat < 4 then 32 else 40) → rd.toNat < (if dst.toNat < 4 then 32 else 40) →
      ∃ t, exec (.convert c rd ra src dst rc wrap 0) s = .next t ∧
        let v := (if src.toNat < 4 then k.freg ra.toNat else k.reg ra.toNat) % 2 ^ x.width
        let r := convNum x y rc.toNat wrap v
        CoreOnly s1 t c
          (atNext ((if dst.toNat < 4 then k.setFreg rd.toNat r.1
            else k.setReg rd.toNat (if dst = 4 then simm 32 r.1 else r.1)).orFlag r.2))) ∧
    (k.tw = true → ∀ (rd fa fb : BitVec 6) (fn : BitVec 8), fn.toNat % 128 < 4 → rd.toNat < 40 → fa.toNat < 32 → fb.toNat < 32 →
      ∃ t, exec (.fpCompare c rd fa fb fn) s = .next t ∧
        let one := fn.getLsbD 7
        let f := if one then fp32 else fp64
        let a := k.fop one fa.toNat
        let b := k.fop one fb.toNat
        let g := fn.toNat % 128
        let r := fcompare f (if g = 0 then 0 else if g = 1 then 2 else if g = 2 then 3 else 6) a b
        CoreOnly s1 t c (atNext ((k.setReg rd.toNat (if r.1 then 1 else 0)).orFlag r.2)) ∧
          (isNan (fdecode f a) = true ∨ isNan (fdecode f b) = true → (r.1 = true ↔ g = 3)))

/-! ### Windows -/

/-- ENTER, LEAVE, LEAVE.J and FSPILL when no wait for the spill engine is needed: the windows overlap as R315 and R316 say, ENTER puts
g15 in n7 of the new window, LEAVE.J continues at n7 of the window being left; while a trap is handled all four are illegal. -/
def Sys2Proof.Claims.CoreWindows : Prop :=
  ∀ (s s1 : State) (c : Nat), Fetched s c s1 → (s1.core c).wsel ≤ 10 →
    let k := s1.core c
    (k.xact = true → ∀ e ∈ [(Instr.enter c, 0), (.leave c, 1), (.leaveJ c, 2), (.fspill c, 3)],
      ∃ t, exec e.1 s = .next t ∧ DoubleTrapped s1 t c 0x03 0 (2 ^ 26 + e.2) (2 ^ 26 + e.2)) ∧
    (k.xact = false → k.resident < 10 →
      ∃ t, exec (.enter c) s = .next t ∧
        CoreOnly s1 t c (atNext { k with wsel := (k.wsel + 1) % 11, resident := k.resident + 1, win := (t.core c).win }) ∧
        (t.core c).reg 31 = k.reg 15 ∧ (∀ i, i < 8 → (t.core c).reg (16 + i) = k.reg (32 + i)) ∧
        (∀ w i, w ≤ 10 → i < 16 → ¬(w = (k.wsel + 1) % 11 ∧ i = 7) →
          sget 0 (t.core c).win (16 * w + i) = sget 0 k.win (16 * w + i))) ∧
    (k.xact = false → 1 < k.resident →
      (∃ t, exec (.leave c) s = .next t ∧
        CoreOnly s1 t c (atNext { k with wsel := (k.wsel + 10) % 11, resident := k.resident - 1 }) ∧
        (∀ i, i < 8 → (t.core c).reg (32 + i) = k.reg (16 + i))) ∧
      (∃ t, exec (.leaveJ c) s = .next t ∧
        if k.reg 31 % 4 = 0 then
          CoreOnly s1 t c
            { k with wsel := (k.wsel + 10) % 11, resident := k.resident - 1, pc := BitVec.ofNat 64 (k.reg 31) }
        else SyncTrapped s1 t c 0x09 0 (k.reg 31) (2 ^ 26 + 2) k.pc.toNat)) ∧
    (k.xact = false → k.resident ≤ 1 → ∃ t, exec (.fspill c) s = .next t ∧ CoreOnly s1 t c (atNext k))

/-- When the file is full or empty and the engine cannot help, ENTER takes SPILL_FULL and LEAVE and LEAVE.J take FILL_EMPTY, XVAL holding
SPPTR and no register changed (R320). -/
def Sys2Proof.Claims.CoreWindowTraps : Prop :=
  ∀ (s s1 : State) (c : Nat), Fetched s c s1 → (s1.core c).xact = false →
    let k := s1.core c
    (k.resident = 10 → k.splimit.toNat < k.spptr.toNat + 128 →
      ∃ t, exec (.enter c) s = .next t ∧ TrapEntered s1 t c 0x06 0 k.spptr.toNat k.pc.toNat) ∧
    (k.resident = 1 → k.spptr.toNat ≤ k.spbase.toNat →
      ∀ i ∈ [Instr.leave c, Instr.leaveJ c], ∃ t, exec i s = .next t ∧ TrapEntered s1 t c 0x07 0 k.spptr.toNat k.pc.toNat)

/-- The registers of a frame's window in a spill record: p0 to p7, then n0 to n7, little-endian (R318). -/
def Sys2Proof.frameBytes (k : Cpu) (w : Nat) : List Byte :=
  ((List.range 8).flatMap fun i => leBytes 8 (sget 0 k.win (16 * ((w + 10) % 11) + 8 + i)).toNat)
    ++ (List.range 8).flatMap fun i => leBytes 8 (sget 0 k.win (16 * w + i)).toNat

/-- The spill engine's background work with the area in plain HBM: SPILL writes the oldest resident frame's 128 bytes at SPPTR and frees
its window; FILL reads the 128 bytes below SPPTR into the window below the oldest resident frame. -/
def Sys2Proof.Claims.CoreSpillEngine : Prop :=
  ∀ (s : State) (c a : Nat), s.engineRuns c = true → CachesOff s → (s.core c).wsel ≤ 10 → (s.core c).resident ≤ 10 →
    let k := s.core c
    (k.hi < k.resident → 1 < k.resident → k.spptr.toNat + 128 ≤ k.splimit.toNat → PlainHbm s c k.spptr.toNat a 128 →
      ∃ t u, exec (.spill c) s = .next t ∧ HbmStored s u a (frameBytes k ((k.wsel + 11 - (k.resident - 1)) % 11)) ∧
        CoreOnly u t c { k with resident := k.resident - 1, spptr := k.spptr + 128 }) ∧
    (k.resident < k.lo → 1 ≤ k.resident → k.resident < 10 → k.spbase.toNat < k.spptr.toNat →
      PlainHbm s c (k.spptr.toNat - 128) a 128 →
      ∃ t, exec (.fill c) s = .next t ∧
        CoreOnly s t c { k with resident := k.resident + 1, spptr := k.spptr - 128, win := (t.core c).win } ∧
        frameBytes (t.core c) ((k.wsel + 11 - k.resident) % 11) = mread s.hbm.mem a 128)

/-! ### Cache maintenance by cores -/

/-- The by-address operations of R380: function, constructor, supervisor only, whether it is translated as a store, and what it does to
the line. -/
def Sys2Proof.cacheVaRows : List (Nat × (Nat → BitVec 6 → Instr) × Bool × Use × (Nat → State → Nat → State)) :=
  [(0x10, .cleanVa, false, .read, fun _ s l => s.cleanLine l),
   (0x11, .invVa, true, .write, fun _ s l => (s.discardLine l).discardSc l),
   (0x12, .clinvVa, false, .read, fun _ s l => (s.cleanLine l).discardLine l),
   (0x13, .zeroVa, false, .write, fun c s l => s.zeroOwn c l),
   (0x14, .invzeroVa, true, .write, fun _ s l => s.zeroHome l),
   (0x15, .cleanVaMem, false, .read, fun _ s l => (s.cleanLine l).flushSc l),
   (0x16, .clinvVaMem, false, .read, fun _ s l => (((s.cleanLine l).flushSc l).discardLine l).discardSc l)]

/-- A by-address operation acts on the line of x[ra] when its address lies in local HBM and nothing holds the line back, is without effect
elsewhere, is PRIV_INSN for a user where R380 asks for the supervisor, and takes DATA_PAGE_FAULT when translation fails. Afterwards the
core's registers are as before. -/
def Sys2Proof.Claims.CoreCacheByAddress : Prop :=
  ∀ r ∈ cacheVaRows, ∀ (s s1 s2 : State) (c : Nat) (ra : BitVec 6) (x : Xlat), Fetched s c s1 → ra.toNat < 40 →
    let k := s1.core c
    let word := 0x0E * 2 ^ 26 + ra.toNat * 2 ^ 14 + r.1
    s1.translate c (k.reg ra.toNat) r.2.2.2.1 (k.priv == 0) = (s2, x) →
    ∃ t, exec (r.2.1 c ra) s = .next t ∧
      if r.2.2.1 = true ∧ k.priv = 0 then SyncTrapped s1 t c 0x04 0 word word k.pc.toNat
      else
        match x with
        | .fault d => SyncTrapped s2 t c 0x0A d (k.reg ra.toNat) word (s2.core c).pc.toNat
        | .ok g =>
          match s2.dest g with
          | .here a =>
            if a < hbmEnd then
              (if (s2.maintHeld (a / 64)).2 then t = (s2.maintHeld (a / 64)).1
               else
                 let u := r.2.2.2.2 c (s2.maintHeld (a / 64)).1 (a / 64)
                 CoreOnly u t c (atNext (u.core c)) ∧ t.cores = (s2.setCore c (atNext (s2.core c))).cores)
            else CoreOnly s2 t c (atNext (s2.core c))
          | _ => CoreOnly s2 t c (atNext (s2.core c))

/-- What the maintenance operations leave of a line: discarding leaves no entry of it in the system cache, and no entry in the caches of a
listed holder; zeroing at the home leaves 64 zero bytes in HBM and no poison. -/
def Sys2Proof.Claims.CacheMaintenance : Prop :=
  ∀ (s : State) (line : Nat),
    (∀ e ∈ ((s.discardLine line).discardSc line).cache.lines,
      e.2.line = line → ¬(keyLevel e.1 = 4) ∧ ¬(keyLevel e.1 ≤ 3 ∧ keyHolder e.1 ∈ s.holdersOf line)) ∧
    (line < hbmEnd / 64 →
      (∀ j, j < 64 → mget (s.zeroHome line).hbm.mem (64 * line + j) = 0) ∧ (s.zeroHome line).hbm.poisoned (64 * line) = false)

/-- The set/way operations of R381 in supervisor mode act on one entry: CLEAN.SW keeps it, INV.SW and CLINV.SW remove it; a value that is
out of range is illegal. WIN starts a window operation, release when rb is g0. -/
def Sys2Proof.Claims.CoreCacheBySet : Prop :=
  ∀ (s s1 : State) (c : Nat) (ra : BitVec 6), Fetched s c s1 → ra.toNat < 40 →
    let k := s1.core c
    let word := fun (fn : Nat) => 0x0E * 2 ^ 26 + ra.toNat * 2 ^ 14 + fn
    (∀ r ∈ [((0x18 : Nat), Instr.cleanSw c ra), (0x19, .invSw c ra), (0x1A, .clinvSw c ra)],
      ∃ t, exec r.2 s = .next t ∧
        match swKey c (k.reg ra.toNat) with
        | none => SyncTrapped s1 t c 0x03 0 (word r.1) (word r.1) k.pc.toNat
        | some e =>
          if k.priv = 0 then SyncTrapped s1 t c 0x04 0 (word r.1) (word r.1) k.pc.toNat
          else
            t.cores = (s1.setCore c (atNext k)).cores ∧
              (r.1 = 0x19 ∨ r.1 = 0x1A → sfind? t.cache.lines e = none)) ∧
    (∀ rb : BitVec 6, rb.toNat < 40 →
      ∃ t, exec (.win c ra rb) s = .next t ∧
        if k.priv = 0 then
          SyncTrapped s1 t c 0x04 0 (0x0E * 2 ^ 26 + ra.toNat * 2 ^ 14 + rb.toNat * 2 ^ 8 + 0x17)
            (0x0E * 2 ^ 26 + ra.toNat * 2 ^ 14 + rb.toNat * 2 ^ 8 + 0x17) k.pc.toNat
        else
          let w := k.reg ra.toNat % 8
          let u := if s1.flag (aCacheWinBase w) 0 then
              { s1 with cache := { s1.cache with wins := s1.cache.wins ++ [(w, rb != 0)] } }
            else s1
          CoreOnly u t c (atNext k))

/-! ### Twill -/

namespace Sys2Proof

/-- Elements of v_vd, `w` bits wide, after an instruction: an enabled active element is `f`'s, a disabled one is kept or zero under mz, an
element from vl up and every other register is kept; FLAGS takes the flags of the enabled elements; nothing else of the thread changes. -/
def LanesWritten (k k' : Cpu) (vd w mk : Nat) (mz : Bool) (f : Nat → Nat × Nat) : Prop :=
  (∀ i, k'.vel vd w i =
    if i < k.vl then (if k.vOn mk i then (f i).1 % 2 ^ w else if mz then 0 else k.vel vd w i) else k.vel vd w i) ∧
  (∀ n, n < vd → k'.vreg n = k.vreg n) ∧
  (∀ b, b < 7 → (k'.flags.getLsbD b = true ↔
    k.flags.getLsbD b = true ∨ ∃ i, i < k.vl ∧ k.vOn mk i = true ∧ (f i).2.testBit b = true)) ∧
  k' = { k with vr := k'.vr, flags := k'.flags }

/-- `t` is `s1` with the thread of core `c` moved to the next instruction from `k'`. -/
def ThreadMoved (s1 t : State) (c : Nat) (k' : Cpu) : Prop := CoreOnly s1 t c (atNext k')

/-- A register number names an operand of group G. -/
def InGroup (n g : Nat) : Prop := n % g = 0 ∧ n + g ≤ 32

/-- The integer functions of R348 on lanes of `w` bits: number, whether a checked variant traps, result and flags. -/
def twillIntRows (w : Nat) (sg : Bool) (a b : Nat) : List (Nat × Bool × (Nat × Nat)) :=
  let v := fun (x : Nat) => ival w sg x
  [(0, false, exactRes w true (sint w a + sint w b)), (1, false, exactRes w true (sint w a - sint w b)),
   (2, false, exactRes w true (sint w a * sint w b)), (3, false, ((v a * v b / 2 ^ w % 2 ^ w).toNat, 0)),
   (4, false, if v b = 0 then (0, fDZ) else exactRes w sg (Int.tdiv (v a) (v b))),
   (5, false, if v b = 0 then (a, fDZ) else ((Int.tmod (v a) (v b) % 2 ^ w).toNat, 0)),
   (6, false, clampRes w (imin w sg) (imax w sg) (v a + v b)), (7, false, clampRes w (imin w sg) (imax w sg) (v a - v b)),
   (8, false, exactRes w true (-sint w a)), (9, false, exactRes w true (if sint w a < 0 then -sint w a else sint w a)),
   (10, decide (sint w a = -(2 ^ (w - 1))), exactRes w true (-sint w a)),
   (11, decide (sint w a = -(2 ^ (w - 1))), exactRes w true (if sint w a < 0 then -sint w a else sint w a)),
   (12, decide (v b = 0 ∨ (sg = true ∧ sint w a = -(2 ^ (w - 1)) ∧ sint w b = -1)), exactRes w sg (Int.tdiv (v a) (v b))),
   (13, false, (a &&& b, 0)), (14, false, (a ||| b, 0)), (15, false, (a ^^^ b, 0)),
   (16, false, (if w ≤ b then 0 else a * 2 ^ b % 2 ^ w, 0)), (17, false, (if w ≤ b then 0 else a / 2 ^ b, 0)),
   (18, false, (if w ≤ b then (if sint w a < 0 then 2 ^ w - 1 else 0) else (sint w a / 2 ^ b % 2 ^ w).toNat, 0)),
   (19, false, (a * 2 ^ (b % w) % 2 ^ w + a / 2 ^ (w - b % w), 0)),
   (20, false, (if v a ≤ v b then a else b, 0)), (21, false, (if v a ≤ v b then b else a, 0))]

end Sys2Proof

/-- VCFG grants min(x[ra], VLMAX) with VLMAX = 512 G / w, writes it to rd, and changes nothing else of the vector state. -/
def Obligations.TwillConfig : Prop :=
  ∀ (s s1 : State) (c : Nat) (rd ra : BitVec 6) (wcode glog2 : BitVec 2), Fetched s c s1 → (s1.core c).tw = true →
    rd.toNat < 40 → ra.toNat < 40 →
      ∃ t, exec (.vcfg c rd ra wcode glog2 0) s = .next t ∧
        let k := s1.core c
        let w := 8 * 2 ^ wcode.toNat
        let g := 2 ^ glog2.toNat
        let vl := Nat.min (k.reg ra.toNat) (512 * g / w)
        CoreOnly s1 t c (atNext (({ k with vcfg := (t.core c).vcfg } : Cpu).setReg rd.toNat vl)) ∧
          (t.core c).vl = vl ∧ (t.core c).vw = w ∧ (t.core c).vg = g ∧ 8 ≤ 512 * g / w ∧ 512 * g / w ≤ 512

/-- Integer lanes: every function of R348 on every enabled active element, signed or unsigned where fn [7] may choose; a checked variant that
traps on an enabled element writes nothing and takes ARITH; with tw 0 VECTOR_DISABLED is taken. -/
def Sys2Proof.Claims.TwillIntegers : Prop :=
  ∀ (s s1 : State) (c : Nat) (f : VRFields), Fetched s c s1 →
    let k := s1.core c
    let g := f.fn.toNat % 128
    let op := fun (i : Nat) =>
      twillIntRows k.vw (!(f.fn.getLsbD 7)) (k.vel f.va.toNat k.vw i) (k.vel f.vb.toNat k.vw i)
    g < 22 → (f.fn.getLsbD 7 = true → g ∈ [3, 4, 5, 6, 7, 12, 20, 21]) →
    InGroup f.vd.toNat k.vg → InGroup f.va.toNat k.vg → (g ∈ [8, 9, 10, 11] ∨ InGroup f.vb.toNat k.vg) →
      ∃ t, exec (.twillInteger c f) s = .next t ∧
        let word := 0x21 * 2 ^ 26 + f.vd.toNat * 2 ^ 21 + f.va.toNat * 2 ^ 16 + f.vb.toNat * 2 ^ 11 + f.mask.toNat * 2 ^ 9
          + (if f.mz then 256 else 0) + f.fn.toNat
        if k.tw = false then SyncTrapped s1 t c 0x05 0 word word k.pc.toNat
        else if ∃ i, i < k.vl ∧ k.vOn f.mask.toNat i = true ∧ ∃ r ∈ op i, r.1 = g ∧ r.2.1 = true then
          SyncTrapped s1 t c 0x0C 0 word word k.pc.toNat
        else
          ∃ k', ThreadMoved s1 t c k' ∧
            LanesWritten k k' f.vd.toNat k.vw f.mask.toNat f.mz fun i => ((op i).find? fun r => r.1 == g).elim (0, 0) fun r => r.2.2

/-- FP lanes of 32 or 64 bits: the scalar operations, and the two fused multiply-adds into vd. -/
def Sys2Proof.Claims.TwillFloats : Prop :=
  ∀ (s s1 : State) (c : Nat) (f : VRFields), Fetched s c s1 →
    let k := s1.core c
    let g := f.fn.toNat
    let m := if k.vw = 32 then fp32 else fp64
    k.tw = true → g < 11 → (k.vw = 32 ∨ k.vw = 64) → InGroup f.vd.toNat k.vg → InGroup f.va.toNat k.vg →
    (g ∈ [4, 7, 8] ∨ InGroup f.vb.toNat k.vg) →
      ∃ t k', exec (.twillFp c f) s = .next t ∧ ThreadMoved s1 t c k' ∧
        LanesWritten k k' f.vd.toNat k.vw f.mask.toNat f.mz fun i =>
          let a := k.vel f.va.toNat k.vw i
          let b := k.vel f.vb.toNat k.vw i
          if g = 9 then ffma m k.fpctl.toNat false a b (k.vel f.vd.toNat k.vw i)
          else if g = 10 then ffma m k.fpctl.toNat true a b (k.vel f.vd.toNat k.vw i)
          else ((fpRows m k.fpctl.toNat a b).find? fun r => r.1 == g).elim (0, 0) fun r => r.2

/-- Integer compares write bit i of k[vd] for each enabled active element and keep every bit from vl up and every other mask; FP compares
do the same with R197's conditions. -/
def Sys2Proof.Claims.TwillCompares : Prop :=
  ∀ (s s1 : State) (c : Nat) (f : VRFields), Fetched s c s1 →
    let k := s1.core c
    let g := f.fn.toNat % 128
    let fp := f.fn.getLsbD 7
    k.tw = true → 0 < f.vd.toNat → f.vd.toNat < 4 → (if fp then g < 5 ∧ (k.vw = 32 ∨ k.vw = 64) else g < 6) →
    InGroup f.va.toNat k.vg → InGroup f.vb.toNat k.vg → k.vl ≤ 512 →
      ∃ t k', exec (.twillCompare c f) s = .next t ∧ ThreadMoved s1 t c k' ∧
        k' = { k with km := k'.km, flags := k'.flags } ∧ (∀ n, n ≠ f.vd.toNat → sget 0 k'.km n = sget 0 k.km n) ∧
        (fp = false → k'.flags.toNat = k.flags.toNat ∨ k'.flags.toNat = k.flags.toNat % 128) ∧
        (∀ i, i < 512 →
          let a := k.vel f.va.toNat k.vw i
          let b := k.vel f.vb.toNat k.vw i
          let old := (sget 0 k.km f.vd.toNat).getLsbD i
          (sget 0 k'.km f.vd.toNat).getLsbD i =
            if k.vl ≤ i then old
            else if k.vOn f.mask.toNat i = false then (if f.mz then false else old)
            else if fp then
              (fcompare (if k.vw = 32 then fp32 else fp64) (if g = 4 then 6 else g) a b).1
            else
              decide ((g = 0 ∧ a = b) ∨ (g = 1 ∧ a ≠ b) ∨ (g = 2 ∧ sint k.vw a < sint k.vw b)
                ∨ (g = 3 ∧ sint k.vw a ≤ sint k.vw b) ∨ (g = 4 ∧ a < b) ∨ (g = 5 ∧ a ≤ b)))

/-- Widening products into elements of 2w bits, alone or added to vd; dot products of four bytes; DOT2 with one rounding. The function field
of the command's word is the row's own. -/
def Obligations.TwillProducts : Prop :=
  ∀ (s s1 : State) (c : Nat) (f : VRFields), Fetched s c s1 →
    let k := s1.core c
    let el := fun (n w i : Nat) => k.vel n w i
    k.tw = true →
    (∀ r ∈ [(Instr.wmul c f, true, false), (.wmulu c f, false, false), (.wmacc c f, true, true), (.wmaccu c f, false, true)],
      k.vw ≠ 64 → k.vg ≠ 8 → InGroup f.vd.toNat (2 * k.vg) → InGroup f.va.toNat k.vg → InGroup f.vb.toNat k.vg →
      ∃ t k', exec r.1 s = .next t ∧ ThreadMoved s1 t c k' ∧
        LanesWritten k k' f.vd.toNat (2 * k.vw) f.mask.toNat f.mz fun i =>
          let p := ival k.vw r.2.1 (el f.va.toNat k.vw i) * ival k.vw r.2.1 (el f.vb.toNat k.vw i)
          if r.2.2 then exactRes (2 * k.vw) r.2.1 (ival (2 * k.vw) r.2.1 (el f.vd.toNat (2 * k.vw) i) + p)
          else ((p % 2 ^ (2 * k.vw)).toNat, 0)) ∧
    (∀ r ∈ [(Instr.dot4 c f, true), (.dot4u c f, false)],
      k.vw = 32 → InGroup f.vd.toNat k.vg → InGroup f.va.toNat k.vg → InGroup f.vb.toNat k.vg →
      ∃ t k', exec r.1 s = .next t ∧ ThreadMoved s1 t c k' ∧
        LanesWritten k k' f.vd.toNat 32 f.mask.toNat f.mz fun i =>
          exactRes 32 true (sint 32 (el f.vd.toNat 32 i)
            + ((List.range 4).map fun j =>
                ival 8 r.2 (el f.va.toNat 32 i / 2 ^ (8 * j) % 256) * ival 8 r.2 (el f.vb.toNat 32 i / 2 ^ (8 * j) % 256)).sum)) ∧
    (k.vw = 32 → InGroup f.vd.toNat k.vg → InGroup f.va.toNat k.vg → InGroup f.vb.toNat k.vg →
      ∃ t k', exec (.dot2 c f) s = .next t ∧ ThreadMoved s1 t c k' ∧
        LanesWritten k k' f.vd.toNat 32 f.mask.toNat f.mz fun i =>
          dot2Lane k.fpctl.toNat (el f.va.toNat 32 i) (el f.vb.toNat 32 i) (el f.vd.toNat 32 i))

/-- Converts between the element types, the destination's group following R352; moves; and reduces in ascending order from element 0 of
vb. -/
def Sys2Proof.Claims.TwillConvertsMovesReduces : Prop :=
  ∀ (s s1 : State) (c : Nat) (f : VRFields), Fetched s c s1 →
    let k := s1.core c
    k.tw = true →
    (∀ x y : NumTy, numTy (f.vb.toNat / 2) = some x → numTy (f.fn.toNat / 16) = some y → f.vb.toNat % 2 = 0 →
      (f.fn.toNat / 2 % 8 < 4 ∨ f.fn.toNat / 2 % 8 = 5) → x.width = k.vw →
      (let g := if y.width ≤ x.width then k.vg else k.vg * y.width / x.width
       g ≤ 8 ∧ InGroup f.vd.toNat g) → InGroup f.va.toNat k.vg →
      ∃ t k', exec (.twillConvert c f) s = .next t ∧ ThreadMoved s1 t c k' ∧
        LanesWritten k k' f.vd.toNat y.width f.mask.toNat f.mz fun i =>
          convNum x y (f.fn.toNat / 2 % 8) (f.fn.getLsbD 0) (k.vel f.va.toNat k.vw i)) ∧
    (∃ t, exec (.twillMove c f) s = .next t ∧
      (f.fn = 0 → InGroup f.vd.toNat k.vg → InGroup f.va.toNat k.vg →
        ∃ k', ThreadMoved s1 t c k' ∧
          LanesWritten k k' f.vd.toNat k.vw f.mask.toNat f.mz fun i => (k.vel f.va.toNat k.vw i, 0)) ∧
      (f.fn = 1 → InGroup f.vd.toNat k.vg →
        ∃ k', ThreadMoved s1 t c k' ∧
          LanesWritten k k' f.vd.toNat k.vw f.mask.toNat f.mz fun _ => (k.reg f.va.toNat, 0)) ∧
      (f.fn = 2 → InGroup f.va.toNat k.vg → ThreadMoved s1 t c (k.setReg f.vd.toNat (k.vel f.va.toNat k.vw 0))) ∧
      (f.fn = 3 → 0 < f.vd.toNat → f.vd.toNat < 4 →
        ThreadMoved s1 t c { k with km := (t.core c).km } ∧ sget 0 (t.core c).km f.vd.toNat = k.ff) ∧
      (f.fn = 4 → 0 < f.va.toNat → f.va.toNat < 4 → ThreadMoved s1 t c { k with ff := sget 0 k.km f.va.toNat }) ∧
      (f.fn = 5 → 0 < f.vd.toNat → f.vd.toNat < 4 →
        ThreadMoved s1 t c { k with km := (t.core c).km } ∧ (sget 0 (t.core c).km f.vd.toNat).toNat = k.vreg f.va.toNat) ∧
      (f.fn = 6 → 0 < f.va.toNat → f.va.toNat < 4 →
        ThreadMoved s1 t c { k with vr := (t.core c).vr } ∧ (t.core c).vreg f.vd.toNat = (sget 0 k.km f.va.toNat).toNat ∧
          ∀ n, n ≠ f.vd.toNat → (t.core c).vreg n = k.vreg n) ∧
      (f.fn = 7 → ThreadMoved s1 t c (k.setReg f.vd.toNat k.vcfg.toNat))) ∧
    (f.fn.getLsbD 7 = false → f.fn.toNat < 6 →
      InGroup f.vd.toNat k.vg → InGroup f.va.toNat k.vg → InGroup f.vb.toNat k.vg →
      ∃ t k', exec (.twillReduce c f) s = .next t ∧ ThreadMoved s1 t c k' ∧
        k' = { k with vr := k'.vr, flags := k'.flags } ∧
        (∀ i, 0 < i → k'.vel f.vd.toNat k.vw i = k.vel f.vd.toNat k.vw i) ∧
        (0 < k.vl → f.fn.toNat ∈ [0, 3, 4, 5] →
          k'.vel f.vd.toNat k.vw 0 =
            (((List.range k.vl).filter fun i => k.vOn f.mask.toNat i).foldl
              (fun r i =>
                let a := k.vel f.va.toNat k.vw i
                if f.fn = 0 then (r + a) % 2 ^ k.vw else if f.fn = 3 then r &&& a else if f.fn = 4 then r ||| a else r ^^^ a)
              (k.vel f.vb.toNat k.vw 0))))

/-- Vector loads and stores of plain HBM with the caches off: each enabled element is read from, or written to, its address of R355;
where elements of a store overlap the highest one remains; no other byte of memory changes. A first-fault load that meets no fault sets
ff below vl. -/
def Obligations.TwillMemory : Prop :=
  ∀ (s s1 : State) (c : Nat) (f : VMFields) (indexed : Bool) (a : Nat → Nat), Fetched s c s1 → CachesOff s1 →
    let k := s1.core c
    let n := k.vw / 8
    let va := fun (i : Nat) =>
      if indexed then (k.reg f.ra.toNat + k.vel (f.rb.toNat / 2) k.vw i * 2 ^ f.scale.toNat) % 2 ^ 64
      else if f.rb = 0 then (k.reg f.ra.toNat + i * n) % 2 ^ 64
      else (((k.reg f.ra.toNat : Int) + i * sint 64 (k.reg f.rb.toNat)) % 2 ^ 64).toNat
    let on := fun (i : Nat) => i < k.vl ∧ k.vOn f.mask.toNat i = true
    k.tw = true → k.vjob = none → f.low = 0 → f.ra.toNat < 40 → InGroup f.vd.toNat k.vg →
    (if indexed then f.rb.toNat % 2 = 0 ∧ InGroup (f.rb.toNat / 2) k.vg else f.rb.toNat < 40) →
    (∀ i, on i → PlainHbm s1 c (va i) (a i) n) →
      (∃ t k', exec (if indexed then .vgather c f else .vld c f) s = .next t ∧ ThreadMoved s1 t c k' ∧
        k' = { k with vr := k'.vr, ff := k'.ff } ∧
        (∀ i, k'.vel f.vd.toNat k.vw i =
          if i < k.vl then
            (if k.vOn f.mask.toNat i then leNat (mread s1.hbm.mem (a i) n) else if f.mz then 0 else k.vel f.vd.toNat k.vw i)
          else k.vel f.vd.toNat k.vw i) ∧
        (k'.ff = if f.ff then BitVec.ofNat 512 (2 ^ k.vl - 1) else k.ff)) ∧
      (∃ t, exec (if indexed then .vscatter c f else .vst c f) s = .next t ∧
        (∀ x, (∀ i, on i → x < a i ∨ a i + n ≤ x) → mget t.hbm.mem x = mget s1.hbm.mem x) ∧
        (∀ i j, on i → j < n → (∀ e, on e → i < e → a i + j < a e ∨ a e + n ≤ a i + j) →
          mget t.hbm.mem (a i + j) = ((leBytes n (k.vel f.vd.toNat k.vw i))[j]?).getD 0) ∧
        t.core c = atNext k ∧ (∀ e, e ≠ c → t.core e = s1.core e))

/-! ### A core's events -/

/-- CORE_START from halted or double trap begins the thread of R314; CORE_HALT keeps the registers; the timer and device interrupts become
pending, ending WFI; the steward monitor takes up a double trap (R330). -/
def Sys2Proof.Claims.CoreEvents : Prop :=
  ∀ (s : State) (c : Nat), s.up = true → c < 96 →
    let k := s.core c
    ((k.run = .halted ∨ k.run = .doubleTrap) →
      ∃ t, exec (.coreStart c) s = .next t ∧ (∀ j, j ≠ c → t.core j = s.core j) ∧
        let u := t.core c
        u.run = .running ∧ u.pc = BitVec.ofNat 64 (s.rd (aCpuCoreEntry c)) ∧ u.priv = 1 ∧ bit u.ptroot.toNat 11 = false ∧
          u.ie = false ∧ u.tw = false ∧ u.xact = false ∧ u.wsel = 0 ∧ u.resident = 1 ∧ (∀ r, r < 40 → u.reg r = 0) ∧
          (∀ n, n < 32 → u.vreg n = 0) ∧ u.ff = 0 ∧ u.vcfg = 0 ∧ u.flags = 0 ∧ u.fpctl = 0 ∧ u.gated = k.gated ∧
          t = { s with cores := t.cores, fab := { s.fab with outst := t.fab.outst } }) ∧
    ((k.run = .running ∨ k.run = .wfi) →
      (∃ t, exec (.coreStart c) s = .next t ∧ t.cores = s.cores ∧ t = s.setFlag aCpuStatus 63) ∧
      (∃ t, exec (.coreHalt c) s = .next t ∧ CoreOnly s t c { k with run := .halted, haltFurrow := s.furrow }) ∧
      (∀ source : W64, ∃ t, exec (.externalInterrupt c source) s = .next t ∧
        CoreOnly s t c { k with ip := k.ip ||| 4, ival := (t.core c).ival, run := .running } ∧
        sget 0 (t.core c).ival 2 = source) ∧
      (k.fcmp.toNat ≤ s.furrow → ∃ t, exec (.furrowTimer c) s = .next t ∧
        CoreOnly s t c { k with ip := k.ip ||| 1, ival := (t.core c).ival, run := .running } ∧ sget 0 (t.core c).ival 0 = 0)) ∧
    (k.run = .frozen → ∃ t, exec (.doubleTrapMonitor c) s = .next t ∧ (t.core c).run = .doubleTrap ∧
      t.flag aCpuStatus 62 = true ∧ (t.ras.recs.getLast?).map (fun e => byteOf e.2 0) = some 9 ∧
      (∀ i, i < 24 → (t.ras.recs.getLast?).map (fun e => byteOf e.2 (40 + i)) =
        some ((sget 0 k.shadow (i / 8)).toNat / 2 ^ (8 * (i % 8)) % 256)) ∧
      (∀ j, j < 96 → j ≠ c → s.corePart j = s.corePart c → (s.core j).started = true →
        (t.core j).ip.getLsbD 3 = true ∧ sget 0 (t.core j).ival 3 = BitVec.ofNat 64 c))

/-- A fetch leaves every thread as it was, but for the translations that the fetching core caches, and the queue and time unchanged. -/
def Sys2Proof.Claims.FetchKeepsThreads : Prop :=
  ∀ (s s1 : State) (c : Nat) (m : MRes), s.coreFetch c = (s1, m) →
    s1.core c = { s.core c with tlb := (s1.core c).tlb } ∧ (∀ j, j ≠ c → s1.core j = s.core j) ∧
      s1.pending = s.pending ∧ s1.time = s.time ∧ s1.tiles = s.tiles ∧ s1.queues = s.queues


/-! ### Tiles: the control core -/

namespace Sys2Proof

/-- `u` is `s` but for tile `k`, which is `x`. -/
def TileOnly (s u : State) (k : Nat) (x : Tile) : Prop :=
  u.tile k = x ∧ (∀ j, j ≠ k → u.tile j = s.tile j) ∧ u = { s with tiles := u.tiles }

/-- An exception is raised at tile `k` by a slot of the `ord`-th bundle issued (R143 to R145): no bundle issues any more, entries that
have not started are discarded, and of two exceptions the earlier in program order is kept with exc_more set. -/
def TileRaised (s u : State) (k ord bundle slot cause : Nat) : Prop :=
  let x := s.tile k
  let w := BitVec.ofNat 64
    (bundle % 4096 * 2 ^ 32 + slot * 2 ^ 24 + ((s.logical? k).getD 0) * 2 ^ 16 + k / 156 * 2 ^ 8 + cause)
  let keep := x.excPend.filter fun v => v.1 ≤ 4 * ord + slot
  TileOnly s u k
    { x with
      excPend := some (keep.getD (4 * ord + slot, w)), excMore := x.excMore || x.excPend.isSome, stopped := true
      fwait := .free, atSafe := false, qm := [], qv := [], qx := [] }

/-- Tile `k` of partition `p` may issue the bundle at its pc: nothing holds it, its slots are legal, its queues have room and the take
token of its S slot is there. -/
def MayIssue (s : State) (k p : Nat) : Prop :=
  let x := s.tile k
  let b := sget 0 x.bundles x.pc
  s.tilePart? k = some p ∧ s.tileRuns k = true ∧ x.stopped = false ∧ x.excPend = none ∧ x.atSafe = false ∧
    s.winBusy p false = false ∧ x.pc < s.imageCount p ∧ (∀ n, n < 4 → slotIllegal b n = false) ∧
    x.roomFor .m (bundleSlot b 1) = true ∧ x.roomFor .v (bundleSlot b 2) = true ∧ x.roomFor .x (bundleSlot b 3) = true ∧
    x.canTake (slotTake (bundleSlot b 0)) = true

/-- A scalar result of an S slot (R131, R203): op, the legal condition, and the new value of rd from rd, rs, rt and the immediates. -/
def sRows (o d rs rt : Nat) : List (Nat × Bool × Nat) :=
  let imm := sint 9 o
  [(0x01, true, ((rs + imm) % 2 ^ 64).toNat), (0x03, true, (d * 2 ^ 14 + o % 2 ^ 14) % 2 ^ 64),
   (0x02, o % 16 == 0, (rs + rt) % 2 ^ 64), (0x02, o % 16 == 1, (((rs : Int) - rt) % 2 ^ 64).toNat),
   (0x02, o % 16 == 2, rs &&& rt), (0x02, o % 16 == 3, rs ||| rt), (0x02, o % 16 == 4, rs ^^^ rt),
   (0x02, o % 16 == 5, if 64 ≤ rt then 0 else rs * 2 ^ rt % 2 ^ 64), (0x02, o % 16 == 6, if 64 ≤ rt then 0 else rs / 2 ^ rt),
   (0x02, o % 16 == 7,
     if 64 ≤ rt then (if sint 64 rs < 0 then 2 ^ 64 - 1 else 0) else (sint 64 rs / 2 ^ rt % 2 ^ 64).toNat),
   (0x02, o % 16 == 8, rs * rt % 2 ^ 64), (0x02, o % 16 == 9, if sint 64 rs < sint 64 rt then 1 else 0),
   (0x02, o % 16 == 10, if rs < rt then 1 else 0)]

/-- The tile after the bundle's takes and queue entries, its pc at the next bundle: what the S slot acts on. -/
def issuedTile (x : Tile) : Tile :=
  let b := sget 0 x.bundles x.pc
  let w := bundleSlot b 0
  let tok := if slotTake w = 0 ∨ slotOp w = 0x0A then x.tok else sput 0 x.tok (slotTake w) (sget 0 x.tok (slotTake w) - 1)
  let ent := fun (e : Engine) (n : Nat) =>
    if slotQueues (bundleSlot b n) then [({ x with tok := tok } : Tile).entry e (bundleSlot b n) x.pc] else []
  { x with
    tok := tok, qm := x.qm ++ ent .m 1, qv := x.qv ++ ent .v 2, qx := x.qx ++ ent .x 3
    pc := (x.pc + 1) % 2 ^ 13, issued := x.issued + 1, fwait := .free }

/-- The S slot's post (R133, R136): no token, one more, or the exception at 255. -/
def PostsThen (s u : State) (k : Nat) (x : Tile) (tk ord bundle slot : Nat) : Prop :=
  if tk = 0 then TileOnly s u k x
  else if sget 0 x.tok tk = 255 then ∃ v, TileOnly s v k x ∧ TileRaised v u k ord bundle slot 4
  else TileOnly s u k { x with tok := sput 0 x.tok tk (sget 0 x.tok tk + 1) }

end Sys2Proof

/-- BUNDLE_ISSUE queues the M, V and X slots with the scalars as they stood before the S slot, executes the S slot and steps the pc:
arithmetic, loads and stores of the tile store, branches relative to the bundle, jumps, SYS and HALT. -/
def Sys2Proof.Claims.TileBundleIssue : Prop :=
  ∀ (s : State) (k p : Nat), MayIssue s k p →
    let x := s.tile k
    let w := bundleSlot (sget 0 x.bundles x.pc) 0
    let o := slotLow w
    let rd := o / 2 ^ 14
    let rs := x.sreg (o / 2 ^ 9 % 32)
    let rt := x.sreg (o / 2 ^ 4 % 32)
    let ad := ((rs + 8 * sint 9 o) % 2 ^ 64).toNat
    let y := issuedTile x
    let posts := fun (u : State) (z : Tile) => PostsThen s u k z (slotPost w) x.issued x.pc 0
    slotOp w ≠ 0x0A → slotOp w ≠ 0x0C →
      ∃ u, exec (.bundleIssue k) s = .next u ∧
        (slotOp w = 0 → posts u y) ∧
        (∀ r ∈ sRows o (x.sreg rd) rs rt, slotOp w = r.1 → r.2.1 = true → posts u (y.setSreg rd r.2.2)) ∧
        (slotOp w = 0x04 ∨ slotOp w = 0x05 → progEnd < ad + 8 → ∃ v, TileOnly s v k y ∧ TileRaised v u k x.issued x.pc 0 2) ∧
        (slotOp w = 0x04 ∨ slotOp w = 0x05 → ad + 8 ≤ progEnd → ad % 8 ≠ 0 →
          ∃ v, TileOnly s v k y ∧ TileRaised v u k x.issued x.pc 0 3) ∧
        (slotOp w = 0x04 → ad + 8 ≤ progEnd → ad % 8 = 0 → posts u (y.setSreg rd (leNat (mread x.store ad 8)))) ∧
        (slotOp w = 0x05 → ad + 8 ≤ progEnd → ad % 8 = 0 →
          ∃ z, posts u z ∧ z = { y with store := z.store } ∧
            ∀ a, mget z.store a =
              if ad ≤ a ∧ a < ad + 8 then BitVec.ofNat 8 (x.sreg rd / 2 ^ (8 * (a - ad))) else mget x.store a) ∧
        (∀ r ∈ [((0x06 : Nat), x.sreg rd == rs), (0x07, x.sreg rd != rs), (0x08, decide (sint 64 (x.sreg rd) < sint 64 rs))],
          slotOp w = r.1 → posts u (if r.2 then { y with pc := ((x.pc + sint 9 o) % 2 ^ 13).toNat } else y)) ∧
        (slotOp w = 0x09 → posts u { y with pc := o % 2 ^ 12 }) ∧
        (slotOp w = 0x0B → o % 16 = 1 → posts u (y.setSreg rd (k / 156))) ∧
        (slotOp w = 0x0B → o % 16 = 3 → posts u (y.setSreg rd (s.progFurrow x))) ∧
        (slotOp w = 0x0D → posts u { y with stopped := true }) ∧
        (slotOp w = 0x0E → ∃ v, TileOnly s v k y ∧ TileRaised v u k x.issued x.pc 0 10)

/-- Fetching past the image's bundles, and a reserved code in a slot, raise the exception of the lowest slot at issue, and nothing of the
bundle is queued (R143, R145); while an instruction's queue is full or its token is missing, the bundle waits with nothing changed. -/
def Sys2Proof.Claims.TileBundleHeld : Prop :=
  ∀ (s : State) (k p : Nat), s.tilePart? k = some p → s.tileRuns k = true →
    let x := s.tile k
    let b := sget 0 x.bundles x.pc
    x.stopped = false → x.excPend = none → x.atSafe = false → s.winBusy p false = false →
      (s.imageCount p ≤ x.pc → ∃ u, exec (.bundleIssue k) s = .next u ∧ TileRaised s u k x.issued x.pc 0 9) ∧
      (∀ n, x.pc < s.imageCount p → n < 4 → slotIllegal b n = true → (∀ m, m < n → slotIllegal b m = false) →
        ∃ u v, exec (.bundleIssue k) s = .next u ∧ TileRaised s v k x.issued x.pc n 1 ∧
          TileOnly v u k { v.tile k with excMore := (u.tile k).excMore } ∧
          ((u.tile k).excMore = true ↔ x.excMore = true ∨ ∃ m, n < m ∧ m < 4 ∧ slotIllegal b m = true)) ∧
      (x.pc < s.imageCount p → (∀ n, n < 4 → slotIllegal b n = false) → slotOp (bundleSlot b 0) ≠ 0x0A →
        (x.roomFor .m (bundleSlot b 1) && x.roomFor .v (bundleSlot b 2) && x.roomFor .x (bundleSlot b 3)
          && x.canTake (slotTake (bundleSlot b 0))) = false →
        exec (.bundleIssue k) s = .next s)

/-- FWAIT holds its bundle for its program furrow and is released there, or late with furrow_late set and late_count stepped (R139);
SAFEPT notes its number and the lead tile's asks for the image's power phase; at a safe point the drained tile saves its registers and is SUSPENDED, or goes on while a bank or the combiner is live (R140). -/
def Sys2Proof.Claims.TileWaits : Prop :=
  ∀ (s : State) (k p : Nat),
    let x := s.tile k
    let w := bundleSlot (sget 0 x.bundles x.pc) 0
    let o := slotLow w
    (MayIssue s k p → slotOp w = 0x0A → x.fwait = .free →
      ∃ u, exec (.bundleIssue k) s = .next u ∧
        let target := (((x.sreg (o / 2 ^ 14) : Int) + sint 9 o) % 2 ^ 48).toNat
        TileOnly s u k
          { x with
            tok := if slotTake w = 0 then x.tok else sput 0 x.tok (slotTake w) (sget 0 x.tok (slotTake w) - 1)
            fwait := .hold target (decide (target < s.progFurrow x ∨ (target = s.progFurrow x ∧ s.onEdge = false))) }) ∧
    (MayIssue s k p → slotOp w = 0x0A → x.fwait = .go →
      ∃ u, exec (.bundleIssue k) s = .next u ∧ PostsThen s u k (issuedTile x) (slotPost w) x.issued x.pc 0) ∧
    (MayIssue s k p → slotOp w = 0x0C →
      ∃ u, exec (.bundleIssue k) s = .next u ∧
        let n := o % 2 ^ 14
        let k0 := ((s.opOfTile k).bind fun i => (s.hslot i).map fun h => h.safeNo).getD 0
        PostsThen { s with sched := u.sched } u k
          { issuedTile x with safeptLast := n, atSafe := decide (x.run = .suspending ∧ k0 ≤ n) } (slotPost w) x.issued x.pc 0 ∧
        u.sched = s.sched ++
          (if (s.partTiles p).head? = some k then
            (s.imagePhase p n).toList.map fun ph => { furrow := s.nextFurrow, row := 1, kind := .phase p ph }
           else [])) ∧
    (∀ target late, s.tileRuns k = true → x.fwait = .hold target late → target ≤ s.progFurrow x →
      ∃ u, exec (.fwaitRelease k) s = .next u ∧
        TileOnly s u k
          (if late then { x with fwait := .go, furrowLate := true, lateCount := Nat.min (x.lateCount + 1) 65535 }
           else { x with fwait := .go })) ∧
    (∀ target late, s.tileRuns k = true → x.fwait = .hold target late → s.progFurrow x < target →
      exec (.fwaitRelease k) s = .next s) ∧
    (s.tileRuns k = true → x.atSafe = true → x.drained = true → x.excPend = none →
      ∃ u, exec (.safepointSave k) s = .next u ∧
        TileOnly s u k
          (if x.mx.accLive ≠ 0 ∨ x.mx.combLive = true then { x with atSafe := false }
           else
             { x with
               run := .suspended
               save := some
                 { s := x.s, treg := x.treg, mreg := x.mreg, tok := x.tok, pc := x.pc, bias := x.bias, bay := x.mx.bay
                   bayValid := x.mx.bayValid, bal := x.bal, vec := x.vec } }))

/-- SYNC at the head of a queue takes its token and, with nothing started before it, posts at once; behind started instructions it joins
them. The oldest started instruction of an engine completes and posts when every request of it is answered; an SR convert steps
sr_counter. -/
def Sys2Proof.Claims.TileEngines : Prop :=
  ∀ (s : State) (k : Nat) (e : Engine) (h : QEnt) (more : List QEnt),
    let x := s.tile k
    (s.tileRuns k = true → x.queued e = h :: more → x.canTake (slotTake h.word) = true → slotOp h.word = 0 →
      ∃ u, exec (.sync k e) s = .next u ∧
        let y := (x.take (slotTake h.word)).setQueued e more
        if x.begun e = [] then PostsThen s u k y (slotPost h.word) h.ord h.bundle (engSlot e)
        else TileOnly s u k (y.setBegun e (x.begun e ++ [h]))) ∧
    (s.tileRuns k = true → x.begun e = h :: more → (∀ g ∈ more.head?, slotOp g.word ≠ 0) →
      (e = .x → ∀ j ∈ x.jobs, j.ent.ord ≠ h.ord) →
      ∃ u, exec (.engineComplete k e) s = .next u ∧
        PostsThen s u k ((x.complete e h).setBegun e more) (slotPost h.word) h.ord h.bundle (engSlot e))

/-- With nothing executing and nothing able to start, TOKEN_DEADLOCK names the earliest stalled instruction in program order; TILE_EXCEPTION_ENTRY
abandons what still runs, stops the tile with TILE_EXC written, and ends the operation at the next furrow with TILE_EXCEPTION. -/
def Obligations.TileExceptions : Prop :=
  ∀ (s : State) (k p : Nat),
    let x := s.tile k
    (s.tilePart? k = some p → s.tileRuns k = true → s.tileStuck k p = true →
      ∀ st ∈ x.stalled, (∀ y ∈ x.stalled, y ≠ st → st.1 < y.1) →
        ∃ u, exec (.tokenDeadlock k) s = .next u ∧ TileRaised s u k (st.1 / 4) st.2.1 st.2.2 5) ∧
    (∀ v : Nat × W64, x.excPend = some v →
      ∃ u, exec (.tileExceptionEntry k) s = .next u ∧
        u.tile k =
          { x with
            run := .exception, exc := v.2, stopped := true, qm := [], qv := [], qx := [], em := [], ev := [], ex := []
            jobs := [], excPend := none, fwait := .free, atSafe := false } ∧
        (∀ j, j ≠ k → u.tile j = s.tile j) ∧ (∀ o ∈ u.fab.outst, ∀ n, o.isFor ≠ .tile k n) ∧
        u = { s with tiles := u.tiles, handles := u.handles, fab := { s.fab with outst := u.fab.outst } } ∧
        (∀ i hr, s.opOfTile k = some i → s.hslot i = some hr → hr.ending = none →
          ∃ hr', u.hslot i = some hr' ∧ hr'.ending = some (s.nextFurrow, 0x0401, v.2)))


/-! ### Tiles: the matrix arrays -/

namespace Sys2Proof

/-- The head of tile `k`'s M queue is `h`, of opcode `op` with descriptor `d`, and can start. -/
def MStarts (s : State) (k op : Nat) (h : QEnt) (d : MDesc) : Prop :=
  let x := s.tile k
  s.engHead k .m = some h ∧ slotOp h.word = op ∧ d = x.mdesc h.word ∧ x.mWaits h d = false ∧
    d.ok (x.geo h.word) op (slotLow h.word) = true

/-- The tile with the head of its M queue started (R133). -/
def startedM (x : Tile) (h : QEnt) : Tile :=
  { x with
    tok := if slotTake h.word = 0 then x.tok else sput 0 x.tok (slotTake h.word) (sget 0 x.tok (slotTake h.word) - 1)
    qm := x.qm.drop 1, em := x.em ++ [h] }

/-- A bank after rows have entered: `val` gives the value and the saturation of each row and column, `acc` keeps what the bank held; a bank
that does not accumulate is cleared first and is no longer live. -/
def BankEntered (m m' : Mx) (bank rows : Nat) (acc isF : Bool) (val : Nat → Nat → Nat × Bool) : Prop :=
  (∀ r n, r < 128 → n < 64 → sget 0 m'.acc (bank * 8192 + r * 64 + n) =
    if r < rows then BitVec.ofNat 32 (val r n).1 else if acc then sget 0 m.acc (bank * 8192 + r * 64 + n) else 0) ∧
  (∀ key, key / 8192 ≠ bank → sget 0 m'.acc key = sget 0 m.acc key) ∧
  (m'.accSat = true ↔ m.accSat = true ∨ ∃ r n, r < rows ∧ n < 64 ∧ (val r n).2 = true) ∧
  (m'.accNonfinite = true ↔ m.accNonfinite = true ∨
    (isF = true ∧ ∃ r n, r < rows ∧ n < 64 ∧ (val r n).1 / 2 ^ 23 % 256 = 255)) ∧
  (∀ b, b < 8 → m'.accLive.getLsbD b = (m.accLive.getLsbD b && (acc || b != bank))) ∧
  m' = { m with acc := m'.acc, accSat := m'.accSat, accNonfinite := m'.accNonfinite, accLive := m'.accLive }

/-- Result rows of 256 bytes in their destination (R161 to R163) and nothing else of the two memories changed: the tile store from the
descriptor's offset plus `y` at its stride, or the tile registers from the destination register up. -/
def RowsWritten (x z : Tile) (d : MDesc) (y rows : Nat) (val : Nat → Nat → Nat) : Prop :=
  let at_ := fun (r : Nat) => if d.toStore then (d.dstAddr + y) % 2 ^ 64 + r * d.dstStride else 4096 * (d.dstAddr % 16) + 256 * r
  let old := if d.toStore then x.store else x.treg
  let new := if d.toStore then z.store else z.treg
  (∀ a, (∀ r, r < rows → a < at_ r ∨ at_ r + 256 ≤ a) → mget new a = mget old a) ∧
  (∀ r i, r < rows → i < 256 → (∀ e, r < e → e < rows → at_ r + i < at_ e ∨ at_ e + 256 ≤ at_ r + i) →
    mget new (at_ r + i) = BitVec.ofNat 8 (val r (i / 4) % 2 ^ 32 / 2 ^ (8 * (i % 4)))) ∧
  (if d.toStore then z.treg = x.treg else z.store = x.store)

/-- A bank that DRAIN or the last product of a chain has emptied. -/
def BankEmptied (m m' : Mx) (bank : Nat) : Prop :=
  (∀ key, sget 0 m'.acc key = if key / 8192 = bank then 0 else sget 0 m.acc key) ∧
  (∀ b, b < 8 → m'.accLive.getLsbD b = (m.accLive.getLsbD b && b != bank)) ∧ m' = { m with acc := m'.acc, accLive := m'.accLive }

end Sys2Proof

/-- BAYLD copies the weight block, and with groups the 256 scale bytes, from the tile store into the named bay bank; the bank is not valid
until it completes. -/
def Obligations.TileBayLoad : Prop :=
  ∀ (s : State) (k : Nat) (h : QEnt) (d : MDesc), MStarts s k 1 h d →
    let x := s.tile k
    let b := slotLow h.word / 8 % 2
    let n := 64 * fmtRowBytes d.wt + (if d.group = 0 then 0 else 256)
    ∃ u, exec (.bayld k) s = .next u ∧
      TileOnly s u k
        { startedM x h with mx := { x.mx with bay := (u.tile k).mx.bay, bayValid := (u.tile k).mx.bayValid } } ∧
      (∀ a, mget (u.tile k).mx.bay a =
        if 16384 * b ≤ a ∧ a < 16384 * b + n then mget x.store (d.wtAddr + (a - 16384 * b)) else mget x.mx.bay a) ∧
      (∀ i, i < 2 → (u.tile k).mx.bayValid.getLsbD i = (x.mx.bayValid.getLsbD i && i != b))

/-- MMUL and MMULT enter each activation row against the bay block into the named bank, the products of each column in their fixed order;
with keep 0 the rows go to the destination and the bank is emptied; rows beyond the tile store's program area raise STORE_RANGE. -/
def Sys2Proof.Claims.TileMatrixMultiply : Prop :=
  ∀ (s : State) (k : Nat) (h : QEnt) (d : MDesc) (trans : Bool), MStarts s k (if trans then 3 else 2) h d →
    let x := s.tile k
    let o := slotLow h.word
    let keep := o.testBit 0
    let acc := o.testBit 1
    let y := h.y.toNat / 64 * 64
    let i := if trans then Instr.mmult k else .mmul k
    (s.mRows k d h.x.toNat = none → ∃ u v, exec i s = .next u ∧
      TileOnly s v k { x with tok := (startedM x h).tok } ∧ TileRaised v u k h.ord h.bundle 1 2) ∧
    (∀ rows, s.mRows k d h.x.toNat = some rows → (keep = true ∨ d.dstFits y rows.length = true) →
      let base := 16384 * (o / 8 % 2)
      let bay := leNat (mread x.mx.bay base (64 * fmtRowBytes d.wt))
      let sw := leNat (mread x.mx.bay (base + 64 * fmtRowBytes d.wt) 256)
      let val := fun (r n : Nat) =>
        columnSum d trans bay sw ((rows[r]?).getD ⟨none, []⟩)
          (if acc then some (sget 0 x.mx.acc (d.bank * 8192 + r * 64 + n)).toNat else none) n
      let isF := d.group != 0 || (mxFloat d.act).isSome
      ∃ u, exec i s = .next u ∧
        (∀ j, j ≠ k → u.tile j = s.tile j) ∧ u = { s with tiles := u.tiles } ∧
        (keep = true →
          BankEntered x.mx (u.tile k).mx d.bank rows.length acc isF val ∧
          u.tile k = { startedM x h with mx := (u.tile k).mx, bal := (u.tile k).bal, store := (u.tile k).store } ∧
          (d.baler = false → (u.tile k).bal = x.bal ∧ (u.tile k).store = x.store)) ∧
        (keep = false → d.baler = false → d.stream = false →
          ∃ m, BankEntered x.mx m d.bank rows.length acc isF val ∧ BankEmptied m (u.tile k).mx d.bank ∧
            RowsWritten x (u.tile k) d y rows.length (fun r n => (val r n).1) ∧
            u.tile k = { startedM x h with mx := (u.tile k).mx, store := (u.tile k).store, treg := (u.tile k).treg }))

/-- One column of a product: integers exactly, added to the accumulator with saturation; floats without group scales as the chain of
roundings of R156, in ascending k. -/
def Sys2Proof.Claims.MatrixColumnOrder : Prop :=
  ∀ (d : MDesc) (bay sw a : Nat) (sc : List Nat) (n : Nat), d.group = 0 → n < 64 →
    let el := fun (code x i : Nat) => x / 2 ^ (mxBits code * i) % 2 ^ mxBits code
    let num := fun (code x : Nat) => if code = 8 then (x : Int) else sint (mxBits code) x
    (∀ start : Option Nat, (d.act = 7 ∨ d.act = 8 ∨ d.act = 9) →
      let v := sint 32 (start.getD 0)
        + ((List.range (fmtK d.act)).map fun k => num d.act (el d.act a k) * num d.wt (el d.wt bay (64 * k + n))).sum
      columnSum d false bay sw ⟨some a, sc⟩ start n =
        (if v < -2 ^ 31 then (2 ^ 31, true) else if 2 ^ 31 ≤ v then (2 ^ 31 - 1, true) else ((v % 2 ^ 32).toNat, false))) ∧
    (∀ (x : Nat) (f g : Fmt), mxFloat d.act = some f → mxFloat d.wt = some g →
      (columnSum d false bay sw ⟨some a, sc⟩ (some x) n).1 =
        (List.range (fmtK d.act)).foldl
          (fun r k =>
            (fadd fp32 0 r
              (froundV fp32 0 0 (fmulV (fdecode f (el d.act a k)) (fdecode g (el d.wt bay (64 * k + n)))).1).1).1) x)

/-- CONV computes the input position of each output row under the tap; a row whose position lies outside the input is a row of zeros
that reads nothing; the products enter the bank as MMUL's do. -/
def Obligations.TileConvolution : Prop :=
  ∀ (s : State) (k : Nat) (h : QEnt) (d : MDesc) (g : Geo) (row : Nat → MRow), MStarts s k 4 h d →
    let x := s.tile k
    let o := slotLow h.word
    let tap := h.x.toNat
    x.geo h.word = some g → o.testBit 0 = true →
    (∀ r, r < d.rows →
      let p := h.y.toNat + r
      let pos := fun (q i : Nat) => ((q * g.stride i + tap / 2 ^ (8 * i) % 256 * g.dil i : Nat) : Int) - g.pad i
      let ix := pos (p % g.outW) 0
      let iy := pos (p / g.outW % g.outH) 1
      let iz := pos (p / g.outW / g.outH) 2
      if 0 ≤ ix ∧ ix < g.inW ∧ 0 ≤ iy ∧ iy < g.inH ∧ 0 ≤ iz ∧ iz < g.inD then
        d.inReg = false ∧ d.group = 0 ∧
        (let a := d.actAddr + (((iz * g.inH + iy) * g.inW + ix).toNat * g.posStride + tap / 2 ^ 24 % 2 ^ 16 * fmtRowBytes d.act)
         a + fmtRowBytes d.act ≤ progEnd ∧ row r = ⟨some (leNat (mread x.store a (fmtRowBytes d.act))), []⟩)
      else row r = ⟨none, []⟩) →
      let base := 16384 * (o / 8 % 2)
      let bay := leNat (mread x.mx.bay base (64 * fmtRowBytes d.wt))
      let sw := leNat (mread x.mx.bay (base + 64 * fmtRowBytes d.wt) 256)
      ∃ u, exec (.conv k) s = .next u ∧
        BankEntered x.mx (u.tile k).mx d.bank d.rows (o.testBit 1) (d.group != 0 || (mxFloat d.act).isSome)
          (fun r n => columnSum d false bay sw (row r)
            (if o.testBit 1 then some (sget 0 x.mx.acc (d.bank * 8192 + r * 64 + n)).toNat else none) n) ∧
        TileOnly s u k { startedM x h with mx := (u.tile k).mx }

/-- LIMB with clearing and keep leaves in diagonal bank b the exact sum of the plane products i + j = b + planes - 1, the top planes
signed; the partial sums stay in the banks until a drain. Which bay bank takes its first plane is a free value (notes/assumptions 2 and 28). -/
def Obligations.TileLimbProducts : Prop :=
  ∀ (s : State) (k : Nat) (h : QEnt) (d : MDesc), MStarts s k 5 h d →
    let x := s.tile k
    let o := slotLow h.word
    let ps := if d.act = 10 then 8 else 7
    let at_ := fun (i r : Nat) =>
      if d.inReg then 4096 * (d.actAddr % 16) + 8192 * i + 64 * r
      else (d.actAddr + h.x.toNat / 64 * 64) % 2 ^ 64 + 8192 * i + r * d.actStride
    let plane := fun (p v : Nat) => if p + 1 = ps then sint 8 v else (v : Int)
    let act := fun (i r e : Nat) => plane i (mget (if d.inReg then x.treg else x.store) (at_ i r + e)).toNat
    let wt := fun (j e n : Nat) => plane j (mget x.store (d.wtAddr + 4096 * j + 64 * e + n)).toNat
    o.testBit 0 = true → o.testBit 1 = false →
    (∀ i r, i < ps → r < d.rows → at_ i r + 64 ≤ if d.inReg then 65536 else progEnd) →
      ∃ u, exec (.limb k) s = .next u ∧ (∀ j, j ≠ k → u.tile j = s.tile j) ∧ u = { s with tiles := u.tiles, free := s.free + 1 } ∧
        u.tile k = { startedM x h with mx := (u.tile k).mx } ∧
        (∀ b r n, b < ps → r < d.rows → n < 64 →
          sget 0 (u.tile k).mx.acc (b * 8192 + r * 64 + n) =
            BitVec.ofInt 32
              ((((List.range ps).flatMap fun j => (List.range ps).map fun i => (i, j)).filter fun e => e.1 + e.2 + 1 = b + ps).map
                fun e => ((List.range 64).map fun c => act e.1 r c * wt e.2 c n).sum).sum) ∧
        (u.tile k).mx.comb = x.mx.comb ∧ (u.tile k).mx.bayValid = 0 ∧ (u.tile k).mx.combQ64 = (d.act == 10) ∧
        (∀ r, r < 128 → sget false (u.tile k).mx.combFresh r = true)

/-- DRAIN writes the named bank's rows to the destination and, with keep 0, empties the bank; of the diagonal banks it lands the rows in
the combiner, a fresh row as the exact weighted sum of its banks. -/
def Sys2Proof.Claims.TileDrain : Prop :=
  ∀ (s : State) (k : Nat) (h : QEnt) (d : MDesc), MStarts s k 6 h d →
    let x := s.tile k
    let keep := (slotLow h.word).testBit 0
    let y := h.y.toNat / 64 * 64
    (d.act ≠ 10 → d.act ≠ 11 → d.dstFits y d.rows = true → d.stream = false →
      ∃ u, exec (.drain k) s = .next u ∧ (∀ j, j ≠ k → u.tile j = s.tile j) ∧ u = { s with tiles := u.tiles } ∧
        RowsWritten x (u.tile k) d y d.rows (fun r n => (sget 0 x.mx.acc (d.bank * 8192 + r * 64 + n)).toNat) ∧
        (if keep then (u.tile k).mx = x.mx else BankEmptied x.mx (u.tile k).mx d.bank) ∧
        u.tile k = { startedM x h with mx := (u.tile k).mx, store := (u.tile k).store, treg := (u.tile k).treg }) ∧
    ((d.act = 10 ∨ d.act = 11) →
      let ps := if d.act = 10 then 8 else 7
      (∀ r, r < d.rows → sget false x.mx.combFresh r = true) →
      ∃ u, exec (.drain k) s = .next u ∧ (∀ j, j ≠ k → u.tile j = s.tile j) ∧ u = { s with tiles := u.tiles } ∧
        (∀ r n, r < d.rows → n < 64 →
          (sget 0 (u.tile k).mx.comb (r * 64 + n)).toInt =
            ((List.range ps).map fun b => (sget 0 x.mx.acc (b * 8192 + r * 64 + n)).toInt * 2 ^ (8 * b)).sum) ∧
        (∀ r n, d.rows ≤ r → n < 64 → sget 0 (u.tile k).mx.comb (r * 64 + n) = sget 0 x.mx.comb (r * 64 + n)) ∧
        (∀ b r n, b < 8 → r < 128 → n < 64 → sget 0 (u.tile k).mx.acc (b * 8192 + r * 64 + n) =
          if keep = false ∧ b < ps then 0 else sget 0 x.mx.acc (b * 8192 + r * 64 + n)) ∧
        u.tile k = { startedM x h with mx := (u.tile k).mx })

/-- A row for a Baler takes the lowest free slot, its bytes and tag in the tile store and itself among the unassigned rows, or is held
while all 256 slots are taken; a batch of batch_max rows is released with its record and the Baler's token; in deterministic mode nothing
is released between boundaries. -/
def Sys2Proof.Claims.TileBaler : Prop :=
  ∀ (s : State) (k p : Nat), s.tilePart? k = some p → s.up = true → s.flag (aBayBalerCfg p) 63 = true →
    let x := s.tile k
    let base := 4096 * s.fld (aBayBalerCfg p) 21 12
    let most := s.fld (aBayBalerCfg p) 43 37
    (∀ (row : BitVec 1024) (tag : W64) (n : Nat), x.retired = false → n < 256 → n ∉ x.bal.used → (∀ m, m < n → m ∈ x.bal.used) →
      ∃ u, exec (.balerRowArrival k row tag) s = .next u ∧
        TileOnly s u k
          { x with
            store := (u.tile k).store
            bal := { x.bal with used := x.bal.used ++ [n], waiting := x.bal.waiting ++ [(n, s.furrow)] } } ∧
        (∀ a, mget (u.tile k).store a =
          if base + 256 * n ≤ a ∧ a < base + 256 * n + 128 then BitVec.ofNat 8 (row.toNat / 2 ^ (8 * (a - (base + 256 * n))))
          else if base + 256 * n + 128 ≤ a ∧ a < base + 256 * n + 136 then
            BitVec.ofNat 8 (tag.toNat / 2 ^ (8 * (a - (base + 256 * n + 128))))
          else mget x.store a)) ∧
    (∀ (row : BitVec 1024) (tag : W64), x.retired = false → (∀ n, n < 256 → n ∈ x.bal.used) →
      ∃ u, exec (.balerRowArrival k row tag) s = .next u ∧
        TileOnly s u k
          { x with
            bal := { x.bal with
              heldRows := x.bal.heldRows ++ [(row, tag)], fullStalls := Nat.min (x.bal.fullStalls + 1) 65535 } }) ∧
    (s.globalDet = true → x.bal.formed = [] → ∃ u, exec (.balerRelease k) s = .next u ∧ TileOnly s u k x) ∧
    (s.globalDet = false → x.bal.formed = [] → 0 < most → most ≤ x.bal.waiting.length → most ≤ 64 →
      (∀ b ∈ x.bal.batches, x.bal.released < b.num + 16) → x.run = .running →
      sget 0 x.tok (s.fld (aBayBalerCfg p) 47 44) < 255 →
      ∃ u, exec (.balerRelease k) s = .next u ∧
        let slots := (x.bal.waiting.take most).map fun e => e.1
        let tk := s.fld (aBayBalerCfg p) 47 44
        let rec_ := base + 65536 + 1024 * (x.bal.released % 16)
        TileOnly s u k
          { x with
            store := (u.tile k).store
            tok := if tk = 0 then x.tok else sput 0 x.tok tk (sget 0 x.tok tk + 1)
            bal := { x.bal with
              waiting := x.bal.waiting.drop most, released := x.bal.released + 1
              batches := x.bal.batches ++ [{ num := x.bal.released, slots := slots, taken := 0 }] } } ∧
        leNat (mread (u.tile k).store rec_ 2) = most ∧ leNat (mread (u.tile k).store (rec_ + 2) 6) = s.furrow ∧
        (∀ i, i < most → leNat (mread (u.tile k).store (rec_ + 8 + 8 * i) 8) =
          leNat (mread x.store (base + 256 * ((slots[i]?).getD 0) + 128) 8)) ∧
        (∀ i, i < most → mget (u.tile k).store (rec_ + 520 + i) = BitVec.ofNat 8 ((slots[i]?).getD 0)))


/-! ### Tiles: the vector engine -/

namespace Sys2Proof

/-- The head of tile `k`'s V queue is `h`, of the opcode, and can start. -/
def VStarts (s : State) (k op : Nat) (h : QEnt) : Prop := s.engHead k .v = some h ∧ slotOp h.word = op

/-- The tile with the head of its V queue started. -/
def startedV (x : Tile) (h : QEnt) : Tile :=
  { x with
    tok := if slotTake h.word = 0 then x.tok else sput 0 x.tok (slotTake h.word) (sget 0 x.tok (slotTake h.word) - 1)
    qv := x.qv.drop 1, ev := x.ev ++ [h] }

/-- The head of the queue faults at its start: its token is taken and the exception raised, nothing else. -/
def StartFaults (s u : State) (k : Nat) (h : QEnt) (slot cause : Nat) : Prop :=
  ∃ v, TileOnly s v k
      { s.tile k with
        tok := if slotTake h.word = 0 then (s.tile k).tok
          else sput 0 (s.tile k).tok (slotTake h.word) (sget 0 (s.tile k).tok (slotTake h.word) - 1) } ∧
    TileRaised v u k h.ord h.bundle slot cause

/-- Whether the vector mode's mask enables element `i` of width `w`: bit (r, c) of the mask belongs to the element in row r, column c. -/
def elemOn (x : Tile) (w i : Nat) : Bool :=
  !x.vec.maskEn || (sget 0 x.mreg x.vec.mk_).getLsbD (i / (1024 / w) * 32 + i % (1024 / w))

/-- Every element of vd after an instruction: enabled ones are `f`'s, disabled ones kept or zero under mz; flags are sticky; nothing
else of the tile changes. -/
def VecWritten (x z : Tile) (vd w : Nat) (f : Nat → Nat × Nat) : Prop :=
  (∀ i, i < 32 * (1024 / w) → z.vel vd w i = if elemOn x w i then (f i).1 % 2 ^ w else if x.vec.mz then 0 else x.vel vd w i) ∧
  (∀ a, a < 4096 * vd ∨ 4096 * vd + 4096 ≤ a → mget z.treg a = mget x.treg a) ∧
  (∀ b, b < 7 → (z.vec.flags.getLsbD b = true ↔ x.vec.flags.getLsbD b = true ∨
    ∃ i, i < 32 * (1024 / w) ∧ elemOn x w i = true ∧ (f i).2.testBit b = true)) ∧
  z = { x with treg := z.treg, vec := { x.vec with flags := z.vec.flags } }

/-- The second source of element `i` (R228): an element, one of the first 2^row_period rows, column 0 of its row, or a scalar. -/
def secondSrc (x : Tile) (w bsrc vb sc i : Nat) : Nat :=
  let c := 1024 / w
  if bsrc = 0 then x.vel vb w i
  else if bsrc = 1 then x.vel vb w (i / c % 2 ^ x.vec.rowPeriod * c + i % c)
  else if bsrc = 2 then x.vel vb w (i / c * c)
  else sc % 2 ^ w

/-- The integer functions of the V slot (R226): number, whether a checked one traps, result and flags. -/
def vecIntRows (w : Nat) (sg : Bool) (a b : Nat) : List (Nat × Bool × (Nat × Nat)) :=
  let v := fun (x : Nat) => ival w sg x
  let least := -(2 : Int) ^ (w - 1)
  [(0, false, exactRes w sg (v a + v b)), (1, false, exactRes w sg (v a - v b)), (2, false, exactRes w sg (v a * v b)),
   (3, false, ((v a * v b / 2 ^ w % 2 ^ w).toNat, 0)),
   (4, false, if v b = 0 then (0, fDZ) else exactRes w sg (Int.tdiv (v a) (v b))),
   (5, false, if v b = 0 then (a, fDZ) else ((Int.tmod (v a) (v b) % 2 ^ w).toNat, 0)),
   (6, false, clampRes w (imin w sg) (imax w sg) (v a + v b)), (7, false, clampRes w (imin w sg) (imax w sg) (v a - v b)),
   (8, false, exactRes w sg (-v a)), (9, false, exactRes w sg (if v a < 0 then -v a else v a)),
   (10, decide (sg = true ∧ v a = least), exactRes w sg (-v a)),
   (11, decide (sg = true ∧ v a = least), exactRes w sg (if v a < 0 then -v a else v a)),
   (12, decide (v b = 0 ∨ (sg = true ∧ v a = least ∧ v b = -1)), exactRes w sg (Int.tdiv (v a) (v b))),
   (13, false, (a &&& b, 0)), (14, false, (a ||| b, 0)), (15, false, (a ^^^ b, 0)),
   (16, false, (if w ≤ b then 0 else a * 2 ^ b % 2 ^ w, 0)), (17, false, (if w ≤ b then 0 else a / 2 ^ b, 0)),
   (18, false, (if w ≤ b then (if sint w a < 0 then 2 ^ w - 1 else 0) else (sint w a / 2 ^ b % 2 ^ w).toNat, 0)),
   (19, false, (a * 2 ^ (b % w) % 2 ^ w + a / 2 ^ (w - b % w), 0)),
   (20, false, (if v a ≤ v b then b else a, 0)), (21, false, (if v a ≤ v b then a else b, 0)), (22, false, (b, 0))]

end Sys2Proof

/-- V float and integer arithmetic on every enabled element: floats round to nearest even, integers follow R198 to R201; a checked
function that traps writes nothing and raises ARITH_TRAP; the wrong kind of type raises ILLEGAL_OP. -/
def Sys2Proof.Claims.TileVectorArithmetic : Prop :=
  ∀ (s : State) (k : Nat) (h : QEnt),
    let x := s.tile k
    let o := slotLow h.word
    let fn := o % 32
    let w := x.vec.width
    let a := fun (i : Nat) => x.vel (o / 2 ^ 11 % 16) w i
    let b := fun (i : Nat) => secondSrc x w (o / 2 ^ 5 % 4) (o / 2 ^ 7 % 16) h.x.toNat i
    let vd := o / 2 ^ 15
    (∀ f, VStarts s k 1 h → x.vec.fmt = some f →
      ∃ u, exec (.floatArithmetic k) s = .next u ∧ (∀ j, j ≠ k → u.tile j = s.tile j) ∧ u = { s with tiles := u.tiles } ∧
        VecWritten (startedV x h) (u.tile k) vd w fun i =>
          match fn with
          | 0 => fadd f 0 (a i) (b i)
          | 1 => fsub f 0 (a i) (b i)
          | 2 => fmul f 0 (a i) (b i)
          | 3 => ffma f 0 false (a i) (b i) (x.vel vd w i)
          | 4 => ffma f 0 true (a i) (b i) (x.vel vd w i)
          | 5 => fdiv f 0 (a i) (b i)
          | 6 => fmaxmin f true (a i) (b i)
          | 7 => fmaxmin f false (a i) (b i)
          | 8 => fsqrt f 0 (a i)
          | 9 => fabs f (a i)
          | 10 => fneg f (a i)
          | _ => vFloatOp f fn (a i) (b i) (x.vel vd w i)) ∧
    (VStarts s k 1 h → x.vec.fmt = none → ∃ u, exec (.floatArithmetic k) s = .next u ∧ StartFaults s u k h 2 1) ∧
    (VStarts s k 2 h → x.vec.fmt = none → fn ≤ 22 →
      ∃ u, exec (.integerArithmetic k) s = .next u ∧
        let rows := fun (i : Nat) => vecIntRows w x.vec.signed (a i) (b i)
        if ∃ i, i < 32 * (1024 / w) ∧ elemOn x w i = true ∧ ∃ r ∈ rows i, r.1 = fn ∧ r.2.1 = true then StartFaults s u k h 2 8
        else
          (∀ j, j ≠ k → u.tile j = s.tile j) ∧ u = { s with tiles := u.tiles } ∧
            VecWritten (startedV x h) (u.tile k) vd w fun i =>
              ((rows i).find? fun r => r.1 == fn).elim (0, 0) fun r => r.2.2) ∧
    (VStarts s k 2 h → x.vec.fmt.isSome = true → ∃ u, exec (.integerArithmetic k) s = .next u ∧ StartFaults s u k h 2 1)

/-- V compares write a mask bit for every enabled element, mask logic combines masks bit by bit; under a 64-bit type the bits of columns
16 to 31 of the written mask become 0. -/
def Sys2Proof.Claims.TileVectorMasks : Prop :=
  ∀ (s : State) (k : Nat) (h : QEnt),
    let x := s.tile k
    let o := slotLow h.word
    let w := x.vec.width
    let mk := fun (m pos : Nat) => (sget 0 x.mreg m).getLsbD pos
    (VStarts s k 3 h → ¬(x.vec.fmt = none ∧ o / 8 % 8 = 6) →
      ∃ u, exec (.vCompare k) s = .next u ∧ (∀ j, j ≠ k → u.tile j = s.tile j) ∧ u = { s with tiles := u.tiles } ∧
        (∀ i, i < 32 * (1024 / w) →
          let pos := i / (1024 / w) * 32 + i % (1024 / w)
          let a := x.vel (o / 2 ^ 12 % 16) w i
          let b := secondSrc x w (o / 2 ^ 6 % 4) (o / 2 ^ 8 % 16) h.x.toNat i
          (sget 0 (u.tile k).mreg (o / 2 ^ 16)).getLsbD pos =
            if elemOn x w i then (x.vec.cmp (o / 8 % 8) a b).1 else if x.vec.mz then false else mk (o / 2 ^ 16) pos) ∧
        (w = 64 → ∀ pos, pos < 1024 → 16 ≤ pos % 32 → (sget 0 (u.tile k).mreg (o / 2 ^ 16)).getLsbD pos = false) ∧
        (∀ m, m ≠ o / 2 ^ 16 → sget 0 (u.tile k).mreg m = sget 0 x.mreg m) ∧
        u.tile k = { startedV x h with mreg := (u.tile k).mreg, vec := { x.vec with flags := (u.tile k).vec.flags } }) ∧
    (∀ c a b : Nat, x.vec.fmt = none → c < 6 →
      let va := ival w x.vec.signed a
      let vb := ival w x.vec.signed b
      (x.vec.cmp c a b).2 = 0 ∧
        ((x.vec.cmp c a b).1 = true ↔ (c = 0 ∧ va = vb) ∨ (c = 1 ∧ va ≠ vb) ∨ (c = 2 ∧ va < vb) ∨ (c = 3 ∧ va ≤ vb)
          ∨ (c = 4 ∧ vb < va) ∨ (c = 5 ∧ vb ≤ va))) ∧
    (VStarts s k 4 h → o / 2 ^ 7 % 8 ≤ 6 →
      ∃ u, exec (.maskLogic k) s = .next u ∧
        TileOnly s u k { startedV x h with mreg := (u.tile k).mreg } ∧
        (∀ m, m ≠ o / 2 ^ 16 → sget 0 (u.tile k).mreg m = sget 0 x.mreg m) ∧
        (∀ pos, pos < 1024 →
          let a := mk (o / 2 ^ 13 % 8) pos
          let b := mk (o / 2 ^ 10 % 8) pos
          let fn := o / 2 ^ 7 % 8
          (sget 0 (u.tile k).mreg (o / 2 ^ 16)).getLsbD pos =
            if w = 64 ∧ 16 ≤ pos % 32 then false
            else if fn = 0 then a && b
            else if fn = 1 then a || b
            else if fn = 2 then a != b
            else if fn = 3 then a && !b
            else if fn = 4 then !a
            else if fn = 5 then h.x.getLsbD (pos % 32)
            else decide (pos < h.x.toNat)))

/-- REDUCE puts the combination of each row, or column, in its first element and keeps every other element of vd: an integer sum is the
sum of the enabled elements; the order of a float reduce is the tree along a row and ascending along a column; EXPMAX is the largest
exponent of the enabled elements. -/
def Sys2Proof.Claims.TileVectorReduce : Prop :=
  ∀ (s : State) (k : Nat) (h : QEnt), VStarts s k 5 h →
    let x := s.tile k
    let o := slotLow h.word
    let w := x.vec.width
    let c := 1024 / w
    let vd := o / 2 ^ 15
    let va := o / 2 ^ 11 % 16
    let cols := o.testBit 10
    let fn := o / 2 ^ 7 % 8
    let acc := o.testBit 6
    let line := fun (j : Nat) => if cols then (List.range 32).map (fun r => r * c + j) else (List.range c).map (fun i => j * c + i)
    let pos := fun (j : Nat) => if cols then j else j * c
    let lines := if cols then c else 32
    (fn < (if x.vec.fmt.isSome then 3 else 6) →
      ∃ u, exec (.reduce k) s = .next u ∧ (∀ j, j ≠ k → u.tile j = s.tile j) ∧ u = { s with tiles := u.tiles } ∧
        u.tile k = { startedV x h with treg := (u.tile k).treg, vec := { x.vec with flags := (u.tile k).vec.flags } } ∧
        (∀ i, i < 32 * c → (∀ j, j < lines → i ≠ pos j) → (u.tile k).vel vd w i = x.vel vd w i) ∧
        (∀ a, a < 4096 * vd ∨ 4096 * vd + 4096 ≤ a → mget (u.tile k).treg a = mget x.treg a) ∧
        (∀ j, j < lines →
          let xs := (line j).map fun i => if elemOn x w i then x.vel va w i else x.vec.redId fn
          let r := redLine (x.vec.redOp fn) (if cols then 1 else 0) xs
          (u.tile k).vel vd w (pos j) = (if acc then (x.vec.redOp fn r.1 (x.vel vd w (pos j))).1 else r.1) % 2 ^ w) ∧
        (x.vec.fmt = none → fn = 0 → ∀ j, j < lines →
          (u.tile k).vel vd w (pos j) =
            ((((line j).filter fun i => elemOn x w i).map fun i => x.vel va w i).sum
              + if acc then x.vel vd w (pos j) else 0) % 2 ^ w)) ∧
    (∀ f, x.vec.fmt = some f → fn = 6 →
      ∃ u, exec (.reduce k) s = .next u ∧ (∀ j, j ≠ k → u.tile j = s.tile j) ∧ u = { s with tiles := u.tiles } ∧
        ∀ j, j < lines →
          let e := (expMax f (((line j).filter fun i => elemOn x w i).map fun i => x.vel va w i)).1
          let p := 32 * j + if cols then 1 else 0
          (u.tile k).vel vd 32 p = ((if acc then max e (sint 32 (x.vel vd 32 p)) else e) % 2 ^ 32).toNat) ∧
    ((if x.vec.fmt.isSome then 3 ≤ fn ∧ fn ≠ 6 else fn = 6) → ∃ u, exec (.reduce k) s = .next u ∧ StartFaults s u k h 2 1)

/-- A convert without group quantisation takes each element of the span from the source format to the destination format under the mode's
rounding, packed at its place of the register; with stochastic rounding each element has its own random word (R192). With group quantisation each group of finite
elements gets one scale, and each element its quotient by it (R214, R215, R237). A width that does not fit, or a group quantisation with formats that R237 does not allow, raises ILLEGAL_OP. -/
def Sys2Proof.Claims.TileVectorConvert : Prop :=
  ∀ (s : State) (k : Nat) (h : QEnt), VStarts s k 6 h →
    let x := s.tile k
    let o := slotLow h.word
    let vd := o / 2 ^ 15
    let va := o / 2 ^ 11 % 16
    let sc := o / 2 ^ 6 % 32
    let dc := o / 2 % 32
    let ws := (cvtFmt sc).width
    let wd := (cvtFmt dc).width
    let n := 32768 / max (max ws wd) 32
    let ss := if ws < wd then x.vec.part * n else 0
    let ds := if wd < ws then x.vec.part * n else 0
    let ok := ¬(ws = wd ∧ x.vec.part ≠ 0) ∧ (ss + n) * ws ≤ 32768 ∧ (ds + n) * wd ≤ 32768
    (ok → x.vec.group = 0 → x.vec.maskEn = false →
      ∃ u, exec (.vConvert k) s = .next u ∧ (∀ j, j ≠ k → u.tile j = s.tile j) ∧ u = { s with tiles := u.tiles, free := s.free + 1 } ∧
        (∀ j, j < n →
          let pos := if ws = 64 then (ss + j) / 16 * 32 + (ss + j) % 16 else ss + j
          let word := if x.vec.rmode = 4 then
              randomWord x.vec.seed.toNat (k / 156 * 256 + (s.logical? k).getD 0)
                (x.vec.sr.toNat + ((x.ev ++ [h]).filter fun e => e.sr).length) pos
            else 0
          (u.tile k).pel vd wd (ds + j) =
            (convElem (cvtFmt sc) (cvtFmt dc) x.vec.rmode (o.testBit 0) word (x.vec.qexp x.vec.qa) (x.vec.qexp x.vec.qd)
              (x.pel va ws (ss + j))).1 % 2 ^ wd) ∧
        (∀ a, a < 4096 * vd + ds * wd / 8 ∨ 4096 * vd + ((ds + n) * wd + 7) / 8 ≤ a → mget (u.tile k).treg a = mget x.treg a) ∧
        u.tile k =
          { startedV x h with
            treg := (u.tile k).treg, vec := { x.vec with flags := (u.tile k).vec.flags }
            ev := x.ev ++ [if x.vec.rmode = 4 then { h with sr := true } else h] }) ∧
    (ok → x.vec.group ≠ 0 → sc = 0 → ((4 ≤ dc ∧ dc ≤ 8) ∨ dc = 10) → vd ≠ 15 → x.vec.maskEn = false →
      let len := 32 * 2 ^ (x.vec.group - 1)
      let val := fun (i : Nat) => fdecode fp32 (x.pel va 32 i)
      let mag := fun (i : Nat) => match val i with
        | .fin _ m e => (m, e)
        | _ => (0, 0)
      ∃ u, exec (.vConvert k) s = .next u ∧ (∀ j, j ≠ k → u.tile j = s.tile j) ∧ u = { s with tiles := u.tiles } ∧
        ∀ g, g < n / len → (∀ j, j < len → ∃ neg m e, val (g * len + j) = .fin neg m e) →
          let amax := ((List.range len).map fun j => mag (g * len + j)).foldl magMax (0, 0)
          let scale := groupScale x.vec.scaleE4 dc amax.1 amax.2
          mget (u.tile k).treg (4096 * (vd + 1) + x.vec.part * n / len + g) = BitVec.ofNat 8 scale.code ∧
            ∀ j neg m e, j < len → val (g * len + j) = .fin neg m e →
              (u.tile k).pel vd wd (ds + (g * len + j)) =
                (groupElem dc x.vec.rmode
                  (randomWord x.vec.seed.toNat (k / 156 * 256 + (s.logical? k).getD 0)
                    (x.vec.sr.toNat + ((x.ev ++ [h]).filter fun e => e.sr).length) (g * len + j)) neg m e scale).1 % 2 ^ wd) ∧
    (¬ok ∨ (x.vec.group ≠ 0 ∧ (sc ≠ 0 ∨ ¬((4 ≤ dc ∧ dc ≤ 8) ∨ dc = 10) ∨ vd = 15)) →
      ∃ u, exec (.vConvert k) s = .next u ∧ StartFaults s u k h 2 1)

/-- Combine split turns each FP64 element into seven byte planes of its value aligned to the row's or column's exponent; combine finish
rounds each combiner sum once, to Q64 or to FP64; with clear set the combiner is no longer live. -/
def Obligations.TileCombiner : Prop :=
  ∀ (s : State) (k : Nat) (h : QEnt), VStarts s k 7 h →
    let x := s.tile k
    let o := slotLow h.word
    let vd := o / 2 ^ 15
    let vx := o / 2 ^ 7 % 16
    let expo := fun (r i : Nat) => sint 32 (x.vel vx 32 (32 * r + i))
    (o.testBit 6 = true →
      ∃ u, exec (.split k) s = .next u ∧ (∀ j, j ≠ k → u.tile j = s.tile j) ∧ u = { s with tiles := u.tiles } ∧
        u.tile k = { startedV x h with treg := (u.tile k).treg, vec := { x.vec with flags := (u.tile k).vec.flags } } ∧
        (∀ i p, i < 512 → p < 7 →
          (u.tile k).vel vd 8 (512 * p + i) =
            if elemOn x 64 i then
              ((splitElem (fdecode fp64 (x.vel (o / 2 ^ 11 % 16) 64 i)) (if o.testBit 5 then expo (i % 16) 1 else expo (i / 16) 0)).1
                % 2 ^ 56).toNat / 256 ^ p % 256
            else if x.vec.mz then 0 else x.vel vd 8 (512 * p + i))) ∧
    (o.testBit 6 = false → x.vec.rmode ≠ 4 →
      ∃ u z, exec (.finish k) s = .next u ∧
        TileOnly s u k (if o.testBit 1 then { z with mx := { z.mx with combLive := false } } else z) ∧
        VecWritten (startedV x h) z vd 64 fun i =>
          let c := (sget 0 x.mx.comb ((32 * (o / 16 % 4) + i / 16) * 64 + 16 * (o / 4 % 4) + i % 16)).toInt
          if x.mx.combQ64 then
            convQI 64 true false x.vec.rmode 0 (c < 0) c.natAbs 1
              (x.vec.qexp x.vec.qa + x.vec.qexp x.vec.qb - x.vec.qexp x.vec.qd - 7)
          else roundZ fp64 x.vec.rmode 0 false c (expo (i / 16) 0 + expo (i % 16) 1 - 60)) ∧
    (o.testBit 6 = false → x.vec.rmode = 4 → ∃ u, exec (.finish k) s = .next u ∧ StartFaults s u k h 2 1)

/-- Copy, transpose and select; VSET replaces the mode by a scalar within R224's ranges and raises ILLEGAL_OP for another; VCTL sets a block
exponent or clears flags. -/
def Obligations.TileVectorMoves : Prop :=
  ∀ (s : State) (k : Nat) (h : QEnt),
    let x := s.tile k
    let o := slotLow h.word
    let w := x.vec.width
    let vd := o / 2 ^ 15
    let va := o / 2 ^ 11 % 16
    (VStarts s k 8 h →
      ∃ u, exec (.vMove k) s = .next u ∧
        (o / 2 ^ 8 % 8 = 0 → ∃ z, TileOnly s u k z ∧ VecWritten (startedV x h) z vd w fun i => (x.vel va w i, 0)) ∧
        (o / 2 ^ 8 % 8 = 1 → w = 64 → StartFaults s u k h 2 1) ∧
        (o / 2 ^ 8 % 8 = 1 → w = 32 →
          TileOnly s u k { startedV x h with treg := (u.tile k).treg } ∧
            ∀ r c, r < 32 → c < 32 → (u.tile k).vel vd 32 (32 * r + c) = x.vel va 32 (32 * c + r)) ∧
        (2 ≤ o / 2 ^ 8 % 8 →
          TileOnly s u k { startedV x h with treg := (u.tile k).treg } ∧
            ∀ i, i < 32 * (1024 / w) → (u.tile k).vel vd w i = if elemOn x w i then x.vel va w i else x.vel (o / 2 ^ 4 % 16) w i)) ∧
    (VStarts s k 9 h →
      ∃ u, exec (.vset k) s = .next u ∧
        let v := h.x.toNat
        if v < 2 ^ 27 ∧ v / 2 ^ 17 % 8 ≤ 3 ∧ v / 2 ^ 11 % 8 ≤ 5 ∧ v / 2 ^ 3 % 8 ≤ 5 ∧ v % 8 ≤ 5 then
          TileOnly s u k { startedV x h with vec := { x.vec with mode := BitVec.ofNat 27 v } }
        else StartFaults s u k h 2 1) ∧
    (VStarts s k 10 h →
      ∃ u, exec (.vctl k) s = .next u ∧
        if o / 2 ^ 11 % 8 = 0 then
          TileOnly s u k { startedV x h with vec := { x.vec with qe := sput 0 x.vec.qe (o / 2 ^ 9 % 4) (BitVec.ofNat 12 h.x.toNat) } }
        else
          TileOnly s u k { startedV x h with vec := { x.vec with flags := (u.tile k).vec.flags } } ∧
            ∀ b, b < 8 → (u.tile k).vec.flags.getLsbD b = (x.vec.flags.getLsbD b && !(h.x.getLsbD b)))

/-! ### Tiles: the Shuttle -/

namespace Sys2Proof

/-- The head of tile `k`'s X queue is `h`, of opcode `op`; it may start, its descriptor and layout record are `ins`, and nothing about it
faults. -/
def XStarts (s : State) (k p op : Nat) (h : QEnt) (ins : XIns) : Prop :=
  let x := s.tile k
  let d := x.xdesc h.word
  s.engHead k .x = some h ∧ s.tilePart? k = some p ∧ slotOp h.word = op ∧ s.xWaits k h = false ∧ d.ok op = true ∧
    d.layout + 96 ≤ progEnd ∧ ins = x.xins h (x.layWords d) ∧ ins.fault = none ∧ s.xAllowed p x ins = true

/-- The tile with the head of its X queue started. -/
def startedX (x : Tile) (h : QEnt) : Tile :=
  { x with
    tok := if slotTake h.word = 0 then x.tok else sput 0 x.tok (slotTake h.word) (sget 0 x.tok (slotTake h.word) - 1)
    qx := x.qx.drop 1, ex := x.ex ++ [h] }

/-- The bytes of a space after elements of `n` bytes were written in visiting order: `at_` gives the address of the v-th, if it is
written, and `val` its value; of elements that overlap the later one remains. -/
def ElementsWritten (m m' : Mem) (n total : Nat) (at_ : Nat → Option Nat) (val : Nat → Nat) : Prop :=
  (∀ a, (∀ v b, v < total → at_ v = some b → a < b ∨ b + n ≤ a) → mget m' a = mget m a) ∧
  (∀ v b i, v < total → at_ v = some b → i < n →
    (∀ e c, v < e → e < total → at_ e = some c → b + i < c ∨ c + n ≤ b + i) →
      mget m' (b + i) = BitVec.ofNat 8 (val v / 2 ^ (8 * i)))

end Sys2Proof

/-- A MOVE, GATHER, SCATTER or TEDDER between the tile store, the tile registers and local HBM as a source: every element visited is
read at its source address, a skipped index reading zero, and written at its destination address, a skipped index writing nothing; TEDDER
writes the rotated values. Skipped indices are counted, and the tile's other state stays. Elements that overlap between source and
destination are all read first, which is the model's choice (notes/assumptions 56). -/
def Sys2Proof.Claims.TileShuttleTransfers : Prop :=
  ∀ (s : State) (k p op : Nat) (h : QEnt) (ins : XIns), XStarts s k p op h ins → op ∈ [1, 2, 3, 4] →
    let x := s.tile k
    let d := ins.d
    let i := if op = 1 then Instr.move k else if op = 2 then .gather k else if op = 3 then .scatter k else .tedder k
    d.dst ≤ 1 → d.accOp = 0 → d.stream = false → ¬(op = 3 ∧ d.unordered = true) → s.xOpen k h.ord = false → x.jobs = [] →
    (d.src = 2 → ∃ a, s.dest ins.srcBase.toNat = .here a ∧
      ∀ v b, v < ins.total → x.elemAddr ins false v = some b →
        b % 2 ^ 48 + ins.sSize ≤ hbmEnd ∧ s.hbm.poisoned (b % 2 ^ 48) = false ∧
          s.hbm.poisoned (b % 2 ^ 48 + ins.sSize - 1) = false) →
    d.src ≤ 2 →
      ∃ u, exec i s = .next u ∧ (∀ j, j ≠ k → u.tile j = s.tile j) ∧ u = { s with tiles := u.tiles, digRun := u.digRun } ∧
        let raw := (List.range ins.total).map fun v =>
          match x.elemAddr ins false v with
          | none => 0
          | some a =>
            if d.src = 0 then leNat (mread x.store a ins.sSize)
            else if d.src = 1 then leNat (mread x.treg a ins.sSize)
            else leNat (mread s.hbm.mem (a % 2 ^ 48) ins.sSize)
        let vals := if op = 4 then x.tedder ins raw else raw
        ElementsWritten (if d.dst = 0 then x.store else x.treg) (if d.dst = 0 then (u.tile k).store else (u.tile k).treg)
          ins.dSize ins.total (fun v => if v < vals.length then x.elemAddr ins true v else none) (fun v => (vals[v]?).getD 0) ∧
        (if d.dst = 0 then (u.tile k).treg = x.treg else (u.tile k).store = x.store) ∧
        u.tile k =
          { startedX x h with
            store := (u.tile k).store, treg := (u.tile k).treg
            sh := { x.sh with
              realigned := x.sh.realigned || ins.realigns, idxSkipped := Nat.min (x.sh.idxSkipped + x.skips ins) 65535
              collHeld := Nat.min x.sh.collHeld 65535 } }

/-- Where the elements of a transfer lie: the v-th visited element has its coordinates with perm[0] varying fastest, and its address is the
side's base plus each coordinate times that dimension's stride; along gdim of the indexed side the index takes the coordinate's place, and
an index at or above the limit skips the element. -/
def Sys2Proof.Claims.ShuttleAddresses : Prop :=
  ∀ (x : Tile) (ins : XIns) (dst : Bool) (c : Nat → Nat),
    (∀ j, j < ins.d.ndim → c j < ins.ext (ins.perm j)) →
    let v := ((List.range ins.d.ndim).map fun j => c j * ((List.range j).map fun i => ins.ext (ins.perm i)).prod).sum
    let indexed := fun (j : Nat) => (if dst then ins.op == 3 else ins.op == 2) && ins.perm j == ins.gdim
    let ix := fun (j : Nat) => leNat (mread x.store (ins.idxAddr + 4 * c j) 4)
    x.elemAddr ins dst v =
      if ∃ j, j < ins.d.ndim ∧ indexed j = true ∧ ins.lim ≤ ix j then none
      else
        some ((if dst then ins.dstBase else ins.srcBase)
          + ((List.range ins.d.ndim).map fun j =>
              ((if indexed j then ix j else c j : Nat) : Int) * (if dst then ins.ds (ins.perm j) else ins.ss (ins.perm j))).sum).toNat

/-- A Shuttle instruction whose descriptor, layout record or extents break R246 to R250, or that reaches where its partition may not, raises
its exception and moves nothing. -/
def Obligations.TileShuttleFaults : Prop :=
  ∀ (s : State) (k p op : Nat) (h : QEnt), op ∈ [1, 2, 3, 4] →
    let x := s.tile k
    let d := x.xdesc h.word
    let ins := x.xins h (x.layWords d)
    let i := if op = 1 then Instr.move k else if op = 2 then .gather k else if op = 3 then .scatter k else .tedder k
    s.engHead k .x = some h → s.tilePart? k = some p → slotOp h.word = op → s.xWaits k h = false →
      ∃ u, exec i s = .next u ∧
        (d.ok op = false → StartFaults s u k h 3 7) ∧
        (d.ok op = true → progEnd < d.layout + 96 → StartFaults s u k h 3 2) ∧
        (d.ok op = true → d.layout + 96 ≤ progEnd → ∀ cause, ins.fault = some cause → StartFaults s u k h 3 cause) ∧
        (d.ok op = true → d.layout + 96 ≤ progEnd → ins.fault = none → s.xAllowed p x ins = false → StartFaults s u k h 3 6)

/-! ### Intake -/

namespace Sys2Proof

/-- The judgement of R81 on a packet for queue `q`, whose place and length are right when `shape`: the state after it and its answer, 0
accepted or a duplicate, 1 malformed, 2 retry. -/
def Judged (s : State) (q : Nat) (shape : Bool) (pkt : W512) (t : State) (ans : Nat) : Prop :=
  let v := s.queue q
  let n := pSeq pkt
  if ¬(shape = true ∧ s.qEnabled q = true ∧ pQueue pkt = q) then ans = 1 ∧ t = s.countFld aIntkStatus 60 45 1
  else if s.fld aRasSteward 57 56 ≠ 1 ∧ s.fld aRasSteward 55 54 ≠ 1 then ans = 2 ∧ t = s
  else if n < v.nextSeq then ans = 0 ∧ t = s.countFld aIntkStatus 44 29 1
  else if v.nextSeq < n ∨ 4096 ≤ v.entries.length ∨ s.fld aIntkCfg 12 0 ≤ s.unanchored then ans = 2 ∧ t = s
  else
    -- accepted: next_seq steps, the entry waits at the end of the queue, both copies hold it, and the buddy is sent it
    let at_ := q * 0x40000 + n % 4096 * 64
    ans = 0 ∧
      t.queue q =
        { v with
          nextSeq := n + 1
          entries := v.entries ++
            [{ seq := n, pkt := pkt, stage := .waiting, anchored := false, restated := false, handle := 0, data := [], recs := [] }] } ∧
      (∀ j, j ≠ q → t.queue j = s.queue j) ∧
      (∀ a, mget t.retA a = if at_ ≤ a ∧ a < at_ + 64 then BitVec.ofNat 8 (byteOf pkt (a - at_)) else mget s.retA a) ∧
      (∀ a, mget t.retB a = if at_ ≤ a ∧ a < at_ + 64 then BitVec.ofNat 8 (byteOf pkt (a - at_)) else mget s.retB a) ∧
      t.out = (if s.buddy = 0 then s.out else .mirror 0x30 [q, n, pkt.toNat] :: s.out) ∧
      t = { s with queues := t.queues, retA := t.retA, retB := t.retB, out := t.out }

/-- `t` is `s` with one more thing put out. -/
def PutOut (s t : State) (o : Out) : Prop := t = { s with out := o :: s.out }

end Sys2Proof

/-- A packet that arrives by DMWr, as a datagram or through LAB_CMD is judged by R81's table, first row first, and answered; a DMWr names its queue by
the region that it is written to, the other two by the packet's own queue byte, whose port must be the operator's or the lab's. -/
def Obligations.IntakeJudgement : Prop :=
  ∀ (s : State), s.boot.alive = true →
    (∀ (vf : Option Nat) (off len : Nat) (pkt : W512), ∃ t, exec (.dmwrIntake vf off len pkt) s = .next t ∧
      ∀ q, s.regionQueue vf off = some q →
        ∃ u ans, Judged s q (len == 64 && off % 0x40000 == pSeq pkt % 4096 * 64) pkt u ans ∧ PutOut u t (.dmwr ans)) ∧
    (∀ (vf : Option Nat) (off len : Nat) (pkt : W512), s.regionQueue vf off = none →
      ∃ t, exec (.dmwrIntake vf off len pkt) s = .next t ∧ PutOut (s.countFld aIntkStatus 60 45 1) t (.dmwr 1)) ∧
    (∀ (len : Nat) (pkt : W512), ∃ t u ans, exec (.commandDatagram len pkt) s = .next t ∧
      Judged s (pQueue pkt) (len == 64 && s.qPort (pQueue pkt) == 2) pkt u ans ∧
      PutOut u t (.datagram (pQueue pkt) (pSeq pkt) (if ans = 0 then 0 else if ans = 1 then 2 else 1))) ∧
    (∀ dr : BitVec 528, s.boot.labBlown = false →
      let pkt := BitVec.ofNat 512 dr.toNat
      ∃ u ans, exec (.labCmd dr) s =
          .next { u with
            jtag :=
              { u.jtag with
                ir := 0x20, labAnswer := BitVec.ofNat 8 (if ans = 0 then 0 else if ans = 1 then 2 else 1) } } ∧
        Judged s (pQueue pkt) (s.qPort (pQueue pkt) == 5) pkt u ans)

/-- The rest of the test port and of BAR2: a posted write is discarded with non_dmwr_write set; IDCODE, BYPASS, EXTEST and SAMPLE/PRELOAD; LAB_MEM reads or
writes eight aligned bytes with bit 48 choosing and bits 63:49 zero; and with the lab fuse blown the two private codes select BYPASS and
touch nothing else. -/
def Sys2Proof.Claims.TestPort : Prop :=
  ∀ (s : State),
    (∀ off len, s.boot.alive = true → exec (.postedWriteBar2 off len) s = .next (s.setFlag aIntkStatus 62)) ∧
    exec .idcode s = .next { s with jtag := { s.jtag with ir := 1 }, out := .tdo 0x100048CB :: s.out } ∧
    (∀ c, exec (.bypass c) s = .next { s with jtag := { s.jtag with ir := 0xFF }, out := .tdo 0 :: s.out }) ∧
    (∀ cells, exec (.extest cells) s = .next { s with jtag := { s.jtag with ir := 0, cells := cells } }) ∧
    (∀ sampled preload, ∃ n, exec (.samplePreload sampled preload) s =
        .next { s with jtag := { s.jtag with ir := 2, cells := preload }, out := .tdo n :: s.out } ∧
      ∀ i, n.testBit i = (nth sampled i).getD false) ∧
    (∀ dr : BitVec 528, s.boot.labBlown = true → exec (.labCmd dr) s = .next { s with jtag := { s.jtag with ir := 0xFF } }) ∧
    (∀ dr : BitVec 128, s.boot.labBlown = true → exec (.labMem dr) s = .next { s with jtag := { s.jtag with ir := 0xFF } }) ∧
    (∀ dr : BitVec 128, s.boot.labBlown = false → s.boot.alive = true →
      let a := dr.toNat % 2 ^ 48
      let u := { s with jtag := { s.jtag with ir := 0x21 } }
      (dr.toNat / 2 ^ 49 % 2 ^ 15 ≠ 0 ∨ a % 8 ≠ 0 → exec (.labMem dr) s = .next u) ∧
      (dr.toNat / 2 ^ 49 % 2 ^ 15 = 0 → a % 8 = 0 → (∀ o, u.region a ≠ .ctl o) →
        (dr.toNat.testBit 48 = true → exec (.labMem dr) s = .next (u.writeMem a (leBytes 8 (dr.toNat / 2 ^ 64))).1) ∧
        (dr.toNat.testBit 48 = false → exec (.labMem dr) s =
          .next { u with jtag := { u.jtag with labData := BitVec.ofNat 64 (leNat (u.readMem true a 8).data) } })) ∧
      (∀ o, dr.toNat / 2 ^ 49 % 2 ^ 15 = 0 → a % 8 = 0 → u.region a = .ctl o →
        (dr.toNat.testBit 48 = true → exec (.labMem dr) s = .next (u.regWrite o (dr.toNat / 2 ^ 64) (2 ^ 64 - 1))) ∧
        (dr.toNat.testBit 48 = false → ∃ t, exec (.labMem dr) s = .next t ∧
          t.jtag.labData = BitVec.ofNat 64 (u.regRead o))))

/-- ANCHOR_CONFIRM anchors an entry, and anchored_through rises to the highest number all of whose predecessors are anchored or final, with a receipt
due; as a retire mark's confirmation it releases the finished entry. RECEIPT_WRITE writes the due receipt's 16 bytes at the ring's place and
steps it, the phase turning at the end of the ring; MSIX_HOLD_EXPIRY raises the queue's vector once. -/
def Obligations.AnchorsAndReceipts : Prop :=
  ∀ (s : State) (q : Nat), s.up = true → q < 64 →
    (∀ n, s.buddy ≠ 0 →
      ∃ t, exec (.anchorConfirm q n false) s = .next t ∧ (∀ j, j ≠ q → t.queue j = s.queue j) ∧ t = { s with queues := t.queues } ∧
        let v := s.queue q
        let es := v.entries.map fun e => if e.seq = n then { e with anchored := true } else e
        let a := max v.anch
          ((es.filter fun e => !e.anchored && e.stage != .done).foldl (fun m e => min m (e.seq - 1)) (v.nextSeq - 1))
        t.queue q =
          { v with
            entries := es, anch := a, receipt := if a = v.anch then v.receipt else some (s.time.ns, s.quality) }) ∧
    (∀ n, s.buddy ≠ 0 →
      ∃ t, exec (.anchorConfirm q n true) s = .next t ∧ (∀ j, j ≠ q → t.queue j = s.queue j) ∧ t = { s with queues := t.queues } ∧
        t.queue q =
          { s.queue q with entries := (s.queue q).entries.filter fun e => !(e.seq == n && e.stage == .done) }) ∧
    (∀ ns quality, (s.queue q).receipt = some (ns, quality) → s.qEnabled q = true →
      let v := s.queue q
      let bytes := leBytes 6 v.anch ++ leBytes 1 q
        ++ leBytes 1 ((if v.rrPhase then 1 else 0) + (if s.buddy = 0 then 2 else 0) + 4 * quality) ++ leBytes 8 ns
      let u := s.dmaWrite q (s.fld (aIntkQRrBase q) 63 12 * 4096 + 16 * v.rrPos) bytes
      let pos := (v.rrPos + 1) % 2 ^ u.fld (aIntkQCfg q) 31 28
      ∃ t, exec (.receiptWrite q) s = .next t ∧ t = { u with queues := t.queues } ∧ (∀ j, j ≠ q → t.queue j = u.queue j) ∧
        t.queue q =
          { u.queue q with
            receipt := none, rrPos := pos, rrPhase := if pos = 0 then !(u.queue q).rrPhase else (u.queue q).rrPhase }) ∧
    ((s.queue q).msixDue = true →
      ∃ t, exec (.msixHoldExpiry q) s = .next t ∧ t.queue q = { s.queue q with msixDue := false } ∧
        (∀ j, j ≠ q → t.queue j = s.queue j) ∧
        t = { s with queues := t.queues, out := .msix (s.fld (aIntkQCfg q) 55 45) :: s.out }) ∧
    ((s.queue q).msixDue = false → exec (.msixHoldExpiry q) s = .next s)

/-- HOST_BAR4_ACCESS outside the control window: a read inside one block of HBM whose line no cache holds answers HBM's bytes, or zeros with the poison bit where the
block is poisoned; a write changes exactly its bytes, and none at an address that nothing answers, where host_unpop is set; in the control
window a size or alignment that R34 does not list is a Completer Abort. -/
def Sys2Proof.Claims.HostMemory : Prop :=
  ∀ (s : State), s.up = true →
    (∀ (a n : Nat), 0 < n → a % 64 + n ≤ 64 → a < hbmEnd → s.findLine 4 (s.slice (a / 64)) (a / 64) = none →
      s.dirOf (a / 64) = none → s.hbm.poisoned a = false →
      exec (.hostBar4Access false a n []) s = .next { s with out := .data (mread s.hbm.mem a n) false :: s.out }) ∧
    (∀ (a n : Nat), 0 < n → a % 64 + n ≤ 64 → a < hbmEnd → s.findLine 4 (s.slice (a / 64)) (a / 64) = none →
      s.dirOf (a / 64) = none → s.hbm.poisoned a = true →
      exec (.hostBar4Access false a n []) s = .next { s with out := .data (List.replicate n 0) true :: s.out }) ∧
    (∀ (a : Nat) (bs : List Byte), a % 64 = 0 → bs.length = 64 → a < hbmEnd → s.dirOf (a / 64) = none →
      ∃ t, exec (.hostBar4Access true a 0 bs) s = .next t ∧ (∀ i, i < 64 → mget t.hbm.mem (a + i) = bs.getD i 0) ∧
        (∀ x, x < a ∨ a + 64 ≤ x → mget t.hbm.mem x = mget s.hbm.mem x) ∧ t.hbm.poisoned a = false) ∧
    (∀ (a : Nat) (bs : List Byte), bs ≠ [] → a % 64 + bs.length ≤ 64 → a + bs.length ≤ 2 ^ 40 → s.region a = .none →
      exec (.hostBar4Access true a 0 bs) s = .next (s.setFlag aDevMode 62)) ∧
    (∀ (a n : Nat), a + n ≤ 2 ^ 40 → 0 < n → a % 64 + n ≤ 64 → s.region a = .none →
      exec (.hostBar4Access false a n []) s =
        .next { s.setFlag aDevMode 62 with out := .data (List.replicate n 0) false :: s.out }) ∧
    (∀ (a n o : Nat), a + n ≤ 2 ^ 40 → s.region a = .ctl o → ctlAligned o n = false →
      ∃ t, exec (.hostBar4Access false a n []) s = .next t ∧ PutOut s t .abort) ∧
    (∀ (a n o : Nat), a + n ≤ 2 ^ 40 → s.region a = .ctl o → ctlAligned o n = true →
      ∃ t, exec (.hostBar4Access false a n []) s = .next t ∧
        t.out = .data (leBytes n (s.regRead (o - o % 8) / 2 ^ (8 * (o % 8)))) false :: s.out) ∧
    (∀ (a o : Nat) (bs : List Byte), a + bs.length ≤ 2 ^ 40 → s.region a = .ctl o → ctlAligned o bs.length = true →
      exec (.hostBar4Access true a 0 bs) s = .next (s.ctlWrite o bs.length (leNat bs)))

/-! ### Registers -/

namespace Sys2Proof

/-- The registers whose write is an action of its own. -/
def actionReg (o : Nat) : Prop :=
  o = aCacheCtl ∨ o = aBootReset ∨ ∃ c, c < 96 ∧ (o = aCpuCoreCtl c ∨ o = aCpuCoreStatus c)

/-- Bit `i` of a field after a write, by its access code (R11): RW and RWS take the written bit, a written 1 clears W1C, all else stays. -/
def bitAfter (acc : Acc) (old new : Bool) : Bool :=
  match acc with
  | .rw => new
  | .rws => new
  | .w1c => old && !new
  | .ro => old
  | .wo => old

/-- What a refused write leaves: the block's write_refused bit, and for CACHE_MODE mode_refused beside it. -/
def refusedAs (s : State) (o : Nat) : State :=
  let u := s.setFlag (refusedReg (o / 0x100000)) 63
  if o = aCacheMode then u.setFlag aCacheStatus 62 else u

/-- The rows that write one named register, with its offset. -/
def namedWrites (q n : Nat) (val : W64) : List (Instr × Nat × W64) :=
  [(.pkgAddrWrite val, aDevPkgAddr, val), (.globalDetWrite val, aDevMode, val), (.furrowCfgWrite val, aTimeFurrowCfg, val),
   (.furrowEpochWrite val, aTimeFurrowEpoch, val), (.cacheModeWrite val, aCacheMode, val), (.queueEnable q val, aIntkQCfg q, val),
   (.cqHeadWrite q val, aIntkQCqHead q, val), (.invalidateAll (n % 8), aCacheCtl, BitVec.ofNat 64 (8 + n % 8)),
   (.cleanAndInvalidateAll (n % 8), aCacheCtl, BitVec.ofNat 64 (16 + n % 8)), (.bootResetWarm, aBootReset, 1),
   (.bootResetCold, aBootReset, 2)]

end Sys2Proof

/-- An aligned write of four or eight bytes to a register changes the bits that it covers by their fields' access codes and no bit outside
the fields; a write that the block's rules discard changes no register and sets write_refused. A user core's write is the host's; I3C
writes DEV_PKG_ADDR only, the Shuttle nothing; a bad size or alignment of the host is a Completer Abort; and each row that names a
register is that register's write. -/
def Sys2Proof.Claims.RegisterWrites : Prop :=
  ∀ (s : State), s.up = true →
    (∀ (off size : Nat) (val : W64) (d : RegDesc), ctlAligned off size = true → regDesc (off - off % 8) = some d →
      ¬ actionReg (off - off % 8) →
      let o := off - off % 8
      ∃ new t, exec (.registerWrite .host off size val) s = .next t ∧
        t = (if s.writeBad o (s.rd o) new then refusedAs s o else (s.wr o new).afterWrite o (s.rd o) new) ∧
        (∀ f ∈ d.flds, ∀ i, f.lo ≤ i → i ≤ f.hi →
          new.testBit i =
            if size = 4 ∧ i / 32 ≠ off % 8 / 4 then (s.rd o).testBit i
            else if o = aTimeFurrowCfg ∧ i = 5 then (s.rd o).testBit i && val.toNat.testBit i
            else bitAfter f.acc ((s.rd o).testBit i) (val.toNat.testBit (i - 8 * (off % 8)))) ∧
        (∀ i, (∀ f ∈ d.flds, i < f.lo ∨ f.hi < i) → new.testBit i = (s.rd o).testBit i)) ∧
    (∀ (off size : Nat) (val : W64), ctlAligned off size = true → regDesc (off - off % 8) = none →
      exec (.registerWrite .host off size val) s = .next s) ∧
    (∀ (off size : Nat) (val : W64), ctlAligned off size = false →
      exec (.registerWrite .host off size val) s = .next { s with out := .abort :: s.out }) ∧
    (∀ (c off size : Nat) (val : W64), c < 96 → ctlAligned off size = true →
      exec (.registerWrite (.core c) off size val) s = exec (.registerWrite .host off size val) s) ∧
    (∀ (off size : Nat) (val : W64), exec (.registerWrite .shuttle off size val) s = .next s) ∧
    (∀ (off size : Nat) (val : W64), off ≠ aDevPkgAddr ∨ size ≠ 8 → exec (.registerWrite .i3c off size val) s = .next s) ∧
    (∀ (q n : Nat) (val : W64), q < 64 → ∀ r ∈ namedWrites q n val,
      ∃ t, exec r.1 s = .next t ∧ exec (.registerWrite .host r.2.1 8 r.2.2) s = .next t)

/-- Which writes are discarded, and what accepted ones do beyond their bits: DEV_PKG_ADDR with a link UP; global_det while an operation is in
progress; the furrow settings while an event is pending or an operation in progress, out of range, or with an epoch that is no multiple
of the length; an index mode or a level's enable while the level is not clean; a queue's configuration while it is enabled. An accepted
epoch sets epoch_valid; enabling a queue starts its rings afresh and writes what waited for it; a read of CACHE_CTL's action runs until INVALIDATE_ALL_DONE; LINK_RESET takes the
link down and lets it train again. -/
def Sys2Proof.Claims.RegisterEffects : Prop :=
  ∀ (s : State), s.up = true →
    let busy := s.sched ≠ [] ∨ s.time.step.isSome = true ∨ ∃ e ∈ s.handles, e.2.state.live = true
    (∀ val : W64, (∃ n, n < 64 ∧ s.linkUp n = true) → exec (.pkgAddrWrite val) s = .next (refusedAs s aDevPkgAddr)) ∧
    (∀ val : W64, (∃ e ∈ s.handles, e.2.state.live = true) → val.toNat.testBit 0 ≠ (s.rd aDevMode).testBit 0 →
      exec (.globalDetWrite val) s = .next (refusedAs s aDevMode)) ∧
    (∀ val : W64, (∀ e ∈ s.handles, e.2.state.live = false) →
      ∃ t, exec (.globalDetWrite val) s = .next t ∧ (t.globalDet = true ↔ val.toNat.testBit 0 = true) ∧
        ∀ o, o ≠ aDevMode → t.rd o = s.rd o) ∧
    (∀ val : W64, let n := val.toNat % 32
      busy ∨ n < 8 ∨ 20 < n ∨ s.epoch % 2 ^ n ≠ 0 → exec (.furrowCfgWrite val) s = .next (refusedAs s aTimeFurrowCfg)) ∧
    (∀ val : W64, let n := val.toNat % 32
      ¬ busy → 8 ≤ n → n ≤ 20 → s.epoch % 2 ^ n = 0 →
        ∃ t, exec (.furrowCfgWrite val) s = .next t ∧ t.furrowLen = 2 ^ n ∧ (∀ o, o ≠ aTimeFurrowCfg → t.rd o = s.rd o)) ∧
    (∀ val : W64, busy ∨ val.toNat % s.furrowLen ≠ 0 → exec (.furrowEpochWrite val) s = .next (refusedAs s aTimeFurrowEpoch)) ∧
    (∀ val : W64, ¬ busy → val.toNat % s.furrowLen = 0 →
      ∃ t, exec (.furrowEpochWrite val) s = .next t ∧ t.epoch = val.toNat ∧ (t.rd aTimeFurrowCfg).testBit 5 = true ∧
        t.furrowLen = s.furrowLen) ∧
    (∀ val : W64, (∃ l, l < 5 ∧ s.levelOn l = false ∧ val.toNat.testBit (l + 1) = true ∧ s.levelClean l = false) →
      exec (.cacheModeWrite val) s = .next (refusedAs s aCacheMode)) ∧
    (∀ (q : Nat) (val : W64), q < 64 → s.flag (aIntkQCfg q) 63 = true →
      (∃ f ∈ [((62 : Nat), (60 : Nat)), (59, 56), (55, 45), (35, 32), (31, 28)],
        bits val.toNat f.1 f.2 ≠ s.fld (aIntkQCfg q) f.1 f.2) →
      exec (.queueEnable q val) s = .next (refusedAs s (aIntkQCfg q))) ∧
    (∀ (q : Nat) (val : W64), q < 64 → s.flag (aIntkQCfg q) 63 = false → val.toNat.testBit 63 = true →
      bits val.toNat 62 60 ≤ 5 → 6 ≤ bits val.toNat 35 32 → 6 ≤ bits val.toNat 31 28 → bits val.toNat 31 28 ≤ 12 →
      ∃ t, exec (.queueEnable q val) s = .next t ∧ t.qEnabled q = true ∧ t.qPort q = bits val.toNat 62 60 ∧
        ((s.queue q).held = [] → t.queue q = { s.queue q with cqPos := 0, cqPhase := true, rrPos := 0, rrPhase := true }) ∧
        (∀ r, (s.queue q).held = [r] → r.queue = q → s.fld (aIntkQCqHead q) 14 0 = 0 →
          (t.queue q).held = [] ∧ (t.queue q).cqPos = 1 ∧ (t.queue q).cqPhase = true)) ∧
    (∀ (q n : Nat), q < 64 → (s.queue q).held = [] →
      ∃ t, exec (.cqHeadWrite q (BitVec.ofNat 64 n)) s = .next t ∧ t.fld (aIntkQCqHead q) 14 0 = n % 2 ^ 15 ∧
        t = { s with regs := t.regs } ∧ ∀ o, o ≠ aIntkQCqHead q → t.rd o = s.rd o) ∧
    (∀ l, l < 5 → s.cache.ctl = none →
      exec (.invalidateAll l) s = .next { s with cache := { s.cache with ctl := some (l, false) } } ∧
      exec (.cleanAndInvalidateAll l) s = .next { s with cache := { s.cache with ctl := some (l, true) } }) ∧
    (∀ l, l < 8 → s.cache.ctl ≠ none ∨ 5 ≤ l → exec (.invalidateAll l) s = .next (refusedAs s aCacheCtl)) ∧
    (∀ l clean, s.cache.ctl = some (l, clean) →
      ∃ t, exec .invalidateAllDone s = .next t ∧ t.cache.ctl = none ∧ (∀ e ∈ t.cache.lines, keyLevel e.1 ≠ l) ∧
        (l < 5 → t.levelClean l = true)) ∧
    (∀ n, n < 64 → s.fab.outst = [] → s.flag (aFabLinkCfg n) 63 = true → s.fld (aFabLinkCfg n) 2 0 ≤ 4 →
      (s.link n).dead = false →
      ∃ t, exec (.linkReset n) s = .next t ∧ t.fld (aFabLinkStatus n) 2 0 = (if s.pkgId = 0 then 0 else 1) ∧
        t.flag (aFabLinkCfg n) 63 = true)

/-! ### Time -/

namespace Sys2Proof

/-- The counter after `d` nanoseconds of the board reference (R53, R54): each adds one nanosecond and the learned rate, and an offset that
is being removed joins in, the whole rate within six units of 2^-16 ns. -/
def ranFor (s : State) (d : Nat) : Int :=
  let c := s.time.freqCorr
  let way : Int := if s.time.slew = 0 then 0 else if 0 < s.time.slew then 6 else -6
  let term := max (-6) (min 6 (c + way)) - c
  let part := if s.time.slew.natAbs ≤ (term * d).natAbs then s.time.slew else term * d
  s.time.count + (65536 + c) * d + part

/-- What a sample of the offset to the selected source does (R42, R53 to R55): TIME_OFFSET holds it, sixteen in a row inside the band lock the
counter, the learned rate stays inside R53's bounds, and the offset is to be removed; one within 20 microseconds by slew alone. -/
def Disciplined (s t : State) (off : Int) : Prop :=
  let band : Int := if s.source = 1 ∨ s.source = 2 then 2 else if s.source = 5 then 20 else 100
  let run := if -(band * 65536) ≤ off ∧ off ≤ band * 65536 then min 16 (s.time.inBand + 1) else 0
  t.rd aTimeOffset = (off % 2 ^ 64).toNat ∧ t.time.inBand = run ∧ (run = 16 → t.quality = 2) ∧ (run ≠ 16 → t.quality = s.quality) ∧
    -6 ≤ t.time.freqCorr ∧ t.time.freqCorr ≤ 6 ∧ t.time.slew = off ∧ t.time.count = s.time.count ∧
    (-(20000 * 65536) ≤ off ∧ off ≤ 20000 * 65536 → t.time.step = s.time.step)

end Sys2Proof

/-- The counter: TIME_NOW_READ answers it and latches the fraction and quality; with the queue empty and no furrow boundary waited for, a step is
one nanosecond of the board reference at the steered rate; SLEW_COMPLETE lets the time pass until the offset is gone; PPS_OUT rises
at the next whole second when it is driven and falls width_ns later; HOLDOVER_LIMIT ends HOLDOVER. That time passes in steps of an empty
queue is the model's choice (notes/assumptions 1). -/
def Sys2Proof.Claims.CounterRuns : Prop :=
  ∀ (s : State),
    (s.up = true → exec .timeNowRead s =
      .next { s.wr aTimeLatch (s.time.frac * 2 ^ 48 + s.quality * 2 ^ 46) with out := .reg (BitVec.ofNat 64 s.time.ns) :: s.out }) ∧
    (s.boot.alive = true → s.furrowDue = false →
      (s.pending = [] → ∃ t, step s = .next t ∧ t.time.count = ranFor s 1 % 2 ^ 80 ∧ t.time.refNs = s.time.refNs + 1 ∧
        t.time.freqCorr = s.time.freqCorr ∧ t = { s with time := t.time, pins := t.pins } ∧
        (t.pins.ppsOut = true ↔
          s.pins.ppsOut = true ∨ s.time.ns / 10 ^ 9 < t.time.ns / 10 ^ 9 ∧ s.flag aTimePpsCfg 0 = true)) ∧
      (s.time.slew ≠ 0 → -5 ≤ s.time.freqCorr → s.time.freqCorr ≤ 5 →
        ∃ t d, exec .slewComplete s = .next t ∧ t.time.slew = 0 ∧ t.time.refNs = s.time.refNs + d ∧
          t.time.count = ranFor s d % 2 ^ 80 ∧ t.time.freqCorr = s.time.freqCorr) ∧
      ((s.time.ns / 10 ^ 9 + 1) * 10 ^ 9 < 2 ^ 64 →
        ∃ t, exec .ppsOutPulse s = .next t ∧ t.time.ns = (s.time.ns / 10 ^ 9 + 1) * 10 ^ 9 ∧ t.time.frac = 0 ∧
          t = { s with time := t.time, pins := t.pins } ∧
          (s.flag aTimePpsCfg 0 = true →
            t.time.ppsEvent = some (s.time.ns / 10 ^ 9 + 1, s.quality) ∧ t.pins = { s.pins with ppsOut := true }) ∧
          (s.flag aTimePpsCfg 0 = false → t.time.ppsEvent = s.time.ppsEvent ∧ t.pins = s.pins)) ∧
      (∀ sec quality, s.time.ppsEvent = some (sec, quality) → s.pins.ppsOut = true →
        sec * 10 ^ 9 + s.fld aTimePpsCfg 29 1 < 2 ^ 64 →
        ∃ t, exec .ppsOutPulseEnd s = .next t ∧
          t.time.count = max s.time.count ((sec * 10 ^ 9 + s.fld aTimePpsCfg 29 1 : Nat) * 65536) ∧
          t = { s with time := t.time, pins := { s.pins with ppsOut := false } })) ∧
    (s.boot.alive = true → s.quality = 1 →
      ∃ t, exec .holdoverLimit s = .next t ∧ t.quality = 0 ∧ t = { s with regs := t.regs } ∧
        ∀ o, o ≠ aTimeStatus → t.rd o = s.rd o)

/-- Sources: a beacon of a link that is UP is kept as the neighbour's last, and when that neighbour is the followed one and its class is selected, its four
times give delay and offset (R50); BEACON_SEND puts one beacon on every link that is UP; PTP's Sync, Delay_Req and Delay_Resp give the
offset of R47, and a peer-delay message only counts; after each change the selected source is the first usable in R44's order, and a
counter that was LOCKED and has lost its last source is in HOLDOVER. -/
def Sys2Proof.Claims.TimeSources : Prop :=
  ∀ (s : State), s.up = true →
    (∃ t, exec .beaconSend s = .next t ∧
      t.out = (((below 64).filter s.linkUp).map fun n =>
        Out.beacon n s.time.count (((sfind? s.time.nbr n).map fun b => b.t4).getD 0) (sget 0 s.time.beaconTx n) s.quality
          (s.fld aTimeStatus 39 32) (s.fld aTimeStatus 31 28) (if s.time.isRoot then s.time.step else none)).reverse ++ s.out ∧
      t = { s with out := t.out, time := { s.time with beaconTx := t.time.beaconTx } } ∧
      ∀ n, sget 0 t.time.beaconTx n = if n < 64 ∧ s.linkUp n = true then s.time.count else sget 0 s.time.beaconTx n) ∧
    (∀ (n : Nat) (msg : BeaconMsg), n < 64 → s.linkUp n = true →
      let m := { msg with optical := msg.optical && s.isUplink n }
      let u := ({ s with time := { s.time with nbr := sins s.time.nbr n m } } : State).reselect
      let cls := if m.optical then 2 else 1
      let delay : Int := ((m.t4 - m.t1) - (m.t3 - m.t2)) / 2 - sint 16 (u.rd (aTimeLinkAsym n)) * 1024
      ∃ t, exec (.beacon n msg) s = .next t ∧
        ((u.followed m.optical).map Prod.fst = some n → u.source = cls → m.step = none →
          Disciplined u t (m.t2 - m.t1 - delay)) ∧
        ((u.followed m.optical).map Prod.fst ≠ some n ∨ u.source ≠ cls → t = u)) ∧
    (∀ (port : Nat), port < 2 →
      let v := s.port port
      exec (.peerDelayMessage port) s = .next { s with time := { s.time with peerDelay := s.time.peerDelay + 1 } } ∧
      (∃ t, exec (.ptpDelayReq port) s = .next t ∧ t.out = .delayReq port :: s.out ∧
        t.port port = { v with req := some s.time.count } ∧
        t = { s with out := t.out, time := { s.time with ptp := t.time.ptp } }) ∧
      (∃ t, exec (.ptpAnnounce port) s = .next t ∧ (t.port port).usable = true ∧ t.source = t.bestSource) ∧
      (∀ t1 t2 : Int, ∃ t, exec (.ptpSync port t1 t2) s = .next t ∧ t.port port = { v with sync := some (t1, t2) } ∧
        (s.source = 3 + port → Disciplined s t (t1 + v.delay - t2)) ∧
        (s.source ≠ 3 + port → t = { s with time := { s.time with ptp := t.time.ptp } })) ∧
      (∀ t1 t2 t3 t4 : Int, v.sync = some (t1, t2) → v.req = some t3 →
        let delay := ((t2 - t1) + (t4 - t3)) / 2
        ∃ t, exec (.ptpDelayResp port t4) s = .next t ∧ t.port port = { v with req := none, delay := delay } ∧
          (s.source = 3 + port → Disciplined s t (t1 + delay - t2)))) ∧
    (∀ src, 1 ≤ src → src ≤ 5 →
      ∃ t, exec (.sourceLoss src) s = .next t ∧ t.source = t.bestSource ∧
        (s.quality = 2 → s.source ≠ 0 → t.source = 0 → t.quality = 1 ∧ t.time.holdSince = s.time.ns) ∧
        (t.source ≠ s.source → (t.rd aTimeStatus).testBit 59 = true) ∧
        (src = 5 → t.time.ppsLive = false) ∧ (src = 3 → (t.port 0).usable = false) ∧ (src = 4 → (t.port 1).usable = false))

/-- The selection itself (R44, R45): a package that is no elected root and follows a neighbour over copper takes link beacons when they are enabled;
otherwise the first of optical beacons, the two PTP ports and PPS_IN that is enabled and usable; otherwise none. -/
def Sys2Proof.Claims.SourceOrder : Prop :=
  ∀ (s : State),
    let usable := fun (n : Nat) =>
      s.flag aTimeSource n = true ∧
        (if n = 1 then s.time.isRoot = false ∧ (s.followed false).isSome = true
         else if n = 2 then (s.followed true).isSome = true
         else if n = 5 then s.time.ppsLive = true ∧ s.time.ppsAssigned.isSome = true
         else (sget PtpPort.zero s.time.ptp (n - 3)).usable = true)
    (∀ n, 1 ≤ n → n ≤ 5 → (s.bestSource = n ↔ usable n ∧ ∀ m, 1 ≤ m → m < n → ¬ usable m)) ∧
      (s.bestSource = 0 ↔ ∀ m, 1 ≤ m → m ≤ 5 → ¬ usable m)

/-- A PPS_IN edge is timestamped; with a TIME_SET waiting for it, it is assigned that value and the command ends with SUCCESS; else it is the nearest
whole second after the last assigned edge. TIME_SET_TIMEOUT ends the oldest TIME_SET with BAD_PARAM and the counter is unchanged. -/
def Sys2Proof.Claims.PulsePerSecond : Prop :=
  ∀ (s : State), s.boot.alive = true →
    (∀ ptp, s.time.timeSet = [] →
      ∃ t, exec (.ppsInEdge ptp) s = .next t ∧ t.rd aTimePpsInTs = s.time.ns % 2 ^ 64 ∧ t.fld aTimeStatus 49 48 = s.quality ∧
        t.time.ppsLive = true ∧ t.pins = { s.pins with ppsIn := true } ∧ t.source = t.bestSource ∧
        (∀ a b, s.time.ppsAssigned = some (a, b) → s.ptpOk 0 = false → s.ptpOk 1 = false → b ≤ s.time.ns →
          t.time.ppsAssigned = some (a + (2 * (s.time.ns - b) + 10 ^ 9) / (2 * 10 ^ 9) * 10 ^ 9, s.time.ns))) ∧
    (∀ ptp q n v, s.time.timeSet = [(q, n, v, none)] →
      ∃ u : State, exec (.ppsInEdge ptp) s = .next (u.finish q n 0 0 0) ∧ u.rd aTimePpsInTs = s.time.ns % 2 ^ 64 ∧
        u.time.timeSet = [] ∧ u.time.ppsAssigned = some (v.toNat, s.time.ns) ∧
        u.rd aTimeOffset = (((v.toNat : Int) * 65536 - s.time.count) % 2 ^ 64).toNat ∧ u.time.slew = v.toNat * 65536 - s.time.count) ∧
    (∀ e es, s.time.timeSet = e :: es →
      exec .timeSetTimeout s = .next (({ s with time := { s.time with timeSet := es } } : State).finish e.1 e.2.1 0x0304 0 0)) ∧
    (s.time.timeSet = [] → exec .timeSetTimeout s = .next s)

namespace Sys2Proof

/-- Nothing but pending events and a time step waits for a furrow. -/
def NothingWaits (s : State) : Prop :=
  s.handles = [] ∧ s.ctl = [] ∧ s.tiles = [] ∧ s.colls = [] ∧ s.batches = [] ∧ s.fab.order = [] ∧ s.fab.orderWait = [] ∧
    (∀ p, p < 16 → s.partExists p = false) ∧ s.flag aPwrStatus 49 = false

/-- The boundary time of the next furrow, R65. -/
def nextBoundary (s : State) : Int :=
  s.epoch + (((s.time.ns : Int) - s.epoch) / s.furrowLen + 1) * s.furrowLen

end Sys2Proof

/-- FURROW_BOUNDARY: the counter stands at the next boundary and the furrow number is the next; a step that is due there moves the counter by
whole furrows in one piece (R56); a pending event of the new furrow takes place then, is recorded as fired, and a scheduled CAP_SET sets the
cap and ends with SUCCESS (R59, R69, R79). -/
def Obligations.FurrowBegins : Prop :=
  ∀ (s : State), s.up = true → NothingWaits s → nextBoundary s < 2 ^ 64 →
    (s.sched = [] → s.time.step = none →
      ∃ t, exec .furrowBoundary s = .next t ∧ (t.time.ns : Int) = nextBoundary s ∧ t.time.frac = 0 ∧
        t.furrow = furrowAdd s.furrow 1 ∧ t.time.freqCorr = s.time.freqCorr ∧ t = { s with time := t.time, pins := t.pins }) ∧
    (∀ f k, s.sched = [] → s.time.step = some (f, k) → reached f (furrowAdd s.furrow 1) = true →
      ∃ t, exec .furrowBoundary s = .next t ∧ t.time.step = none ∧
        t.time.count = (nextBoundary s + k * s.furrowLen) * 65536 % 2 ^ 80 ∧ (t.rd aTimeStatus).testBit 62 = true) ∧
    (∀ q n x, s.sched = [{ furrow := furrowAdd s.furrow 1, row := 7, kind := .cmd q n }] → s.time.step = none → s.buddy = 0 →
      (s.queue q).entry? n = some x → pOpcode x.pkt = 0x0701 → pPtr x.pkt = false → pQuiet x.pkt = true →
      s.baseChk q x.pkt = .ok → pParamLen x.pkt ≤ 40 →
      1200 ≤ bytesOf x.pkt 16 2 → bytesOf x.pkt 16 2 ≤ 3600 → 1 ≤ bytesOf x.pkt 18 1 → bytesOf x.pkt 18 1 ≤ 16 →
      (∀ k, 19 ≤ k → k < 56 → bytesOf x.pkt k 1 = 0) →
      ∃ t, exec .furrowBoundary s = .next t ∧ t.sched = [] ∧ t.capW = bytesOf x.pkt 16 2 ∧
        t.fld aPwrCap 20 16 = bytesOf x.pkt 18 1 ∧ (t.queue q).entry? n = none ∧
        t.fired = s.fired ++
          [{ furrow := furrowAdd s.furrow 1, row := 7, kind := .cmd q n, stepped := false, quality := s.quality }])

/-! ### Commands -/

namespace Sys2Proof

/-- The start rows: opcode and row (R96). -/
def startRows (q : Nat) : List (Nat × Instr) :=
  [(0x0001, .nop q), (0x0002, .flush q), (0x0003, .suspend q), (0x0004, .resume q), (0x0005, .cancel q), (0x0006, .queryHandle q),
   (0x0101, .timeSet q), (0x0102, .furrowSet q), (0x0103, .barrier q), (0x0201, .partCreate q), (0x0202, .partReset q),
   (0x0203, .memCopy q), (0x0204, .memFill q), (0x0205, .partDelete q), (0x0301, .progLoad q), (0x0302, .progRun q),
   (0x0303, .trainStep q), (0x0401, .solveBatch q), (0x0501, .collSetup q), (0x0502, .collStep q), (0x0503, .collTeardown q),
   (0x0601, .snapshot q), (0x0602, .restore q), (0x0603, .mirrorCfg q), (0x0701, .capSet q), (0x0702, .phaseTable q),
   (0x0801, .fwStage q), (0x0802, .fwActivate q), (0x0901, .healthRead q), (0x0902, .errlogRead q), (0x0903, .repair q),
   (0x0A01, .detSet q), (0x0A02, .digestRead q), (0x0B01, .remoteOp q), (0x0B02, .imageRelay q), (0x0C01, .mirrorDelta q),
   (0x0C02, .takeover q), (0x0D01, .debugHalt q), (0x0D02, .scan q)]

/-- An opcode of R96. -/
def Listed (op : Nat) : Prop := ∃ r ∈ startRows 0, r.1 = op

/-- The port matrix of R97: for each group the functions, one bit each, of owner, tenant, operator, peer, buddy and lab. -/
def portMatrix : List (List Nat) :=
  [[0x7E, 0x7E, 0x7E, 0x7E, 0x7E, 0x7E], [0x0E, 0, 0x0E, 0, 0, 0x0E], [0x3E, 0x1C, 0, 0, 0, 0x3E], [0x0E, 0x0E, 0, 0, 0, 0x0E],
   [0x02, 0x02, 0, 0, 0, 0x02], [0x0E, 0x0E, 0, 0x0E, 0, 0x0E], [0x0E, 0x0E, 0, 0, 0, 0x0E], [0x06, 0, 0x06, 0, 0, 0x06],
   [0x06, 0, 0x02, 0, 0, 0x06], [0x0E, 0x06, 0x0E, 0, 0, 0x0E], [0x06, 0x04, 0, 0, 0, 0x06], [0x06, 0x06, 0, 0x06, 0, 0x06],
   [0, 0, 0, 0, 0x06, 0x06], [0, 0, 0, 0, 0, 0x06]]

/-- R97: the matrix, the lab's column only while the lab fuse is unblown; a tenant on its own partition only; peer and buddy in the control
group only on handles of their own; the whole package named by owner and operator only, and by TAKEOVER. -/
def PortAllows (s : State) (q : Nat) (p : W512) : Prop :=
  let port := s.qPort q
  let op := pOpcode p
  ((portMatrix.getD (op / 256) []).getD port 0).testBit (op % 256) = true ∧ (port = 5 → s.boot.labBlown = false) ∧
    (port = 1 → targetPart op (pTarget p) = s.qPart q) ∧
    (port = 3 ∨ port = 4 → 0x0003 ≤ op → op ≤ 0x0006 →
      ∃ i h, s.handle? (pTarget p) = some (i, h) ∧ s.qPort h.queue = port) ∧
    (pTarget p = 0xFFFFFFFF → port = 0 ∨ port = 2 ∨ op = 0x0C02)

/-- Reserved flag bits, or schedule bytes that are not what at_furrow says (R77, R78). -/
def FlagsBad (p : W512) : Prop :=
  bits (pFlags p) 7 4 ≠ 0 ∨ (if pAtFurrow p = true then bytesOf p 62 2 ≠ 0 else bytesOf p 56 8 ≠ 0)

/-- The status of the first check of R84 that the packet fails, of those that all opcodes share. -/
def SharedRefusal (s : State) (q : Nat) (p : W512) (st : Nat) : Prop :=
  let op := pOpcode p
  let soon := op ∈ [0x0001, 0x0006, 0x0901, 0x0902, 0x0A02] ∧ pAtFurrow p = true
  let lost := targetOf op = .handle ∧ s.handle? (pTarget p) = none
  FlagsBad p ∧ st = 0x0303 ∨
    ¬ FlagsBad p ∧
      (¬ Listed op ∧ st = 0x0301 ∨
        Listed op ∧
          (soon ∧ st = 0x0303 ∨
            ¬ soon ∧
              (¬ PortAllows s q p ∧ st = 0x0302 ∨
                PortAllows s q p ∧
                  (lost ∧ st = 0x030A ∨ s.targetOk p = false ∧ st = 0x0305 ∨
                    ¬ lost ∧ s.targetOk p = true ∧ st = 0x0304 ∧
                      (if op ∈ [0x0401, 0x0501, 0x0702, 0x0B02] then pPtr p = false else 40 < pParamLen p)))))

/-- The entry has started. -/
def begun (s : State) (q : Nat) (e : Entry) : State :=
  s.modQueue q fun v => v.modEntry e.seq fun x => { x with stage := .started }

/-- Queue `q`'s next command is `e`, of opcode `op`, with its parameters in the packet and not scheduled, and it passes the checks that all opcodes
share. -/
def Begins (s : State) (q op : Nat) (e : Entry) : Prop :=
  q < 64 ∧ s.headEntry q = some e ∧ pOpcode e.pkt = op ∧ s.baseChk q e.pkt = .ok ∧ pPtr e.pkt = false ∧ pParamLen e.pkt ≤ 40 ∧
    pAtFurrow e.pkt = false

/-- No parameter byte outside the named ranges is set. -/
def RestZero (p : W512) (named : List (Nat × Nat)) : Prop :=
  ∀ k, 16 ≤ k → k < 56 → (∀ r ∈ named, k < r.1 ∨ r.1 + r.2 ≤ k) → bytesOf p k 1 = 0

/-- A control command waits. -/
def waitingCtl (kind : CtlKind) (q seq subject : Nat) : Ctl :=
  { kind := kind, queue := q, seq := seq, subject := subject, waits := [], choice := 0, count := 0, furrow := none }

end Sys2Proof

/-- How a command starts (R79, R84, R88, R96, R97): only the first entry of its queue that has not started, while nothing holds it back, and only through its own
opcode's row; the first failed check of R84 ends it with that check's status; with at_furrow it becomes a pending event, unless its
furrow is past or too near (LATE, with the current furrow) or 1,024 events are pending (FULL); otherwise it takes effect at once. -/
def Sys2Proof.Claims.CommandStarts : Prop :=
  ∀ (s : State) (q : Nat), q < 64 →
    (∀ e, s.headEntry q = some e ↔
      (s.queue q).entries.find? (fun x => x.stage != .started && x.stage != .done) = some e ∧ s.up = true ∧
        (s.fld aRasSteward 57 56 = 1 ∨ s.fld aRasSteward 55 54 = 1) ∧ e.stage = .waiting ∧ (s.queue q).held = [] ∧
        s.ringFull q = false ∧ s.rollHolds e = false ∧
        (pFence e.pkt = true → ∀ x ∈ (s.queue q).entries, x.seq < e.seq → x.stage = .done)) ∧
    (∀ r ∈ startRows q, s.headEntry q = none → exec r.2 s = .next s) ∧
    (∀ e, s.headEntry q = some e → ∀ r ∈ startRows q,
      (Listed (pOpcode e.pkt) → pOpcode e.pkt ≠ r.1 → exec r.2 s = .next s) ∧
      (∀ st, SharedRefusal s q e.pkt st → r.1 = pOpcode e.pkt ∨ ¬ Listed (pOpcode e.pkt) →
        exec r.2 s = .next (s.finish q e.seq st 0 0)) ∧
      (r.1 = pOpcode e.pkt → s.baseChk q e.pkt = .ok → pPtr e.pkt = false → pParamLen e.pkt ≤ 40 → pointerForm r.1 = false →
        (∀ st d, cmdChk s (s.cmdOf q e) = .bad st d → exec r.2 s = .next (s.finish q e.seq st 0 d)) ∧
        (cmdChk s (s.cmdOf q e) = .ok →
          (pAtFurrow e.pkt = false → exec r.2 s = .next (cmdEff (begun s q e) (s.cmdOf q e))) ∧
          (pAtFurrow e.pkt = true →
            let f := pFurrow e.pkt
            let late := 2 ^ 47 ≤ aheadOf f s.furrow ∨ s.boundary f < s.time.ns + s.guard
            (late → exec r.2 s = .next (s.finish q e.seq 0x0202 0 s.furrow)) ∧
            (¬ late → 1024 ≤ s.sched.length → exec r.2 s = .next (s.finish q e.seq 0x0201 0 0)) ∧
            (¬ late → s.sched.length < 1024 →
              ∃ t, exec r.2 s = .next t ∧ t.sched = s.sched ++ [{ furrow := f, row := opRow r.1, kind := .cmd q e.seq }] ∧
                t.queue q = (s.queue q).modEntry e.seq (fun x => { x with stage := .scheduled }) ∧
                t = { s with sched := t.sched, queues := t.queues } ∧ ∀ j, j ≠ q → t.queue j = s.queue j)))))

/-- Fetching (R540): a pointer form asks its function for param_len bytes at the address in bytes 16 to 23 and waits; DMA_READ_COMPLETION brings the data and
the checks go on with it, an error ends the command with PARAM_FAULT, and so does a block of poisoned or unpopulated local memory. -/
def Sys2Proof.Claims.ParameterFetch : Prop :=
  ∀ (s : State) (q : Nat) (e : Entry), q < 64 →
    (∀ r ∈ startRows q, s.headEntry q = some e → r.1 = pOpcode e.pkt → s.baseChk q e.pkt = .ok → pPtr e.pkt = true → e.data = [] →
      pointerForm r.1 = true ∨ pParamLen e.pkt ≤ 40 →
      let a := bytesOf e.pkt 16 8
      let n := pParamLen e.pkt
      (dmaKind (s.qPort q) a = none → exec r.2 s = .next (s.finish q e.seq 0x0304 0 0)) ∧
      (dmaKind (s.qPort q) a = some true → 0 < n →
        ∃ t, exec r.2 s = .next t ∧ t.out = .dmaRead q (a % 2 ^ 63) n :: s.out ∧
          t.queue q = (s.queue q).modEntry e.seq (fun x => { x with stage := .fetching, data := [] }) ∧
          t = { s with out := t.out, queues := t.queues } ∧ ∀ j, j ≠ q → t.queue j = s.queue j) ∧
      (dmaKind (s.qPort q) a = some false →
        ((s.readMem false (a % 2 ^ 48) n).unpop || (s.readMem false (a % 2 ^ 48) n).poison) = true →
        exec r.2 s = .next (s.finish q e.seq 0x0306 0 0))) ∧
    (s.up = true → (s.queue q).entries.find? (fun x => x.stage == .fetching) = some e →
      (∀ bs, exec (.dmaReadCompletion q false bs) s = .next (s.finish q e.seq 0x0306 0 0)) ∧
      (∀ bs, e.data = [] → pPtr e.pkt = true → pointerForm (pOpcode e.pkt) = true ∨ pParamLen e.pkt ≤ 40 → pAtFurrow e.pkt = false →
        let v := s.modQueue q fun v => v.modEntry e.seq fun x => { x with data := x.data ++ [bs] }
        let c : Cmd := { q := q, seq := e.seq, pkt := e.pkt, data := [bs] }
        v.baseChk q e.pkt = .ok →
        (∀ st d, cmdChk v c = .bad st d → exec (.dmaReadCompletion q true bs) s = .next (v.finish q e.seq st 0 d)) ∧
        (cmdChk v c = .ok → exec (.dmaReadCompletion q true bs) s = .next (cmdEff (begun v q e) c))))

/-- Records and rings (R92 to R95, R543): a command that ends has one 32-byte record written at its queue's ring place, with the counters of the moment, and the ring
steps, its phase turning at the end; its entry is released, or, with a buddy, kept as done with a retire mark sent; its vector is raised
at once without a hold; a full ring holds the record back; quiet success writes none. -/
def Sys2Proof.Claims.StatusRecords : Prop :=
  ∀ (s : State) (q : Nat) (e : Entry), Begins s q 0x0001 e → RestZero e.pkt [] → (s.queue q).entry? e.seq = some e →
    dmaKind (s.qPort q) (s.fld (aIntkQCqBase q) 63 12 * 4096 + 32 * (s.queue q).cqPos) = some true → s.fld aIntkCfg 44 13 = 0 →
    let v := s.queue q
    let pos := (v.cqPos + 1) % 2 ^ s.fld (aIntkQCfg q) 35 32
    let record := leBytes 2 0 ++ leBytes 1 q ++ leBytes 1 (s.qPort q) ++ leBytes 6 e.seq ++ leBytes 2 1 ++ leBytes 4 0
      ++ leBytes 8 s.furrow ++ leBytes 6 s.furrow ++ leBytes 1 s.quality
      ++ leBytes 1 ((if v.cqPhase then 1 else 0) + 2 + (if e.restated then 4 else 0))
    ∃ t, exec (.nop q) s = .next t ∧
      (pQuiet e.pkt = false →
        (t.queue q).cqPos = pos ∧ (t.queue q).cqPhase = (if pos = 0 then !v.cqPhase else v.cqPhase) ∧
        t.out.reverse.drop s.out.length =
          [.dma q (s.fld (aIntkQCqBase q) 63 12 * 4096 + 32 * v.cqPos) record, .msix (s.fld (aIntkQCfg q) 55 45)]
            ++ (if s.buddy = 0 then [] else [.mirror 0x31 [q, e.seq]])) ∧
      (pQuiet e.pkt = true →
        (t.queue q).cqPos = v.cqPos ∧
        t.out.reverse.drop s.out.length = if s.buddy = 0 then [] else [.mirror 0x31 [q, e.seq]]) ∧
      (s.buddy = 0 → (t.queue q).entry? e.seq = none) ∧
      (s.buddy ≠ 0 → ((t.queue q).entry? e.seq).map (fun x => x.stage) = some .done) ∧
      (∀ x ∈ v.entries, x.seq ≠ e.seq → x ∈ (t.queue q).entries) ∧ (∀ j, j ≠ q → t.queue j = s.queue j) ∧
      t = { s with out := t.out, queues := t.queues }

/-- Commands on handles (R99, R100, R103, R113): NOP; QUERY_HANDLE's answer; SUSPEND and CANCEL put a running operation on its way to its safe point or its furrow and
wait, a finished one is HANDLE_DONE; RESUME of a suspended one waits for the next furrow; FLUSH removes the queue's waiting commands with
FLUSHED and ends with their number once no operation of the queue is left to wait for. -/
def Obligations.HandleCommands : Prop :=
  ∀ (s : State) (q : Nat) (e : Entry),
    let u := begun s q e
    let w := pTarget e.pkt
    (Begins s q 0x0001 e → RestZero e.pkt [] → exec (.nop q) s = .next (u.finish q e.seq 0 0 s.furrow)) ∧
    (∀ i h, s.handle? w = some (i, h) → RestZero e.pkt [] →
      (Begins s q 0x0006 e →
        ∃ code, exec (.queryHandle q) s =
            .next (u.finish q e.seq 0 0
              (code + h.part * 2 ^ 8 + h.opcode.toNat * 2 ^ 16 + h.lastFurrow % 2 ^ 32 * 2 ^ 32)) ∧
          ((∀ k ∈ s.colls, k.2.handle.toNat ≠ w) → code = h.state.code) ∧
          (∀ c k, s.colls = [(c, k)] → k.handle.toNat = w → h.state = .running → k.run = .idle → code = 6)) ∧
      (Begins s q 0x0003 e → h.state = .running → h.isProg = false →
        exec (.suspend q) s =
          .next { u.setHslot i { h with state := .suspending, lastFurrow := s.furrow } with
            ctl := s.ctl ++ [waitingCtl .suspend q e.seq w] }) ∧
      (Begins s q 0x0003 e → h.state = .running → h.isProg = true →
        ∃ t, exec (.suspend q) s = .next t ∧ t.ctl = s.ctl ++ [waitingCtl .suspend q e.seq w] ∧
          (∃ n, t.hslot i = some { h with state := .suspending, lastFurrow := s.furrow, safeNo := n + 1 } ∧
            ∀ k ∈ h.tiles, (s.tile k).safeptLast ≤ n) ∧
          ∀ k, t.tile k =
            if k ∈ h.tiles ∧ (s.tile k).run = .running then { s.tile k with run := .suspending } else s.tile k) ∧
      (Begins s q 0x0003 e → h.state = .suspended → s.ctl = [] →
        exec (.suspend q) s = .next ((u.setHslot i { h with resumeAt := none }).finish q e.seq 0 0 h.suspFurrow)) ∧
      (Begins s q 0x0004 e → h.state = .running → exec (.resume q) s = .next (u.finish q e.seq 0 0 0)) ∧
      (Begins s q 0x0004 e → h.state = .suspended →
        exec (.resume q) s =
          .next { u.setHslot i { h with resumeAt := some (h.resumeAt.getD (furrowAdd s.furrow 1)) } with
            ctl := s.ctl ++ [waitingCtl .resume q e.seq w] }) ∧
      (Begins s q 0x0005 e → h.state = .running ∨ h.state = .suspending ∨ h.state = .suspended →
        h.late = false ∨ h.opcode.toNat ≠ 0x0401 → s.ctl = [] →
        exec (.cancel q) s =
          .next { u.setHslot i { h with state := .cancelling, lastFurrow := s.furrow, resumeAt := none } with
            ctl := [waitingCtl .cancel q e.seq w] }) ∧
      (h.state = .done ∨ h.state = .cancelled →
        (Begins s q 0x0003 e → exec (.suspend q) s = .next (u.finish q e.seq 0x030B 0 0)) ∧
        (Begins s q 0x0004 e → exec (.resume q) s = .next (u.finish q e.seq 0x030B 0 0)) ∧
        (Begins s q 0x0005 e → exec (.cancel q) s = .next (u.finish q e.seq 0x030B 0 0)))) ∧
    (Begins s q 0x0002 e → RestZero e.pkt [(16, 2)] → bytesOf e.pkt 16 1 ≤ 1 → bytesOf e.pkt 17 1 = 0 → s.handles = [] →
      s.ctl = [] →
      let ws := ((u.queue q).entries.filter fun x =>
          (x.stage == .waiting || x.stage == .fetching || x.stage == .scheduled) && x.seq != e.seq).map fun x => x.seq
      exec (.flush q) s =
        .next ((ws.foldl
          (fun v n => ({ v with sched := v.sched.filter fun x => x.kind != .cmd q n } : State).finish q n 0x0307 0 0) u).finish
            q e.seq 0 0 ws.length))

/-- Settings (R104, R105, R114 to R116, R430, R442, R484, R492, R502, R508): TIME_SET waits for its edge with source 5 or 0 and is refused with the source else; FURROW_SET
sets or clears the furrow registers, or ends with the number of the condition that it fails and furrow_refused set; the reads write
their bytes; DET_SET, CAP_SET and PHASE_TABLE set theirs; DEBUG_HALT waits for the next furrow; SCAN's tile is cleared and its record written. -/
def Obligations.SettingCommands : Prop :=
  ∀ (s : State) (q : Nat) (e : Entry),
    let u := begun s q e
    let p := fun (a n : Nat) => bytesOf e.pkt a n
    (Begins s q 0x0101 e → RestZero e.pkt [(16, 8)] →
      (s.source = 0 ∨ s.source = 5 →
        exec (.timeSet q) s =
          .next { u with time := { s.time with timeSet := s.time.timeSet ++ [(q, e.seq, BitVec.ofNat 64 (p 16 8), none)] } }) ∧
      (s.source ≠ 0 → s.source ≠ 5 → exec (.timeSet q) s = .next (s.finish q e.seq 0x0304 0 s.source))) ∧
    (Begins s q 0x0102 e → RestZero e.pkt [(16, 2), (24, 8)] → p 17 1 ≤ 1 →
      let live := ∃ h ∈ s.handles, h.2.state.live = true
      let refused := fun (n : Nat) =>
        exec (.furrowSet q) s = .next ((u.setFlag aTimeStatus 63).finish q e.seq 0x0304 0 n)
      (s.sched ≠ [] ∨ s.time.step.isSome = true → refused 1) ∧
      (s.sched = [] → s.time.step = none → live → refused 2) ∧
      (s.sched = [] → s.time.step = none → ¬ live →
        (p 17 1 = 0 → p 24 8 % 2 ^ p 16 1 ≠ 0 → refused 3) ∧
        (p 17 1 = 0 → p 24 8 % 2 ^ p 16 1 = 0 → p 16 1 < 8 ∨ 20 < p 16 1 → refused 4) ∧
        (p 17 1 = 0 → p 24 8 % 2 ^ p 16 1 = 0 → 8 ≤ p 16 1 → p 16 1 ≤ 20 →
          ∃ v : State, exec (.furrowSet q) s = .next (v.finish q e.seq 0 0 0) ∧ v.furrowLen = 2 ^ p 16 1 ∧ v.epoch = p 24 8 ∧
            (v.rd aTimeFurrowCfg).testBit 5 = true ∧ v = { u with regs := v.regs } ∧
            ∀ o, o ≠ aTimeFurrowCfg → o ≠ aTimeFurrowEpoch → v.rd o = s.rd o) ∧
        (p 17 1 = 1 → exec (.furrowSet q) s = .next ((u.setFld aTimeFurrowCfg 5 5 0).finish q e.seq 0 0 0)))) ∧
    (Begins s q 0x0901 e → RestZero e.pkt [(24, 8)] → dmaKind (s.qPort q) (p 24 8) ≠ none →
      exec (.healthRead q) s = .next ((u.dmaWrite q (p 24 8) u.healthBytes).finish q e.seq 0 0 s.furrow) ∧
        u.healthBytes.length = 256) ∧
    (Begins s q 0x0902 e → s.oldestRec ≤ p 16 4 → 1 ≤ p 20 2 → p 20 2 ≤ 1024 → dmaKind (s.qPort q) (p 24 8) ≠ none →
      let rs := (s.ras.recs.filter fun r => p 16 4 ≤ r.1).take (p 20 2)
      exec (.errlogRead q) s =
        .next ((u.dmaWrite q (p 24 8) (rs.flatMap fun r => leBytes 64 r.2.toNat)).finish q e.seq 0 0 rs.length)) ∧
    (Begins s q 0x0A01 e → RestZero e.pkt [(16, 1)] → p 16 1 < 2 →
      ((∃ h ∈ s.handles, h.2.state.live = true) → s.globalDet ≠ (p 16 1 == 1) →
        exec (.detSet q) s = .next (u.finish q e.seq 0x0103 0 0)) ∧
      ((∀ h ∈ s.handles, h.2.state.live = false) →
        ∃ v : State, exec (.detSet q) s = .next (v.finish q e.seq 0 0 0) ∧ v.globalDet = (p 16 1 == 1) ∧ v = { u with regs := v.regs } ∧
          ∀ o, o ≠ aDevMode → v.rd o = s.rd o)) ∧
    (Begins s q 0x0A02 e → dmaKind (s.qPort q) (p 24 8) ≠ none →
      ((∀ d ∈ s.digs, d.handle ≠ p 16 4) → exec (.digestRead q) s = .next (s.finish q e.seq 0x030A 0 0)) ∧
      (∀ d, s.digs.reverse.find? (fun x => x.handle == p 16 4) = some d →
        exec (.digestRead q) s =
          .next ((u.dmaWrite q (p 24 8) (leBytes 32 d.chain.toNat ++ d.comps.flatMap fun c => leBytes 32 c.toNat)).finish
            q e.seq 0 0 0))) ∧
    (Begins s q 0x0701 e → RestZero e.pkt [(16, 3)] →
      (p 16 2 < 1200 ∨ 3600 < p 16 2 ∨ p 18 1 = 0 ∨ 16 < p 18 1 → exec (.capSet q) s = .next (s.finish q e.seq 0x1101 0 0)) ∧
      (1200 ≤ p 16 2 → p 16 2 ≤ 3600 → 1 ≤ p 18 1 → p 18 1 ≤ 16 → s.flag aPwrStatus 49 = true →
        exec (.capSet q) s =
          .next (({ u with pwr := { s.pwr with heldCap := some (p 16 2, p 18 1) } } : State).finish q e.seq 0 0 0)) ∧
      (1200 ≤ p 16 2 → p 16 2 ≤ 3600 → 1 ≤ p 18 1 → p 18 1 ≤ 16 → s.flag aPwrStatus 49 = false →
        ∃ v : State, exec (.capSet q) s = .next (v.finish q e.seq 0 0 0) ∧ v.capW = p 16 2 ∧ v.fld aPwrCap 20 16 = p 18 1 ∧
          v.fld aPwrMeasure 15 0 =
            (if s.fld aPwrStatus 51 50 = 0 then p 16 2 else if s.fld aPwrStatus 51 50 = 1 then p 16 2 * 85 / 100
             else p 16 2 * 70 / 100) ∧
          v.pwr = { s.pwr with hist := [], excess := 0 } ∧ v = { u with regs := v.regs, pwr := v.pwr })) ∧
    (∀ bs : List Byte, s.headEntry q = some e → q < 64 → pOpcode e.pkt = 0x0702 → s.baseChk q e.pkt = .ok → pPtr e.pkt = true →
      e.data = [bs] → pParamLen e.pkt = 128 → pAtFurrow e.pkt = false →
      let w := fun (k : Nat) => leNat ((bs.drop (8 * k)).take 8) % 2 ^ 40
      (s.globalDet = true → exec (.phaseTable q) s = .next (s.finish q e.seq 0x0E01 0 0)) ∧
      (s.globalDet = false → (∀ k, k < 16 → w k % 2 ^ 16 ≤ 20000 ∧ w k / 2 ^ 16 % 2 ^ 16 ≤ 20000) →
        ∃ v : State, exec (.phaseTable q) s = .next (v.finish q e.seq 0 0 0) ∧ v = { u with regs := v.regs } ∧
          (∀ k, k < 16 → v.rd (aPwrPhase (pTarget e.pkt) k) = w k) ∧
          ∀ o, (∀ k, k < 16 → o ≠ aPwrPhase (pTarget e.pkt) k) → v.rd o = s.rd o)) ∧
    (Begins s q 0x0D01 e → RestZero e.pkt [(16, 1)] → p 16 1 ≤ 1 →
      exec (.debugHalt q) s =
        .next { u with
          ctl := s.ctl ++
            [{ waitingCtl .debugHalt q e.seq (pTarget e.pkt) with choice := p 16 1, furrow := some (furrowAdd s.furrow 1) }] }) ∧
    (Begins s q 0x0D02 e → RestZero e.pkt [(16, 2), (24, 8)] → p 16 1 < 4 → p 17 1 < 156 →
      dmaKind (s.qPort q) (p 24 8) ≠ none →
      let k := 156 * p 16 1 + p 17 1
      let free := (s.tile k).retired = true ∨ s.isMapped k = false ∨ s.tilePart? k = none
      (¬ free → exec (.scan q) s = .next (s.finish q e.seq 0x0305 0 0)) ∧
      (free → exec (.scan q) s = .next { u with ctl := s.ctl ++ [waitingCtl .scan q e.seq k] })) ∧
    (∀ (c : Ctl) (pass : Bool) (fails : BitVec 16) (row : W64),
      s.ctl.find? (fun c => c.kind == .scan && c.queue == q) = some c → (s.queue q).entry? c.seq = some e → pPtr e.pkt = false →
      let x := s.tile c.subject
      let v := s.setTile c.subject { Tile.zero with retired := x.retired, gated := x.gated }
      let bytes := leBytes 1 (if pass then 1 else 0) ++ leBytes 2 (fails.toNat % 1024) ++ List.replicate 13 0 ++ leBytes 8 row.toNat
        ++ List.replicate 40 0
      exec (.scanDone q pass fails row) s =
        .next (({ v.dmaWrite q (p 24 8) bytes with ctl := s.ctl.erase c } : State).finish q c.seq 0 0 0))

namespace Sys2Proof

/-- Started user cores of a partition halt, and no other core changes (R314). -/
def CoresHalted (s t : State) (p : Nat) : Prop :=
  ∀ c, t.core c =
    if c < 96 ∧ s.corePart c = p ∧ (s.core c).run ≠ .halted ∧ (s.core c).run ≠ .doubleTrap then
      { s.core c with run := .halted, haltFurrow := s.furrow }
    else s.core c

end Sys2Proof

/-- Partitions (R107 to R109, R146, R147): PART_CREATE takes the named runs of free logical tiles and hands over their tiles idle, cleared and powered, and is refused for a
partition that exists, a run beyond the active tiles or one that meets another's; PART_RESET waits for the first furrow beyond the guard;
PART_DELETE is refused while an operation or another enabled queue is left, with the handle or all ones; both end when PARTITION_CLEAR_DONE finds the
tiles clear. -/
def Sys2Proof.Claims.PartitionCommands : Prop :=
  ∀ (s : State) (q : Nat) (e : Entry),
    let u := begun s q e
    let p := pTarget e.pkt
    let first := fun (d : Nat) => bytesOf e.pkt (16 + 2 * d) 1
    let count := fun (d : Nat) => bytesOf e.pkt (17 + 2 * d) 1
    (Begins s q 0x0201 e → RestZero e.pkt [(16, 8)] →
      (s.partExists p = true ∨
          (∃ d, d < 4 ∧ count d ≠ 0 ∧
            (s.active < first d + count d ∨
              ∃ x f n, x < 16 ∧ x ≠ p ∧ s.partRun x d = some (f, n) ∧ first d < f + n ∧ f < first d + count d ∧ n ≠ 0)) →
        exec (.partCreate q) s = .next (s.finish q e.seq 0x0304 0 0)) ∧
      (s.partExists p = false →
        (∀ d, d < 4 → count d ≠ 0 → first d + count d ≤ s.active ∧
          ∀ x f n, x < 16 → x ≠ p → s.partRun x d = some (f, n) → f + n ≤ first d ∨ first d + count d ≤ f) →
        ∃ v : State, exec (.partCreate q) s = .next (v.finish q e.seq 0 0 0) ∧ v = { u with regs := v.regs, tiles := v.tiles } ∧
          (∀ d, d < 4 → v.partRun p d = some (first d, count d)) ∧
          (∀ o, (∀ d, d < 4 → o ≠ aTilePart p d) → v.rd o = s.rd o) ∧
          (∀ d l k, d < 4 → first d ≤ l → l < first d + count d → s.mapped? d l = some k →
            (v.tile k).run = .idle ∧ (v.tile k).gated = false ∧ (v.tile k).store = [] ∧ (v.tile k).treg = [] ∧
              (v.tile k).mx.acc = [] ∧ (v.tile k).mx.comb = []) ∧
          (∀ k, (∀ d l, d < 4 → first d ≤ l → l < first d + count d → s.mapped? d l ≠ some k) → v.tile k = s.tile k))) ∧
    (Begins s q 0x0202 e → RestZero e.pkt [] →
      (s.sched.length < 1024 →
        exec (.partReset q) s =
          .next { u with sched := s.sched ++ [{ furrow := s.firstFurrow, row := 3, kind := .cmd q e.seq }] }) ∧
      (1024 ≤ s.sched.length → exec (.partReset q) s = .next (u.finish q e.seq 0x0201 0 0))) ∧
    (Begins s q 0x0205 e → RestZero e.pkt [] →
      (∀ i h, s.handles = [(i, h)] → h.part = p → h.state = .running →
        exec (.partDelete q) s = .next (s.finish q e.seq 0x0305 0 (handleWord h.gen h.part i))) ∧
      (∀ j, s.handles = [] → j < 64 → j ≠ q → s.qPart j = p → s.qEnabled j = true →
        exec (.partDelete q) s = .next (s.finish q e.seq 0x0305 0 0xFFFFFFFF)) ∧
      (s.handles = [] → (∀ j, j < 64 → j ≠ q → s.qPart j = p → s.qEnabled j = false) →
        ∃ t, exec (.partDelete q) s = .next t ∧ t.ctl = s.ctl ++ [waitingCtl .partDelete q e.seq p] ∧
          t.part p = { Part.zero with clearing := true } ∧ t.partExists p = false ∧ CoresHalted s t p ∧
          (∀ k, (k ∈ s.partTiles p → (t.tile k).run = .idle ∧ (t.tile k).gated = true ∧ (t.tile k).store = []) ∧
            (k ∉ s.partTiles p → t.tile k = s.tile k)))) ∧
    (∀ n, (s.part n).clearing = false → exec (.partitionClearDone n) s = .next s) ∧
    (∀ n c, (s.part n).clearing = true → s.ctl = [c] → c.kind = .partDelete ∨ c.kind = .partReset → c.subject = n → c.waits = [] →
      c.furrow = none →
      ∃ v : State, exec (.partitionClearDone n) s = .next (v.finish c.queue c.seq 0 0 0) ∧ v.ctl = [] ∧
        v.part n = { s.part n with clearing := false } ∧
        (∀ k, (k ∈ s.partTiles n → (v.tile k).store = [] ∧ (v.tile k).treg = [] ∧ (v.tile k).save = none) ∧
          (k ∉ s.partTiles n → v.tile k = s.tile k)) ∧
        v = { s with ctl := [], parts := v.parts, tiles := v.tiles })

/-- Programs (R111, R112, R124, R384, R471): PROG_LOAD takes a whole valid image into retention copy B and every tile of the partition, and is refused with the failing
descriptor slot otherwise; PROG_RUN and TRAIN_STEP start every tile at the entry with its parameters in s1 to s4, and need a loaded image, the
latter the latest image's number; PROGRAM_HALTED halts a drained tile, and with the last one the operation is done; a window operation's end
writes dirty lines of the window back, and an acquire keeps none. -/
def Sys2Proof.Claims.ProgramCommands : Prop :=
  ∀ (s : State) (q : Nat) (e : Entry),
    let u := begun s q e
    let p := pTarget e.pkt
    (∀ img : List Byte, Begins s q 0x0301 e → RestZero e.pkt [(16, 8), (24, 4)] → e.data = [img] → s.handles = [] →
      dmaKind (s.qPort q) (bytesOf e.pkt 16 8) ≠ none → 1152 < bytesOf e.pkt 24 4 → bytesOf e.pkt 24 4 ≤ 66688 →
      (imgHeadOk img = false → exec (.progLoad q) s = .next (s.finish q e.seq 0x0304 0 0)) ∧
      (∀ i, imgHeadOk img = true → imgBadM img = some i → exec (.progLoad q) s = .next (s.finish q e.seq 0x0304 0 i)) ∧
      (∀ i, imgHeadOk img = true → imgBadM img = none → imgBadX img = some i →
        exec (.progLoad q) s = .next (s.finish q e.seq 0x0601 0 i)) ∧
      (imgHeadOk img = true → imgBadM img = none → imgBadX img = none →
        ∃ v : State, exec (.progLoad q) s = .next (v.finish q e.seq 0 0 0) ∧
          v = { u with retB := v.retB, parts := v.parts, tiles := v.tiles } ∧
          (∀ a, mget v.retB a =
            if imageBase p ≤ a ∧ a < imageBase p + img.length then img.getD (a - imageBase p) 0 else mget s.retB a) ∧
          v.part p = { s.part p with loaded := true, imgLen := img.length } ∧
          (∀ k ∈ s.partTiles p,
            (∀ i, i < imgNum img 4 2 → sget 0 (v.tile k).bundles i = BitVec.ofNat 128 (imgNum img (1152 + 16 * i) 16)) ∧
            (∀ i, i < 128 → sget 0 (v.tile k).dsc i = BitVec.ofNat 64 (imgNum img (64 + 8 * i) 8)) ∧
            v.tile k = { s.tile k with bundles := (v.tile k).bundles, dsc := (v.tile k).dsc }) ∧
          (∀ k, k ∉ s.partTiles p → v.tile k = s.tile k))) ∧
    (s.handles = [] → s.colls = [] → s.globalDet = false → ∀ (op : Nat) (i : Instr),
      op = 0x0302 ∧ i = .progRun q ∧ RestZero e.pkt [(16, 32)] ∨
        op = 0x0303 ∧ i = .trainStep q ∧ RestZero e.pkt [(16, 32), (48, 6)] →
      Begins s q op e →
      ((s.part p).loaded = false → exec i s = .next (s.finish q e.seq 0x0305 0 0)) ∧
      ((s.part p).loaded = true → op = 0x0303 →
        s.flag (aCkptPartLatest p) 49 = false ∨ bytesOf e.pkt 48 6 ≠ s.latestImage p →
        exec i s = .next (s.finish q e.seq 0x0304 0 0)) ∧
      ((s.part p).loaded = true →
        (op = 0x0303 → s.flag (aCkptPartLatest p) 49 = true ∧ bytesOf e.pkt 48 6 = s.latestImage p) →
        (s.queue q).entry? e.seq = some e → s.partTiles p ≠ [] →
        dmaKind (s.qPort q) (s.fld (aIntkQCqBase q) 63 12 * 4096 + 32 * (s.queue q).cqPos) = some true →
        ∃ t h, exec i s = .next t ∧ t.hslot 0 = some h ∧ h.state = .running ∧ h.part = p ∧ h.opcode.toNat = op ∧ h.tiles = s.partTiles p ∧
          h.queue = q ∧ h.seq = e.seq ∧ h.gen = 1 ∧ t.fld (aPwrPart p) 35 32 = 0 ∧
          (∀ k ∈ s.partTiles p,
            let x := t.tile k
            x.run = .running ∧ x.stopped = false ∧ x.pc = s.imageEntry p ∧ x.bias = 0 ∧ x.tok = [] ∧ x.vec.mode = 0 ∧
              x.vec.seed = BitVec.ofNat 64 (s.rd (aVecPartSeed p)) ∧ x.store = (s.tile k).store ∧
              (∀ j, j < 32 → sget 0 x.s j =
                if 1 ≤ j ∧ j ≤ 4 then BitVec.ofNat 64 (bytesOf e.pkt (8 + 8 * j) 8) else 0) ∧
              ∀ m, m < 8 → sget 0 x.mreg m = BitVec.allOnes 1024) ∧
          ∀ k, k ∉ s.partTiles p → t.tile k = s.tile k)) ∧
    (∀ (k i : Nat) (h : HRec), s.handles = [(i, h)] → h.state = .running → h.isProg = true → h.late = false → h.ending = none →
      k ∈ h.tiles → (s.tile k).run = .running → (s.tile k).stopped = true → (s.tile k).excPend = none →
      (s.tile k).qm = [] → (s.tile k).qv = [] → (s.tile k).qx = [] → (s.tile k).em = [] → (s.tile k).ev = [] → (s.tile k).ex = [] →
      ((∃ j ∈ h.tiles, j ≠ k ∧ (s.tile j).run ≠ .halted) →
        exec (.programHalted k) s = .next (s.setTile k { s.tile k with run := .halted })) ∧
      ((∀ j ∈ h.tiles, j ≠ k → (s.tile j).run = .halted) → s.cache.wins = [] → s.ctl = [] →
        (∀ w, w < 8 → s.flag (aCacheWinBase w) 0 = false) →
        ∃ t h', exec (.programHalted k) s = .next t ∧ t.hslot i = some h' ∧ h'.state = .done ∧ h'.lastFurrow = s.furrow ∧
          (t.tile k).run = .halted)) ∧
    (∀ (n : Nat) (acquire : Bool) (key : Nat) (c : CLine), s.cache.wins = [(n, acquire)] → s.handles = [] → s.cache.dir = [] →
      s.cache.evict = [] → s.cache.lines = [(key, c)] → keyLevel key = 4 → keyInst key = s.slice c.line → c.st = .m →
      64 * s.fld (aCacheWinBase n) 47 12 ≤ c.line → c.line ≤ 64 * s.fld (aCacheWinLimit n) 47 12 + 63 → c.line * 64 < hbmEnd →
      ∃ t, exec (.windowOperationDone n) s = .next t ∧ t.cache.wins = [] ∧
        (∀ i, i < 64 → mget t.hbm.mem (64 * c.line + i) = BitVec.ofNat 8 (byteOf c.data i)) ∧
        (∀ a, a < 64 * c.line ∨ 64 * c.line + 64 ≤ a → mget t.hbm.mem a = mget s.hbm.mem a) ∧
        t.cache.lines = if acquire then [] else [(key, { c with st := .e })])

namespace Sys2Proof

/-- A long operation of the entry is in progress in `t` (R93, R98): it holds the lowest slot that was free in `s`, under the slot's next generation, for its partition
and tiles, and its entry names the handle. -/
def Opened (s t : State) (q : Nat) (e : Entry) (part i : Nat) (tiles : List Nat) : Prop :=
  freeSlot 4096 s 0 = some i ∧ ∃ h, t.hslot i = some h ∧ h.gen = nextGen s i ∧ h.part = part ∧ h.state = .running ∧
    h.opcode = BitVec.ofNat 16 (pOpcode e.pkt) ∧ h.queue = q ∧ h.seq = e.seq ∧ h.pkt = e.pkt ∧ h.data = e.data ∧
    h.startFurrow = s.furrow ∧ h.tiles = tiles

/-- What the descriptor of a MEM_COPY or MEM_FILL still has to do is all of it, in this package's HBM. -/
def FreshTransfer (s : State) (i : Nat) (r : HRec) (dst n : Nat) : Prop :=
  s.hslot i = some r ∧ r.state = .running ∧ r.chunks = 0 ∧ r.job = { buf := [], left := 0, writing := false, unpop := false } ∧
    pPtr r.pkt = false ∧ s.hbm.poison = [] ∧ s.digRun = [] ∧ s.ctl = [] ∧ dst + n ≤ hbmEnd

end Sys2Proof

/-- MEM_COPY and MEM_FILL (R101, R110): within HBM they open an operation, overlapping ranges are refused; MEM_COPY_FILL_DONE leaves exactly the destination
changed, to the source's bytes or to the repeated pattern, and ends the operation with the length. No slot left is NO_HANDLE. -/
def Sys2Proof.Claims.MemoryCommands : Prop :=
  ∀ (s : State) (q : Nat) (e : Entry),
    let u := begun s q e
    let a := bytesOf e.pkt 16 8
    let b := bytesOf e.pkt 24 8
    let n := bytesOf e.pkt 32 8
    (Begins s q 0x0203 e → 1 ≤ n → a + n ≤ hbmEnd → b + n ≤ hbmEnd → RestZero e.pkt [(16, 24)] →
      (a < b + n → b < a + n → exec (.memCopy q) s = .next (s.finish q e.seq 0x0304 0 0)) ∧
      (a + n ≤ b ∨ b + n ≤ a → (s.queue q).entry? e.seq = some e →
        (∀ i, freeSlot 4096 s 0 = some i → ∃ t, exec (.memCopy q) s = .next t ∧ Opened s t q e (pTarget e.pkt) i []) ∧
        (freeSlot 4096 s 0 = none → exec (.memCopy q) s = .next (u.finish q e.seq 0x0309 0 0)))) ∧
    (Begins s q 0x0204 e → a % 8 = 0 → b % 8 = 0 → a + b ≤ hbmEnd → RestZero e.pkt [(16, 24)] → (s.queue q).entry? e.seq = some e →
      ∀ i, freeSlot 4096 s 0 = some i → ∃ t, exec (.memFill q) s = .next t ∧ Opened s t q e (pTarget e.pkt) i []) ∧
    (∀ i r, r.opcode = 0x0203 →
      let src := bytesOf r.pkt 16 8
      let dst := bytesOf r.pkt 24 8
      let len := bytesOf r.pkt 32 8
      FreshTransfer s i r dst len → src + len ≤ hbmEnd → src + len ≤ dst ∨ dst + len ≤ src → 1 ≤ len →
        ∃ v : State, exec (.memCopyFillDone i) s = .next (v.finish r.queue r.seq 0 (s.hword i) len) ∧
          (v.hslot i).map HRec.state = some .done ∧
          ∀ x, mget v.hbm.mem x = if dst ≤ x ∧ x < dst + len then mget s.hbm.mem (src + (x - dst)) else mget s.hbm.mem x) ∧
    (∀ i r, r.opcode = 0x0204 →
      let dst := bytesOf r.pkt 16 8
      let len := bytesOf r.pkt 24 8
      FreshTransfer s i r dst len → dst % 8 = 0 → len % 8 = 0 →
        ∃ v : State, exec (.memCopyFillDone i) s = .next (v.finish r.queue r.seq 0 (s.hword i) len) ∧
          (v.hslot i).map HRec.state = some .done ∧
          ∀ x, mget v.hbm.mem x =
            if dst ≤ x ∧ x < dst + len then BitVec.ofNat 8 (byteOf r.pkt (32 + (x - dst) % 8)) else mget s.hbm.mem x)

/-- Solver batches (R265 to R267, R272, R283 to R286): SOLVE_BATCH with a descriptor that passes R266 opens the operation, clears the progress and drives its tiles, and is refused
with the first word that fails otherwise; PROBLEM_STOP leaves the problem's solution and its 16 status bytes in scratch and counts it, a
certificate out of range being BAD_INPUT with a zero solution; COMMIT_PHASE_END copies them out and ends the operation, THR_FLAGGED when a
problem is flagged. -/
def Sys2Proof.Claims.SolverCommands : Prop :=
  ∀ (s : State),
    (∀ (q : Nat) (e : Entry) (bs : List Byte), q < 64 → s.headEntry q = some e → pOpcode e.pkt = 0x0401 → s.baseChk q e.pkt = .ok →
      pPtr e.pkt = true → e.data = [bs] → pAtFurrow e.pkt = false → s.handles = [] →
      let p := pTarget e.pkt
      let d : BDesc := (below 9).map fun i => leNat ((bs.drop (8 * i)).take 8)
      (pParamLen e.pkt ≠ 72 → exec (.solveBatch q) s = .next (s.finish q e.seq 0x0304 0 0)) ∧
      (∀ i, pParamLen e.pkt = 72 → i < 9 → s.batchWordOk d i = false → (∀ j, j < i → s.batchWordOk d j = true) →
        exec (.solveBatch q) s = .next (s.finish q e.seq 0x0304 0 i)) ∧
      (pParamLen e.pkt = 72 → (∀ i, i < 9 → s.batchWordOk d i = true) → (s.queue q).entry? e.seq = some e →
        ∃ t b, exec (.solveBatch q) s = .next t ∧ Opened s t q e p 0 (s.partTiles p) ∧ sfind? t.batches 0 = some b ∧
          b.part = p ∧ b.stopped = [] ∧ (∀ i, i < 9 → (nth b.desc i).map BitVec.toNat = some (d.w i)) ∧
          b.tau = BitVec.ofNat 64 (s.rd (aThrPartTau p)) ∧ t.rd (aThrPartProgress p) = 0 ∧
          ∀ k ∈ s.partTiles p, (t.tile k).run = .running ∧ (t.tile k).stopped = true ∧ (t.tile k).qm = [] ∧ (t.tile k).qx = [])) ∧
    (∀ (h i : Nat) (b : Batched) (r : HRec), sfind? s.batches h = some b → s.hslot h = some r → s.up = true → r.state = .running →
      s.winBusy b.part false = false → s.digRun = [] → s.hbm.poison = [] → sfind? b.stopped i = none →
      let d : BDesc := b.desc.map BitVec.toNat
      let v := s.solveProblem d b.tau.toNat i
      let a := d.base 6 + (d.xLen + 16) * i
      let bytes := v.bytes d ++ leBytes 16 v.word
      i < d.count →
        (∃ t, exec (.problemStop h i) s = .next t ∧
          t.batches = sins s.batches h { b with stopped := sins b.stopped i v.flagged } ∧
          (∀ x, mget t.hbm.mem x =
            if a ≤ x ∧ x < a + bytes.length then bytes.getD (x - a) 0 else mget s.hbm.mem x) ∧
          t.fld (aThrPartProgress b.part) 31 0 = min (s.fld (aThrPartProgress b.part) 31 0 + 1) (2 ^ 32 - 1) ∧
          t.fld (aThrPartProgress b.part) 63 32 =
            min (s.fld (aThrPartProgress b.part) 63 32 + (if v.flagged then 1 else 0)) (2 ^ 32 - 1)) ∧
        ((∃ k, k < 8 ∧
            let x := sint 16 (mval s.hbm.mem (d.base 4 + 16 * i + 2 * k) 2)
            x < -2048 ∨ 2047 < x) →
          v.flagged = true ∧ v.word = 4 + 15 * 2 ^ 24 + 0xFFFFFFFF * 2 ^ 96 ∧ ∀ y ∈ v.bytes d, y = 0)) ∧
    (∀ (h : Nat) (b : Batched) (r : HRec), sfind? s.batches h = some b → s.hslot h = some r → s.up = true → r.late = true →
      r.state = .running → r.ending = none → r.opcode = 0x0401 → s.digRun = [] → s.hbm.poison = [] → s.ctl = [] → s.cache.wins = [] →
      (∀ w, w < 8 → s.flag (aCacheWinBase w) 0 = false) →
      let d : BDesc := b.desc.map BitVec.toNat
      d.count = 1 → d.base 6 + d.xLen + 16 ≤ d.base 3 ∨ d.base 3 + d.xLen ≤ d.base 6 →
      d.base 6 + d.xLen + 16 ≤ d.base 5 ∨ d.base 5 + 16 ≤ d.base 6 → d.base 3 + d.xLen ≤ d.base 5 ∨ d.base 5 + 16 ≤ d.base 3 →
      ∀ f : Bool, b.stopped = [(0, f)] →
        ∃ v : State, exec (.commitPhaseEnd h) s =
            .next (v.finish r.queue r.seq (if f then 0x0801 else 0) (s.hword h) (if f then 1 else 0xFFFFFFFF * 2 ^ 32)) ∧
          (v.hslot h).map HRec.state = some .done ∧ v.batches = sdel s.batches h ∧
          (∀ x, mget v.hbm.mem x =
            if d.base 3 ≤ x ∧ x < d.base 3 + d.xLen then mget s.hbm.mem (d.base 6 + (x - d.base 3))
            else if d.base 5 ≤ x ∧ x < d.base 5 + 16 then mget s.hbm.mem (d.base 6 + d.xLen + (x - d.base 5))
            else mget s.hbm.mem x) ∧
          ∀ k ∈ r.tiles, (v.tile k).run = .idle ∧ (v.tile k).treg = [] ∧ (v.tile k).mx.acc = [])

namespace Sys2Proof

/-- Only the collective in slot `c` differs, and it is `k`. -/
def CollOnly (s t : State) (c : Nat) (k : Coll) : Prop :=
  t.coll c = some k ∧ (∀ j, j ≠ c → t.coll j = s.coll j) ∧ t = { s with colls := t.colls }

/-- Slot `c` holds no collective any more. -/
def CollGone (s t : State) (c : Nat) : Prop := t.coll c = none ∧ ∀ j, j ≠ c → t.coll j = s.coll j

end Sys2Proof

/-- Setting a collective up and ending it (R414 to R418, R426): COLL_SETUP is refused with the descriptor word that breaks a rule, and else waits in the lowest free slot, its summary
sent to rank 0; rank 0 gives its verdict once it has all summaries, and after 100 ms without one FAB_POISON; SUCCESS makes the collective
idle under a handle, any other verdict ends the COLL_SETUP and frees the slot; COLL_TEARDOWN of an idle collective ends its operation. -/
def Obligations.CollectiveSetup : Prop :=
  ∀ (s : State),
    (∀ (q : Nat) (e : Entry) (d table : List Byte), q < 64 → s.headEntry q = some e → pOpcode e.pkt = 0x0501 → s.baseChk q e.pkt = .ok →
      pPtr e.pkt = true → e.data = [d, table] → pAtFurrow e.pkt = false →
      let u := begun s q e
      let word := fun (i : Nat) => leNat ((d.drop (8 * i)).take 8)
      let desc := (below 8).map fun i => BitVec.ofNat 64 (word i)
      let ms := memberTable (bits (word 0) 30 16) table
      (pParamLen e.pkt ≠ 64 → exec (.collSetup q) s = .next (s.finish q e.seq 0x0304 0 0)) ∧
      (∀ i, pParamLen e.pkt = 64 → descBad desc = some i → exec (.collSetup q) s = .next (s.finish q e.seq 0x0304 0 i)) ∧
      (pParamLen e.pkt = 64 → descBad desc = none → dmaKind (s.qPort q) (word 2) ≠ none →
        (ms.filter fun m => m == s.pkgId).length = 1 → (algOf (bits (word 0) 63 60) (bits (word 0) 59 58) ms).isSome = true →
        2 * s.noticeFurrows ms + 1 ≤ bits (word 7) 63 56 → (s.globalDet = true → (word 0).testBit 52 = false) →
        s.colls.length < 64 → ∀ c, (below 64).find? (fun i => (s.coll i).isNone) = some c →
          ∃ t k, exec (.collSetup q) s = .next t ∧ t.coll c = some k ∧ (∀ j, j ≠ c → t.coll j = s.coll j) ∧ k.run = .setup ∧
            k.handle = 0 ∧ k.part = pTarget e.pkt ∧ k.queue = q ∧ k.seq = e.seq ∧ k.desc = desc ∧ k.members = ms ∧
            k.rank = ms.idxOf s.pkgId ∧ some k.alg = algOf (bits (word 0) 63 60) (bits (word 0) 59 58) ms ∧
            t.queues = u.queues ∧ (k.rank = 0 → k.sums = [(0, k.sum)] ∧ t.out = s.out) ∧
            (k.rank ≠ 0 → k.sums = [] ∧ t.out =
              .coll 0 c [k.rank, bits (word 0) 63 60, bits (word 0) 59 58, bits (word 0) 57 56, bits (word 0) 55 53,
                bits (word 1) 39 0, bits (word 0) 45 32, bits (word 0) 30 16, bits (word 7) 63 56,
                (digestNum (sha256 table)).toNat] :: s.out))) ∧
    (∀ (c : Nat) (k : Coll), s.up = true → s.coll c = some k → k.run = .setup → k.handle = 0 → k.rank = 0 →
      (∀ rank sum, 0 < rank → rank < k.n → (sins k.sums rank sum).length < k.n →
        ∃ t, exec (.setupSummary c rank sum) s = .next t ∧ CollOnly s t c { k with sums := sins k.sums rank sum }) ∧
      (∀ rank sum bad, 0 < rank → rank < k.n → (sins k.sums rank sum).length = k.n →
        (sins k.sums rank sum).find? (fun e => e.2.count != k.sum.count || e.2.etype != k.sum.etype) = some bad →
        ∃ v : State, exec (.setupSummary c rank sum) s = .next (v.finish k.queue k.seq 0x0D01 0 bad.1) ∧ CollGone s v c ∧
          v = { s with colls := v.colls, out := .coll 1 c [0x0D01, bad.1] :: s.out }) ∧
      (∀ rank sum, 0 < rank → rank < k.n → (sins k.sums rank sum).length = k.n → (∀ e ∈ sins k.sums rank sum, e.2 = k.sum) →
        (s.queue k.queue).entry? k.seq ≠ none → freeSlot 4096 s 0 ≠ none →
        ∃ t k', exec (.setupSummary c rank sum) s = .next t ∧ t.coll c = some k' ∧ k'.run = .idle ∧ k'.sums = [] ∧
          ∃ i h, s.hslot i ≠ some h ∧ t.hslot i = some h ∧ h.state = .running ∧ h.part = k.part ∧
            k'.handle = BitVec.ofNat 32 (handleWord h.gen h.part i)) ∧
      (k.sums.length < k.n →
        ∃ v : State, exec (.summaryTimeout c) s = .next (v.finish k.queue k.seq 0x0C02 0 0) ∧ CollGone s v c ∧
          v = { s with colls := v.colls, out := .coll 1 c [0x0C02, 0] :: s.out })) ∧
    (∀ (c : Nat) (k : Coll), s.up = true → s.coll c = some k → k.run = .setup → k.handle = 0 → k.rank ≠ 0 →
      (∀ (status : BitVec 16) (detail : W64), status ≠ 0 →
        ∃ v : State, exec (.setupVerdict c status detail) s = .next (v.finish k.queue k.seq status.toNat 0 detail.toNat) ∧
          CollGone s v c ∧ v = { s with colls := v.colls }) ∧
      (∀ detail : W64, (s.queue k.queue).entry? k.seq ≠ none → freeSlot 4096 s 0 ≠ none →
        ∃ t k', exec (.setupVerdict c 0 detail) s = .next t ∧ t.coll c = some k' ∧ k'.run = .idle ∧
          ∃ i h, t.hslot i = some h ∧ h.state = .running ∧ h.part = k.part ∧
            k'.handle = BitVec.ofNat 32 (handleWord h.gen h.part i))) ∧
    (∀ (q : Nat) (e : Entry) (i c : Nat) (h : HRec) (k : Coll), Begins s q 0x0503 e → RestZero e.pkt [] →
      s.handle? (pTarget e.pkt) = some (i, h) → h.opcode = 0x0501 →
      (h.state.live = false → exec (.collTeardown q) s = .next (s.finish q e.seq 0x030B 0 0)) ∧
      (h.state = .running → s.colls = [(c, k)] → k.handle.toNat = pTarget e.pkt → k.run = .idle →
        ∃ v : State, exec (.collTeardown q) s = .next (v.finish q e.seq 0 0 0) ∧ v.colls = [] ∧ (v.hslot i).map HRec.state = some .done))

/-- Runs of a collective (R106, R421 to R427): COLL_STEP needs at_furrow, waits for its furrow in row 6 and is refused out of order; done notices, SLIP and ready words are kept for the step in
progress only; at its decision furrow a slipped step is issued again, and after three times the run ends with COLL_SLIP_ABORT; a
committed last step writes the result to the half that the run's parity names; BARRIER posts its arrival and BARRIER_ARRIVAL the others'. -/
def Obligations.CollectiveRuns : Prop :=
  ∀ (s : State), s.up = true →
    (∀ (q : Nat) (e : Entry) (i c : Nat) (h : HRec) (k : Coll), q < 64 → s.headEntry q = some e → pOpcode e.pkt = 0x0502 →
      s.baseChk q e.pkt = .ok → pPtr e.pkt = false → pParamLen e.pkt ≤ 40 →
      (pAtFurrow e.pkt = false → exec (.collStep q) s = .next (s.finish q e.seq 0x0303 0 0)) ∧
      (pAtFurrow e.pkt = true → s.handle? (pTarget e.pkt) = some (i, h) → h.opcode = 0x0501 → h.state = .running →
        s.colls = [(c, k)] → k.handle.toNat = pTarget e.pkt → k.run = .idle → s.sched = [] →
        (k.op = 6 ∨ bytesOf e.pkt 16 4 ≠ k.nextRun → exec (.collStep q) s = .next (s.finish q e.seq 0x0304 0 0)) ∧
        (k.op ≠ 6 → bytesOf e.pkt 16 4 = k.nextRun → aheadOf (pFurrow e.pkt) s.furrow < 2 ^ 47 →
          (s.time.ns : Int) + s.guard ≤ s.boundary (pFurrow e.pkt) →
          ∃ t, exec (.collStep q) s = .next t ∧ t.sched = [{ furrow := pFurrow e.pkt, row := 6, kind := .cmd q e.seq }] ∧
            t = { s with sched := t.sched, queues := t.queues }))) ∧
    (∀ (c : Nat) (k : Coll), s.coll c = some k →
      (∀ slice v, k.run ≠ .run → k.stream = true → slice < k.nslices →
        ∃ t, exec (.readyWordReport c slice v) s = .next t ∧ CollOnly s t c { k with ready := sput 0 k.ready slice v }) ∧
      (∀ rank run step, k.run = .run → rank < k.n → run = k.runNo → step = k.step → rank ∉ k.doneFrom →
        ∃ t, exec (.doneNotice c rank run step) s = .next t ∧ CollOnly s t c { k with doneFrom := k.doneFrom ++ [rank] }) ∧
      (∀ rank run step, k.run ≠ .run ∨ run ≠ k.runNo ∨ step ≠ k.step →
        exec (.doneNotice c rank run step) s = .next s ∧ exec (.slip c rank run step) s = .next s) ∧
      (∀ rank run step, k.run = .run → rank < k.n → k.n ≤ 16384 → run = k.runNo → step = k.step →
        ∃ t, exec (.slip c rank run step) s = .next t ∧ t.coll c = some { k with slipped := true, slipRank := some rank } ∧
          t.fld (aCollCStatus c) 47 34 = rank ∧ t = { s with colls := t.colls, regs := t.regs }) ∧
      (∀ rank run f, k.op = 6 → rank < k.n → k.nextRun ≤ run → sfind? k.arrivals (run * 16384 + rank) = none →
        ∃ t, exec (.barrierArrival c rank run f) s = .next t ∧
          CollOnly s t c { k with arrivals := sins k.arrivals (run * 16384 + rank) (f % 2 ^ 48) })) ∧
    (∀ (q : Nat) (e : Entry) (i c : Nat) (h : HRec) (k : Coll), Begins s q 0x0103 e → RestZero e.pkt [(16, 4)] →
      s.handle? (pTarget e.pkt) = some (i, h) → h.opcode = 0x0501 → h.state = .running → s.colls = [(c, k)] →
      k.handle.toNat = pTarget e.pkt → k.op = 6 →
      (bytesOf e.pkt 16 4 ≠ k.nextRun → exec (.barrier q) s = .next (s.finish q e.seq 0x0304 0 0)) ∧
      (bytesOf e.pkt 16 4 = k.nextRun → (s.queue q).entry? e.seq = some e → sfind? k.arrivals (k.nextRun * 16384 + k.rank) = none →
        ∀ j, freeSlot 4096 s 0 = some j →
          ∃ t k', exec (.barrier q) s = .next t ∧ Opened s t q e k.part j [] ∧ t.coll c = some k' ∧
            sfind? k'.arrivals (k.nextRun * 16384 + k.rank) = some s.furrow ∧
            t.out.head? = some (.coll 4 c [k.rank, k.nextRun, s.furrow]))) ∧
    (∀ (c : Nat) (k : Coll), NothingWaits { s with colls := [] } → nextBoundary s < 2 ^ 64 → s.sched = [] → s.time.step = none →
      s.colls = [(c, k)] → c < 64 → k.run = .run → k.op ≠ 6 → aheadOf (furrowAdd s.furrow 1) k.stepAt = k.s →
      (k.slipped = true → k.reissue < 3 →
        ∃ t k', exec .furrowBoundary s = .next t ∧ t.coll c = some k' ∧ k'.run = .run ∧ k'.step = k.step ∧ k'.reissue = k.reissue + 1 ∧
          k'.stepAt = furrowAdd s.furrow 1 ∧ k'.slipped = false ∧ k'.doneFrom = [] ∧ k'.got = []) ∧
      (k.slipped = true → k.reissue = 3 →
        ∃ t k', exec .furrowBoundary s = .next t ∧ t.coll c = some k' ∧ k'.run = .idle ∧ k'.nextRun = k.runNo + 1 ∧
          k'.commits = k.commits) ∧
      (∀ h d, k.slipped = false → s.stepResult k = (h, some d) → s.digRun = [] → s.hbm.poison = [] →
        (s.queue k.cmd.1).entry? k.cmd.2 = none → (s.queue k.cmd.1).held ≠ [] →
        ∃ t k', exec .furrowBoundary s = .next t ∧ t.coll c = some k' ∧ k'.run = .idle ∧ k'.commits = k.commits + 1 ∧
          k'.nextRun = k.runNo + 1 ∧ t.fld (aCollCRun c) 47 0 = furrowAdd s.furrow 1 ∧
          ∀ x, mget t.hbm.mem x =
            let a := k.w 4 + k.runNo % 2 * k.outHalf
            if a ≤ x ∧ x < a + d.length then d.getD (x - a) 0 else mget s.hbm.mem x))

/-! ### The Granary -/

/-- SNAPSHOT (R445, R449, R452): without at_furrow INTK_BAD_FLAGS; an image number not above the latest, or a rank not below the count, is refused; else it waits for its
furrow in row 2 of R72. At the end of its capture the slot written holds the latest image, and an image that is neither sealed nor copied
to the host ends the operation; otherwise the host copy's end does. -/
def Sys2Proof.Claims.SnapshotCommands : Prop :=
  ∀ (s : State),
    (∀ (q : Nat) (e : Entry), q < 64 → s.headEntry q = some e → pOpcode e.pkt = 0x0601 → s.baseChk q e.pkt = .ok → pPtr e.pkt = false →
      pParamLen e.pkt ≤ 40 →
      let p := pTarget e.pkt
      let old := s.flag (aCkptPartLatest p) 49 = true ∧ bytesOf e.pkt 16 6 ≤ s.fld (aCkptPartLatest p) 47 0
      (pAtFurrow e.pkt = false → exec (.snapshot q) s = .next (s.finish q e.seq 0x0303 0 0)) ∧
      (pAtFurrow e.pkt = true → old → exec (.snapshot q) s = .next (s.finish q e.seq 0x0304 0 0)) ∧
      (pAtFurrow e.pkt = true → ¬ old → bytesOf e.pkt 22 1 = 0 → bytesOf e.pkt 23 1 = 0 →
        (bytesOf e.pkt 26 2 ≤ bytesOf e.pkt 24 2 → exec (.snapshot q) s = .next (s.finish q e.seq 0x0304 0 0)) ∧
        (bytesOf e.pkt 24 2 < bytesOf e.pkt 26 2 → bytesOf e.pkt 26 2 ≤ 4096 → s.lateOrFull (pFurrow e.pkt) = none →
          ∃ t, exec (.snapshot q) s = .next t ∧ t = { s with sched := t.sched, queues := t.queues } ∧
            t.sched = s.sched ++ [{ furrow := pFurrow e.pkt, row := 2, kind := .cmd q e.seq }]))) ∧
    (∀ (i : Nat) (r : HRec), s.up = true → s.hslot i = some r → r.opcode = 0x0601 → r.state = .running → r.part < 16 →
      (r.late = false → s.sched = [] → s.mirroring = false → bit (r.parm 22 1) 0 = false →
        ∃ t, exec (.snapshotCaptureDone i) s = .next t ∧ (t.hslot i).map HRec.state = some .done ∧
          t.flag (aCkptPartLatest r.part) 49 = true ∧ t.fld (aCkptPartLatest r.part) 48 48 = s.snapSlot r.part ∧
          t.fld (aCkptPartLatest r.part) 47 0 = r.parm 16 6 ∧
          sget 0 t.ckpt.slots (2 * r.part + s.snapSlot r.part) = r.parm 16 6 + 1) ∧
      (r.late = true → bit (r.parm 22 1) 0 = true →
        (s.mirroring = false ∨ r.sealDone = true →
          ∃ t, exec (.hostCopyDone i) s = .next t ∧ (t.hslot i).map HRec.state = some .done) ∧
        (s.mirroring = true → r.sealDone = false →
          ∃ t, exec (.hostCopyDone i) s = .next t ∧ t.hslot i = some { r with hostDone := true } ∧
            t = { s with handles := t.handles })))

/-- RESTORE (R460, R461): an image number that no slot holds, or an image that fails its checks, is refused; else an operation opens. When the copy is
done the regions hold the image's bytes and nothing else of HBM changes, the partition's seed is the image's, and the operation is done. -/
def Sys2Proof.Claims.RestoreCommands : Prop :=
  ∀ (s : State),
    (∀ (q : Nat) (e : Entry), Begins s q 0x0602 e →
      let p := pTarget e.pkt
      let n := bytesOf e.pkt 16 6
      (1 < bytesOf e.pkt 22 1 → exec (.restore q) s = .next (s.finish q e.seq 0x0304 0 0)) ∧
      (bytesOf e.pkt 22 1 = 0 → s.slotOf p n = none → exec (.restore q) s = .next (s.finish q e.seq 0x0304 0 0)) ∧
      (∀ k, bytesOf e.pkt 22 1 = 0 → s.slotOf p n = some k →
        (∀ st d, s.imageCheck p (s.slotImage p k) = (st, d) → st ≠ 0 → exec (.restore q) s = .next (s.finish q e.seq st 0 d)) ∧
        (∀ i d, s.imageCheck p (s.slotImage p k) = (0, d) → (s.queue q).entry? e.seq = some e → freeSlot 4096 s 0 = some i →
          (∀ j h, s.hslot j = some h → h.part = p → h.state.live = false) →
          ∃ t, exec (.restore q) s = .next t ∧ Opened s t q e p i []))) ∧
    (∀ (i k : Nat) (r : HRec) (b x : Nat × Nat × List Byte × Bool × List Byte), s.up = true → s.handles = [(i, r)] → r.opcode = 0x0602 →
      r.state = .running → r.part < 16 → r.parm 22 1 = 0 → s.slotOf r.part (r.parm 16 6) = some k →
      entriesOf (s.slotImage r.part k) = [b, x] → b.1 = 0 → x.1 ≠ 0 → s.hbm.poison = [] → s.digRun = [] → s.ctl = [] →
      (s.queue r.queue).entry? r.seq = none → (s.queue r.queue).held ≠ [] →
      ∃ t, exec (.restoreCopyDone i) s = .next t ∧ (t.hslot i).map HRec.state = some .done ∧
        t.rd (aVecPartSeed r.part) = at_ (s.slotImage r.part k) 40 8 ∧
        ∀ a, mget t.hbm.mem a =
          if x.2.1 ≤ a ∧ a < x.2.1 + x.2.2.1.length then x.2.2.1.getD (a - x.2.1) 0 else mget s.hbm.mem a)

/-- Mirroring at the buddy (R453 to R457): a journal entry replaces what its slot of 4,096 held and is confirmed, as is a retire mark; heartbeats
keep the partner's notice; image chunks go to the log once an image is sealed, and straight to the copy before; a seal whose count fits
starts the copy, whose end makes the log part of the sealed image; MIRROR_DELTA discards what is not sealed. -/
def Sys2Proof.Claims.MirrorHeld : Prop :=
  ∀ (s : State), s.up = true → s.buddy ≠ 0 →
    (∀ (q seq : Nat) (pkt : W512), q < 64 →
      ∃ t, exec (.journalEntry q seq pkt) s = .next t ∧ t.out = .mirror 0x30 [q, seq] :: s.out ∧
        t = { s with out := t.out, ckpt := { s.ckpt with partnerJ := t.ckpt.partnerJ } } ∧
        ∀ j, j ∈ t.ckpt.partnerJ ↔ j = { queue := q, seq := seq, pkt := pkt, retired := false } ∨
          j ∈ s.ckpt.partnerJ ∧ ¬ (j.queue = q ∧ j.seq % 4096 = seq % 4096)) ∧
    (∀ (q seq : Nat), q < 64 →
      ∃ t, exec (.retireMark q seq) s = .next t ∧ t.out = .mirror 0x31 [q, seq, 1] :: s.out ∧
        t = { s with out := t.out, ckpt := { s.ckpt with partnerJ := t.ckpt.partnerJ } } ∧
        t.ckpt.partnerJ.map JXfer.seq = s.ckpt.partnerJ.map JXfer.seq ∧
        ∀ j, j ∈ s.ckpt.partnerJ → (if j.queue = q ∧ j.seq = seq then { j with retired := true } else j) ∈ t.ckpt.partnerJ) ∧
    (s.pairInService = true → exec .heartbeatSend s = .next { s with out := .mirror 0x32 [0] :: s.out }) ∧
    (∀ notice, exec (.heartbeat notice) s = .next { s with ckpt := { s.ckpt with notice := notice } }) ∧
    (s.flag aCkptMirror 63 = true → ∀ p, p < 16 →
      let m := s.mirror p
      (∀ idx data, ∃ t, exec (.imageChunk p idx data) s = .next t ∧
        (m.image = none → t.mirror p = { m with chunks := sins m.chunks idx data }) ∧
        (m.image ≠ none → t.mirror p = { m with log := m.log ++ [(idx, data)] }) ∧ ∀ x, x ≠ p → t.mirror x = s.mirror x) ∧
      (∀ image count digest, let held := if m.image = none then m.chunks.length else m.log.length
        (held ≠ count → exec (.seal p image count digest) s = .next s) ∧
        (held = count → ∃ t, exec (.seal p image count digest) s = .next t ∧ t.mirror p = { m with sealing := some (image, digest) })) ∧
      (∀ image digest, m.sealing = some (image, digest) →
        ∃ t, exec (.sealCopyDone p) s = .next t ∧ (t.mirror p).image = some image ∧ (t.mirror p).log = [] ∧
          (t.mirror p).sealing = none ∧ t.out = .mirror 0x34 [p, image] :: s.out ∧
          (∀ c, (∀ d, (c, d) ∉ m.log) → sfind? (t.mirror p).chunks c = sfind? m.chunks c) ∧
          ∀ l c d, m.log = l ++ [(c, d)] → sfind? (t.mirror p).chunks c = some d)) ∧
    (∀ (q : Nat) (e : Entry), Begins s q 0x0C01 e → pTarget e.pkt < 16 →
      let p := pTarget e.pkt
      let kept := if (s.mirror p).image = none then [] else (s.mirror p).chunks
      ∃ v : State, v.mirror p = { (s.mirror p) with log := [], sealing := none, chunks := kept } ∧
        ((s.mirror p).image = none → exec (.mirrorDelta q) s = .next (v.finish q e.seq 0 0 (2 ^ 63))) ∧
        (∀ n, (s.mirror p).image = some n → n < 2 ^ 48 →
          exec (.mirrorDelta q) s = .next (v.finish q e.seq 0 0 (if n = bytesOf e.pkt 16 6 then n else n + 2 ^ 63))))

/-- Mirroring at the partner (R453, R456 to R458): MIRROR_CFG checks the area and stores it, and a new buddy starts with nothing sealed; the answer to a seal
makes its image the sealed one and ends the snapshot; a lost buddy is declared once and TAKEOVER goes to the first valid spare, then to
the next one when the first does not answer. -/
def Sys2Proof.Claims.MirrorKept : Prop :=
  ∀ (s : State),
    (∀ (q : Nat) (e : Entry), Begins s q 0x0603 e →
      let base := bytesOf e.pkt 16 8
      let img := bytesOf e.pkt 24 4
      let jn := bytesOf e.pkt 28 4
      let bad := s.buddy = 0 ∨ base % 4096 ≠ 0 ∨ inHbm (base / 4096) (img + jn) = false ∨
        s.areaMeets (base / 4096) (img + jn) = true ∨ jn < 262144 ∨ 128000000000 < (img + jn) * 4096
      (bad → exec (.mirrorCfg q) s = .next (s.finish q e.seq 0x0304 0 0)) ∧
      (¬ bad → let on := bytesOf e.pkt 32 1 % 2
        ∃ v : State, exec (.mirrorCfg q) s = .next (v.finish q e.seq 0 0 0) ∧ v.rd aCkptMirrorBase = base % 2 ^ 48 ∧
          v.rd aCkptMirror = on * 2 ^ 63 + (img % 2 ^ 28) * 2 ^ 28 + jn % 2 ^ 28 ∧
          (on = 1 → s.flag aCkptMirror 63 = false ∨ s.ckpt.lost = true ∨ s.ckpt.paired ≠ s.buddy →
            v.ckpt.mirror = [] ∧ v.ckpt.partnerJ = [] ∧ v.ckpt.lost = false ∧ v.ckpt.paired = s.buddy ∧ v.ckpt.sending = [] ∧
            ∀ p, p < 16 → s.partExists p = true → v.rd (aCkptPartSealed p) = 0) ∧
          (on = 0 → v.ckpt = s.ckpt))) ∧
    (s.up = true → s.buddy ≠ 0 →
      (∀ p image cs, p < 16 → s.handles = [] → sfind? s.ckpt.sending p = some cs →
        (image % 2 ^ 48 = s.latestImage p →
          ∃ t, exec (.sealAnswer p image) s = .next t ∧ t.rd (aCkptPartSealed p) = 2 ^ 48 + image % 2 ^ 48 ∧
            sfind? t.ckpt.sending p = none ∧ ∀ o, o ≠ aCkptPartSealed p → t.rd o = s.rd o) ∧
        (image % 2 ^ 48 ≠ s.latestImage p → exec (.sealAnswer p image) s = .next s)) ∧
      (∀ p image cs i r, p < 16 → s.handles = [(i, r)] → sfind? s.ckpt.sending p = some cs → image % 2 ^ 48 = s.latestImage p →
        r.part = p → r.opcode = 0x0601 → r.state = .running → r.late = true → r.parm 16 6 = image % 2 ^ 48 →
        r.hostDone = true ∨ bit (r.parm 22 1) 0 = false →
        ∃ t, exec (.sealAnswer p image) s = .next t ∧ (t.hslot i).map HRec.state = some .done) ∧
      (s.ckpt.lost = false → s.handles = [] →
        ∃ t, exec .buddyLossDeclare s = .next t ∧ t.ckpt.lost = true ∧ t.ckpt.notice = false ∧ t.ckpt.sending = [] ∧
          t.flag aCkptStatus 62 = true ∧ t.flag aIntkStatus 61 = true ∧
          t.ckpt.trying = (below 2).find? fun k => s.flag (aCkptSpare k) 63)) ∧
    (s.up = true → ∀ k, s.ckpt.trying = some k →
      ∃ t, exec .takeoverTimeout s = .next t ∧
        t.ckpt.trying = if k = 0 ∧ s.flag (aCkptSpare 1) 63 = true then some 1 else none)

/-- Takeover at the spare (R458, R459): TAKEOVER is refused to a package whose role is not spare or that already takes over, and else waits for the
images and the journal; chunks are kept; JOURNAL_TRANSFER ends it with CKPT_SHAPE when an image has another shape, and else the package has
the lost package's number and its role is no longer spare. -/
def Sys2Proof.Claims.TakeoverCommands : Prop :=
  ∀ (s : State),
    (∀ (q : Nat) (e : Entry), Begins s q 0x0C02 e →
      (s.flag aCkptCfg 63 = false ∨ s.ckpt.takeover ≠ none → exec (.takeover q) s = .next (s.finish q e.seq 0x0304 0 0)) ∧
      (s.flag aCkptCfg 63 = true → s.ckpt.takeover = none →
        ∃ t, exec (.takeover q) s = .next t ∧ t.ckpt.takeover = some (bytesOf e.pkt 16 2, bytesOf e.pkt 18 2, q, e.seq) ∧
          t.ckpt.takeChunks = [] ∧ t = { (begun s q e) with ckpt := t.ckpt })) ∧
    (s.up = true → ∀ lost mask q seq, s.ckpt.takeover = some (lost, mask, q, seq) →
      (∀ p idx data, p < 16 → idx < 2 ^ 28 →
        ∃ t, exec (.takeoverChunk p idx data) s = .next t ∧ sfind? t.ckpt.takeChunks (p * 2 ^ 28 + idx) = some data ∧
          (∀ k, k ≠ p * 2 ^ 28 + idx → sfind? t.ckpt.takeChunks k = sfind? s.ckpt.takeChunks k) ∧
          t = { s with ckpt := { s.ckpt with takeChunks := t.ckpt.takeChunks } }) ∧
      (∀ anchored entries p, p < 16 → bit mask p = true → at_ (s.takenImage p) 24 1 ≠ s.active % 256 →
        ∃ v : State, exec (.journalTransfer anchored entries) s = .next (v.finish q seq 0x0F01 0 0) ∧ v.ckpt.takeover = none ∧
          v.ckpt.takeChunks = [] ∧ v.regs = s.regs) ∧
      (∀ entries q0 a, mask % 2 ^ 16 = 0 → q0 < 64 →
        ∃ t, exec (.journalTransfer [(q0, a)] entries) s = .next t ∧ t.ckpt.takeover = none ∧ t.ckpt.replay = [] ∧
          t.flag aCkptStatus 61 = true ∧ t.flag aCkptCfg 63 = false ∧ t.fld aFabCfg 63 48 = s.ckpt.takeFrom % 65536 ∧
          (t.queue q0).anch = a ∧ (t.queue q0).nextSeq = a + 1))

/-! ### Boot and firmware -/

/-- Boot and reset (R120, R509 to R514, R527, R532): PWROK_LOW leaves the fuses, the flash, the repair record and the pins and no more; PWROK_RISE samples the straps; COLD_BOOT
ends in phase 7 with the valid image's release and opcodes, in phase 3 without one, in the phase it began in without a good
pair; and, as R120 says, with each queue resumed after what its buddy holds anchored, the entries without a retire mark waiting to run again and
INTK_NOT_ANCHORED to be written (that it waits until the queue is enabled is the model's reading, log 89); a warm reset brings LOCKED to HOLDOVER, zeroes the cores, takes every link down and keeps the queues' sequence numbers. I3C reads what
R532 lists and writes DEV_PKG_ADDR alone. -/
def Sys2Proof.Claims.BootRows : Prop :=
  ∀ (s : State),
    (∃ t, exec .pwrokLow s = .next t ∧ t.boot.alive = false ∧ t.boot.phase = State.reset.boot.phase ∧
      t.pins = { s.pins with pwrok := false, ppsOut := false } ∧ t.boot.flash = s.boot.flash ∧ t.boot.slot = s.boot.slot ∧
      t.boot.rollback = s.boot.rollback ∧ t.boot.active = s.boot.active ∧ t.ras.badTiles = s.ras.badTiles ∧
      t.boot.lastReset = (if s.pwr.tripped = true then 4 else if s.boot.alive = true then 0 else s.boot.lastReset) ∧
      t.regs = State.reset.regs ∧ t.hbm = State.reset.hbm ∧ t.queues = [] ∧ t.handles = [] ∧ t.tiles = State.reset.tiles) ∧
    (∀ board pkg, s.pins.pwrok = false → s.pins.vrAlertN = true →
      exec (.pwrokRise board pkg) s = .next { s with
        boot := { s.boot with alive := true }
        pins := { s.pins with pwrok := true, thermTripN := true, boardSlot := board % 8, pkgSlot := pkg % 4 } }) ∧
    (∀ rep, s.pins.pwrok = true → s.boot.alive = true → s.boot.phase < 7 → s.boot.noFirmware = false →
      let u : State := { s with
        boot := { s.boot with flash := rep.flash.foldl (fun m e => mwrite m e.1 e.2) s.boot.flash } }
      (0 ∈ rep.pairFail → 1 ∈ rep.pairFail → ∃ t, exec (.coldBoot rep) s = .next t ∧ t.boot.phase = s.boot.phase ∧ t.up = false) ∧
      (¬ (0 ∈ rep.pairFail ∧ 1 ∈ rep.pairFail) →
        (u.bootFrom = none → ∃ t, exec (.coldBoot rep) s = .next t ∧ t.boot.phase = 3 ∧ t.boot.noFirmware = true ∧ t.up = false) ∧
        (∀ n, u.bootFrom = some n →
          ∃ t, exec (.coldBoot rep) s = .next t ∧ t.up = true ∧ t.boot.release = (fwHead (u.slotFw n)).release ∧
            t.boot.opcodes = (fwHead (u.slotFw n)).ops ∧
            (∀ q a, rep.anchored = [(q, a)] → q < 64 →
              (t.queue q).anch = a ∧ (t.queue q).nextSeq = a + 1 ∧
              (∀ j ∈ rep.journal, j.queue = q → j.retired = false → j.seq ≤ a →
                ∃ e ∈ (t.queue q).entries, e.seq = j.seq ∧ e.pkt = j.pkt ∧ e.stage = .waiting ∧ e.anchored = true ∧ e.restated = true) ∧
              (s.qEnabled q = false →
                ∃ r, (t.queue q).held = (s.queue q).held ++ [r] ∧ r.status = 0x030C ∧ r.queue = q ∧ r.seq = a + 1 ∧ r.final = true))))) ∧
    (s.pins.pwrok = true → s.boot.alive = true → s.boot.phase ≠ 7 → exec .warmReset s = .next (s.coldReset s.boot.lastReset)) ∧
    (s.pins.pwrok = true → s.up = true →
      ∃ t, exec .warmReset s = .next t ∧ t.up = true ∧ t.boot.lastReset = 1 ∧ t.quality ≠ 2 ∧ t.pins = s.pins ∧ t.time.timeSet = [] ∧
        (∀ c, t.core c = Cpu.zero ∨ t.core c = { Cpu.zero with gated := true }) ∧ (∀ n, n < 64 → t.linkUp n = false) ∧
        ∀ q, (t.queue q).nextSeq = (s.queue q).nextSeq) ∧
    (s.pins.pwrok = false → ∀ off, exec (.i3cRead off) s = .next { s with out := .notServed :: s.out }) ∧
    (s.pins.pwrok = true → ∀ off,
      let seen := off % 8 = 0 ∧ (off < 0x100000 ∨ 0x1000000 ≤ off ∧ off < 0x1100000 ∨ off = aBootStatus ∨ off = aRasStatus)
      (seen → exec (.i3cRead off) s = .next { s with out := .reg (BitVec.ofNat 64 (s.regRead off)) :: s.out }) ∧
      (¬ seen → exec (.i3cRead off) s = .next { s with out := .nackI3c :: .reg 0 :: s.out })) ∧
    (∀ off val, s.pins.pwrok = false ∨ off ≠ aDevPkgAddr → exec (.i3cWrite off val) s = .next s) ∧
    (∀ val : W64, s.pins.pwrok = true → (∀ n, n < 64 → s.linkUp n = false) →
      ∃ t, exec (.i3cWrite aDevPkgAddr val) s = .next t ∧ t.pkgId = val.toNat % 65536) ∧
    (∀ addr, exec (.dynamicAddressAssignment addr) s = .next { s with i3cAddr := addr })

/-- Firmware (R518 to R520): FW_STAGE waits with its image and refuses one above 8 MiB; FW_STAGE_DONE writes the other slot and stages a valid image, and ends with
BOOT_BAD_SIGNATURE otherwise; FW_ACTIVATE waits in row 4 for its furrow, where the standby pair takes over, the slots change places and
the staged image is in force; IMAGE_RELAY opens an operation at every member, rank 0 asks for the image, and chunks that stop end it. -/
def Obligations.FirmwareCommands : Prop :=
  ∀ (s : State),
    (∀ (q : Nat) (e : Entry) (img : List Byte), q < 64 → s.headEntry q = some e → pOpcode e.pkt = 0x0801 → s.baseChk q e.pkt = .ok →
      pPtr e.pkt = false → pParamLen e.pkt ≤ 40 → pAtFurrow e.pkt = false →
      (0x800000 < bytesOf e.pkt 24 4 → exec (.fwStage q) s = .next (s.finish q e.seq 0x0304 0 0)) ∧
      (bytesOf e.pkt 24 4 ≤ 0x800000 → dmaKind (s.qPort q) (bytesOf e.pkt 16 8) ≠ none → e.data = [img] →
        exec (.fwStage q) s = .next { (begun s q e) with ctl := s.ctl ++ [waitingCtl .stage q e.seq 0] })) ∧
    (∀ (c : Ctl) (e : Entry) (img : List Byte), s.ctl = [c] → c.kind = .stage → (s.queue c.queue).entry? c.seq = some e →
      pPtr e.pkt = false → e.data = [img] →
      let other := flashSlot (1 - s.boot.slot)
      (s.fwValid img = true →
        ∃ v : State, exec .fwStageDone s = .next (v.finish c.queue c.seq 0 0 0) ∧ v.ctl = [] ∧ v.boot.stagedValid = true ∧
          v.boot.stagedRelease = at_ img 4 4 ∧ v.boot.stagedRollback = at_ img 12 4 ∧ v.boot.flash = mwrite s.boot.flash other img ∧
          v.flag aBootStatus 61 = true) ∧
      (s.fwValid img = false →
        ∃ v : State, exec .fwStageDone s = .next (v.finish c.queue c.seq 0x1203 0 0) ∧ v.ctl = [] ∧ v.boot.stagedValid = false ∧
          v.regs = s.regs)) ∧
    (∀ (q : Nat) (e : Entry), q < 64 → s.headEntry q = some e → pOpcode e.pkt = 0x0802 → s.baseChk q e.pkt = .ok → pPtr e.pkt = false →
      pParamLen e.pkt ≤ 40 →
      (pAtFurrow e.pkt = false → exec (.fwActivate q) s = .next (s.finish q e.seq 0x0303 0 0)) ∧
      (pAtFurrow e.pkt = true → s.boot.stagedValid = false → exec (.fwActivate q) s = .next (s.finish q e.seq 0x0304 0 0)) ∧
      (pAtFurrow e.pkt = true → s.boot.stagedValid = true → s.lateOrFull (pFurrow e.pkt) = none →
        ∃ t, exec (.fwActivate q) s = .next t ∧ t = { s with sched := t.sched, queues := t.queues } ∧
          t.sched = s.sched ++ [{ furrow := pFurrow e.pkt, row := 4, kind := .cmd q e.seq }])) ∧
    (∀ q n x, s.up = true → NothingWaits s → nextBoundary s < 2 ^ 64 → s.time.step = none →
      s.sched = [{ furrow := furrowAdd s.furrow 1, row := 4, kind := .cmd q n }] → (s.queue q).entry? n = some x →
      pOpcode x.pkt = 0x0802 → pPtr x.pkt = false → pAtFurrow x.pkt = true → s.baseChk q x.pkt = .ok → pParamLen x.pkt ≤ 40 →
      s.boot.stagedValid = true → s.actOpcode = false → (∀ e ∈ s.queues, ∀ y ∈ e.2.entries, y.stage ≠ .started) →
      ∃ t, exec .furrowBoundary s = .next t ∧ t.sched = [] ∧ t.boot.slot = 1 - s.boot.slot ∧ t.boot.release = s.boot.stagedRelease ∧
        t.boot.opcodes = s.boot.stagedOps ∧ t.boot.rollback = max s.boot.rollback s.boot.stagedRollback ∧
        t.boot.stagedValid = false ∧ t.flag aBootStatus 60 = true ∧
        ∀ m, s.activePair = some m → s.pairState (1 - m) = 0 → t.activePair = some (1 - m)) ∧
    (∀ (q i : Nat) (e : Entry) (d table : List Byte), q < 64 → s.headEntry q = some e → pOpcode e.pkt = 0x0B02 → s.baseChk q e.pkt = .ok →
      pPtr e.pkt = true → pParamLen e.pkt = 32 → e.data = [d, table] → pAtFurrow e.pkt = false → (s.queue q).entry? e.seq = some e →
      dmaKind (s.qPort q) (at_ d 24 8) ≠ none →
      let dst := at_ d 8 8
      let n := at_ d 16 8
      let ms := relayMembers table
      dst % 4096 = 0 → n % 4096 = 0 → n ≤ 128000000000 → dst + n ≤ hbmEnd →
      (s.relayOk ms = false → exec (.imageRelay q) s = .next (s.finish q e.seq 0x0304 0 0)) ∧
      (s.relayOk ms = true → 0 < n → freeSlot 4096 s 0 = some i →
        let p := if pTarget e.pkt < 16 then pTarget e.pkt else 0
        (ms.head? ≠ some s.pkgId → ∃ t, exec (.imageRelay q) s = .next t ∧ Opened s t q e p i []) ∧
        (ms.head? = some s.pkgId → dmaKind (s.qPort q) (at_ d 0 8) = some true →
          ∃ t, exec (.imageRelay q) s = .next t ∧ Opened s t q e p i [] ∧
            t.out.head? = some (.dmaRead q (bits (at_ d 0 8) 62 0) n)))) ∧
    (∀ i r, s.up = true → s.hslot i = some r → r.opcode = 0x0B02 → r.state = .running →
      exec (.relayTimeout i) s = .next (s.endOp i 0x0C02 0))

/-! ### Coherence and stacked memory -/

/-- Requests at the home (R369, R374, R377): of a line of HBM that nothing holds the first reader gets the data in E, or in M when it asks for ownership, and is the
one holder; an ownership request takes every other cluster's copy away; an upgrade makes the requester's own copy M; behind a writeback a
request waits; a refill chunk lands in the entry that lacks it. -/
def Sys2Proof.Claims.CoherenceRequests : Prop :=
  ∀ (s : State) (c line : Nat), s.up = true → c < 96 → s.levelOn 2 = true → s.evictRoom c = true →
    (∀ chunk (data : BitVec 128) k e, chunk < 4 → (k, e) ∈ s.cache.lines → keyLevel k = 2 → keyInst k = c → e.line = line →
      bit e.chunks.toNat chunk = false →
      ∃ t e', exec (.refillChunk c line chunk data) s = .next t ∧ (k, e') ∈ t.cache.lines ∧ e'.line = line ∧ e'.st = e.st ∧
        bits e'.data.toNat (128 * chunk + 127) (128 * chunk) = data.toNat ∧ bit e'.chunks.toNat chunk = true ∧
        t = { s with cache := { s.cache with lines := t.cache.lines } }) ∧
    (line < hbmEnd / 64 → s.cache.lines = [] → s.cache.dir = [] → s.hbm.poisoned (64 * line) = false →
      let d := BitVec.ofNat 512 (mval s.hbm.mem (64 * line) 64)
      let dir : DirEnt := { st := .e, holders := [c / 8], wb := false, waiting := [] }
      (∃ t k e, exec (.readShared c line) s = .next t ∧ t.dirOf line = some dir ∧ t.findLine 2 c line = some (k, e) ∧ e.data = d ∧
        e.st = .e ∧ e.chunks = 0) ∧
      (∃ t k e, exec (.readUnique c line) s = .next t ∧ t.dirOf line = some dir ∧ t.findLine 2 c line = some (k, e) ∧ e.data = d ∧
        e.st = .m ∧ e.chunks = 0) ∧
      ∃ t k e, exec (.upgrade c line) s = .next t ∧ t.dirOf line = some dir ∧ t.findLine 2 c line = some (k, e) ∧ e.data = d ∧
        e.st = .m) ∧
    (∀ d, s.dirOf line = some d → d.wb = true → s.findLine 2 c line = none → (∀ x ∈ d.waiting, x.req ≠ c) →
      ∃ t, exec (.readShared c line) s = .next t ∧ t.cache.lines = s.cache.lines ∧
        t.dirOf line = some { d with waiting := addWaiting { req := c, unique := false, at_ := s.time.refNs } d.waiting }) ∧
    (∀ d, s.dirOf line = some d → d.wb = false → d.waiting = [] → 14 ∉ d.holders →
      (s.findLine 2 c line = none →
        ∃ t d', exec (.readUnique c line) s = .next t ∧ t.dirOf line = some d' ∧ d'.holders = [c / 8] ∧ d'.st = .e ∧
          ∀ x ∈ t.cache.lines, ∀ h ∈ d.holders, h ≠ c / 8 → heldBy h line x.1 x.2 = false) ∧
      (∀ k e, s.findLine 2 c line = some (k, e) → e.st = .s ∨ e.st = .o → c / 8 ∈ d.holders → d.st ≠ .e →
        ∃ t d' k' e', exec (.upgrade c line) s = .next t ∧ t.dirOf line = some d' ∧ d'.holders = [c / 8] ∧ d'.st = .e ∧
          t.findLine 2 c line = some (k', e') ∧ e'.st = .m ∧ e'.data = e.data ∧
          ∀ x ∈ t.cache.lines, ∀ h ∈ d.holders, h ≠ c / 8 → heldBy h line x.1 x.2 = false))

/-- Evictions and snoops (R371, R372, R377, R378): a notice or a writeback from one that is not listed is stale and only acknowledged; a listed holder
leaves the directory with its notice; the owner of a writeback stays owner until its data lands in the system cache; the acknowledgement
frees the buffer; an invalidating snoop leaves its holder no copy, a shared one none in M or E. -/
def Sys2Proof.Claims.CoherenceEvictions : Prop :=
  ∀ (s : State) (h line : Nat), s.up = true → h < 14 →
    (s.evicting h line = true →
      let mine := fun (t : State) => (∀ v ∈ t.cache.evict, evictHolder v.owner = h → v.line = line → v.acked = true) ∧
        t.cache.evict.length = s.cache.evict.length
      (∀ data, s.dirOf line = none ∨ (∃ d, s.dirOf line = some d ∧ h ∉ d.holders) →
        (∃ t, exec (.cleanEvictionNotice h line data) s = .next t ∧ mine t ∧
          t = { s with cache := { s.cache with evict := t.cache.evict } }) ∧
        ∃ t, exec (.writeback h line) s = .next t ∧ mine t ∧ t = { s with cache := { s.cache with evict := t.cache.evict } }) ∧
      (∀ data d, s.dirOf line = some d → h ∈ d.holders → d.st ≠ .o → s.stillHolds h line = false →
        ∃ t, exec (.cleanEvictionNotice h line data) s = .next t ∧ mine t ∧ ∀ d', t.dirOf line = some d' → h ∉ d'.holders) ∧
      (∀ d hs, s.dirOf line = some d → d.holders = h :: hs → d.st ≠ .s →
        ∃ t, exec (.writeback h line) s = .next t ∧ t.dirOf line = some { d with wb := true } ∧
          t = { s with cache := { s.cache with dir := t.cache.dir } })) ∧
    (∀ data d hs, s.dirOf line = some d → d.holders = h :: hs → d.wb = true → d.waiting = [] →
      (s.levelOn 4 = true →
        ∃ t k e, exec (.writebackData h line data) s = .next t ∧ t.findLine 4 (s.slice line) line = some (k, e) ∧ e.data = data ∧
          e.st = .m ∧ ∀ d', t.dirOf line = some d' → d'.wb = false) ∧
      (s.levelOn 4 = false → s.findLine 4 (s.slice line) line = none → line < hbmEnd / 64 →
        ∃ t, exec (.writebackData h line data) s = .next t ∧ mread t.hbm.mem (64 * line) 64 = leBytes 64 data.toNat)) ∧
    (∀ owner, ∃ t, exec (.evictAck owner line) s = .next t ∧ t = { s with cache := { s.cache with evict := t.cache.evict } } ∧
      ∀ v, v ∈ t.cache.evict ↔ v ∈ s.cache.evict ∧ ¬ (v.owner = owner ∧ v.line = line ∧ v.acked = true)) ∧
    (∀ d, s.dirOf line = some d → h ∈ d.holders → d.wb = false →
      (∃ t, exec (.snoop h line true) s = .next t ∧ ∀ x ∈ t.cache.lines, heldBy h line x.1 x.2 = false) ∧
      ∃ t, exec (.snoop h line false) s = .next t ∧ ∀ x ∈ t.cache.lines, heldBy h line x.1 x.2 = true → x.2.st ≠ .m ∧ x.2.st ≠ .e)

/-- The host's side (R382, R383): a host access to populated HBM that nothing here holds gets the data, as a holder when it caches it, or leaves its
own; others are not served; SNPCUR answers and changes nothing, SNPDATA leaves shared copies, SNPINV none in the system cache; an answer
of the host serves who waited. -/
def Sys2Proof.Claims.HostCoherence : Prop :=
  ∀ (s : State) (line : Nat), s.up = true →
    (hbmEnd / 64 ≤ line → ∀ wr cached data, exec (.hostCxlMem wr cached line data) s = .next { s with out := .notServed :: s.out }) ∧
    (line < hbmEnd / 64 → s.cache.dir = [] → ∀ cached data,
      (s.findLine 4 (s.slice line) line = none → s.hbm.poisoned (64 * line) = false →
        ∃ t, exec (.hostCxlMem false cached line data) s = .next t ∧ t.out = .data (mread s.hbm.mem (64 * line) 64) false :: s.out ∧
          (cached = true → t.dirOf line = some { st := .e, holders := [14], wb := false, waiting := [] }) ∧
          (cached = false → t = { s with out := t.out })) ∧
      ∃ t, exec (.hostCxlMem true cached line data) s = .next t ∧ mread t.hbm.mem (64 * line) 64 = leBytes 64 data.toNat ∧
        (∀ x ∈ t.cache.lines, keyLevel x.1 = 4 → x.2.line ≠ line) ∧ ∀ a, a < 64 * line ∨ 64 * line + 64 ≤ a →
          mget t.hbm.mem a = mget s.hbm.mem a) ∧
    (hbmEnd / 64 ≤ line →
      let said := fun (t : State) => (∀ d, s.hostCopy line = some d → t.out = .data (leBytes 64 d.toNat) false :: s.out) ∧
        (s.hostCopy line = none → t.out = .data [] false :: s.out)
      (∃ t, exec (.snpcur line) s = .next t ∧ said t ∧ t = { s with out := t.out }) ∧
      (∃ t, exec (.snpdata line) s = .next t ∧ said t ∧ (∀ x ∈ t.cache.lines, x.2.line = line → x.2.st = .s) ∧
        (∀ d, s.dirOf line = some d → ∃ d', t.dirOf line = some d' ∧ d'.st = .s ∧ 14 ∈ d'.holders)) ∧
      (∃ t, exec (.snpinv line) s = .next t ∧ said t ∧
        (∀ x ∈ t.cache.lines, keyLevel x.1 = 4 → x.2.line ≠ line) ∧
        ∀ x ∈ t.cache.lines, ∀ h ∈ s.holdersOf line, heldBy h line x.1 x.2 = false) ∧
      ∀ c at_ data, c < 96 → s.levelOn 2 = true → s.cache.cxlWait = [(line, { req := c, unique := false, at_ := at_ })] →
        s.dirOf line = none → (∀ x ∈ s.cache.lines, x.2.line ≠ line) →
        ∃ t k e, exec (.cxlHostResponse line false data) s = .next t ∧ t.cache.cxlWait = [] ∧
          (∃ d, t.dirOf line = some d ∧ d.st = .s ∧ d.holders = [14, c / 8]) ∧ t.findLine 2 c line = some (k, e) ∧ e.data = data)

/-- Stacked memory (R297, R302, R305, R306, R310): HBM_READ of a good block keeps its data, with one symbol in error too, and poison with two or more or of a poisoned
block; HBM_WRITE changes exactly its bytes; a narrow request waits in its block's coalescer, a write taking effect at once, and
the timeout answers the reads in order; a scrub read that came late is dropped; a stack above 105 degrees stops, below 102 it goes on; a
migration copies one granule after the other. -/
def Obligations.StackedMemory : Prop :=
  ∀ (s : State), s.boot.alive = true →
    (∀ a bad, s.hbmServes a = true →
      let b := a - a % 64
      let d := BitVec.ofNat 512 (mval s.hbm.mem b 64)
      (s.hbm.poisoned b = false → bad = 0 →
        exec (.hbmRead a bad) s = .next { s with hbm := { s.hbm with lastRead := some (b, some d) } } ∧
        ∀ w, w = false → exec (.scrubRead a bad w) s = .next s) ∧
      (s.hbm.poisoned b = false → bad = 1 →
        ∃ t, exec (.hbmRead a bad) s = .next t ∧ t.hbm.lastRead = some (b, some d) ∧ t.hbm.mem = s.hbm.mem ∧
          t.hbm.poison = s.hbm.poison ∧
          t.fld (aHbmStackErr (hbmStack a)) 31 0 = satAdd 32 (s.fld (aHbmStackErr (hbmStack a)) 31 0) 1) ∧
      (s.hbm.poisoned b = true ∨ 2 ≤ bad →
        ∃ t, exec (.hbmRead a bad) s = .next t ∧ t.hbm.lastRead = some (b, none) ∧ t.hbm.mem = s.hbm.mem ∧
          t.hbm.poisoned b = true) ∧
      (bad ≠ 1 → exec (.scrubRead a bad true) s = .next s) ∧
      (∀ w, s.hbm.poisoned b = true → bad = 1 ∨ w = false → exec (.scrubRead a bad w) s = .next s) ∧
      (∀ bs, a % 64 + bs.length ≤ 64 → s.hbm.poisoned a = false →
        ∃ t, exec (.hbmWrite a bs) s = .next t ∧ t.hbm.poisoned a = false ∧
          ∀ x, mget t.hbm.mem x = if a ≤ x ∧ x < a + bs.length then bs.getD (x - a) 0 else mget s.hbm.mem x)) ∧
    (∀ a n (data : BitVec 256), a < hbmEnd → n = 8 ∨ n = 16 ∨ n = 32 → a % n = 0 → s.hbm.poisoned a = false →
      (∃ t, exec (.narrowRequest false a n data) s = .next t ∧ t.hbm.mem = s.hbm.mem ∧
        sget [] t.hbm.coal (a / 64) = sget [] s.hbm.coal (a / 64) ++
          [{ wr := false, bad := false, off := a % 64, size := n, data := BitVec.ofNat 256 (mval s.hbm.mem a n) }]) ∧
      ∃ t, exec (.narrowRequest true a n data) s = .next t ∧
        sget [] t.hbm.coal (a / 64) = sget [] s.hbm.coal (a / 64) ++ [{ wr := true, bad := false, off := a % 64, size := n, data := data }] ∧
        ∀ x, mget t.hbm.mem x = if a ≤ x ∧ x < a + n then (leBytes n data.toNat).getD (x - a) 0 else mget s.hbm.mem x) ∧
    (∀ b, s.hbmServes (64 * b) = true →
      ∃ t, exec (.coalescerTimeout b) s = .next t ∧ sget [] t.hbm.coal b = [] ∧ t.hbm.mem = s.hbm.mem ∧
        t.out = (((sget [] s.hbm.coal b).filter fun n => !n.wr).map fun n =>
          Out.data (leBytes n.size n.data.toNat) n.bad).reverse ++ s.out) ∧
    (∀ k temp, k < 8 →
      (105 < temp → ∃ t, exec (.hbmTempSample k temp) s = .next t ∧ (t.stack k).stopped = true ∧ t.flag (aHbmStackStatus k) 63 = true ∧
        t.pwr.hbmTrip = true ∧ t.fld (aHbmStackStatus k) 39 32 = min 255 temp) ∧
      (temp < 102 → (s.stack k).stopped = true →
        ∃ t, exec (.hbmTempSample k temp) s = .next t ∧ (t.stack k).stopped = false) ∧
      (temp ≤ 105 → (s.stack k).stopped = false →
        ∃ t, exec (.hbmTempSample k temp) s = .next t ∧ t.stack k = s.stack k ∧ t.fld (aHbmStackStatus k) 39 32 = temp)) ∧
    (∀ k n u rest, k < 8 → (s.stack k).mig = (n, u) :: rest →
      ∃ t, exec (.migrationCopy k) s = .next t ∧ t.hbm.mem = s.hbm.mem ∧
        (t.stack k).mig = if u + 1 < 5859375 then (n, u + 1) :: rest else rest)

/-! ### Fabric and links -/

namespace Sys2Proof

/-- A request arrives intact for this package (R394, R409). -/
def Intact (s : State) (h : FabHdr) : Prop :=
  s.up = true ∧ h.hops ≠ 15 ∧ h.resp = false ∧ h.dst.toNat = s.pkgId ∧ h.crcOk = true

/-- Its slot's completion-cache entry has an older generation, and the cache covers its source (R406). -/
def Newer (s : State) (h : FabHdr) : Prop :=
  s.ccCovers h.src.toNat = true ∧ 0 < (h.gen - (sget CCEnt.zero s.fab.cc (ccKey h)).gen).toNat ∧
    (h.gen - (sget CCEnt.zero s.fab.cc (ccKey h)).gen).toNat ≤ 2 ^ 23

/-- Bytes [a, a + n) lie in one 64-byte block of HBM that is not poisoned. -/
def OneBlock (s : State) (a n : Nat) : Prop := a % 64 + n ≤ 64 ∧ a < hbmEnd ∧ s.hbm.poisoned a = false

/-- The request has taken effect once: its entry is done with a status, and of HBM only [a, a + bytes) has changed. -/
def TookEffect (s t : State) (h : FabHdr) (status a : Nat) (bs : List Byte) : Prop :=
  (sget CCEnt.zero t.fab.cc (ccKey h)).gen = h.gen ∧ (sget CCEnt.zero t.fab.cc (ccKey h)).fin = true ∧
    (sget CCEnt.zero t.fab.cc (ccKey h)).status = BitVec.ofNat 16 status ∧
    ∀ x, mget t.hbm.mem x = if a ≤ x ∧ x < a + bs.length then bs.getD (x - a) 0 else mget s.hbm.mem x

/-- The row of an atomic, and its operation (R394). -/
def AtomRow (h : FabHdr) (d : W512) (op : Nat) (i : Instr) : Prop :=
  (i = .integerAdd h d ∧ op = 0x10) ∨ (i = .signedMinMax h d ∧ op = if h.op = 0x12 then 0x12 else 0x11) ∨
    (i = .unsignedMinMax h d ∧ op = if h.op = 0x14 then 0x14 else 0x13) ∨ (i = .swap h d ∧ op = 0x15) ∨
    (i = .compareAndSwap h d ∧ op = 0x16) ∨ (i = .floatAdd h d ∧ op = 0x18) ∨
    (i = .floatMaximumMinimum h d ∧ op = if h.op = 0x1A then 0x1A else 0x19)

/-- What an atomic of `n` bytes leaves: old value, operand, and the new value of a compare-and-swap (R394, R395). -/
def AtomLeaves (op n old x y new : Nat) : Prop :=
  let i := fun v => sint (8 * n) v
  let f := atomFmt n
  (op = 0x10 → new = (old + x) % 2 ^ (8 * n)) ∧ (op = 0x11 → new = if i old ≤ i x then old else x) ∧
    (op = 0x12 → new = if i x ≤ i old then old else x) ∧ (op = 0x13 → new = min old x) ∧ (op = 0x14 → new = max old x) ∧
    (op = 0x15 → new = x) ∧ (op = 0x16 → new = if old = x then y else old) ∧ (op = 0x18 → new = (fadd f 0 old x).1) ∧
    (op = 0x19 → new = (fmaxmin f true old x).1) ∧ (op = 0x1A → new = (fmaxmin f false old x).1)

end Sys2Proof

/-- The target of fabric requests (R394 to R397, R406): one that is for another package or damaged is counted and dropped; a read is answered; a
write, an atomic and a burst take effect exactly once, their completion-cache entry done; a repeat is answered from the entry and a stale one
ignored; an ordered add waits for the furrow. -/
def Sys2Proof.Claims.FabricTarget : Prop :=
  ∀ (s : State) (h : FabHdr) (d : W512),
    (∀ i, i = .fabricRead h d ∨ i = .fabricWrite h d ∨ i = .orderedFloatAdd h d ∨ (∃ op, AtomRow h d op i) →
      (s.up = false ∨ h.hops = 15 ∨ h.resp = true → exec i s = .next s) ∧
      (s.up = true → h.hops ≠ 15 → h.resp = false → h.dst.toNat ≠ s.pkgId →
        exec i s = .next (s.countFld aFabStatus 15 0 1)) ∧
      (s.up = true → h.hops ≠ 15 → h.resp = false → h.dst.toNat = s.pkgId → h.crcOk = false →
        exec i s = .next (s.countFld aFabStatus 31 16 1))) ∧
    (Intact s h →
      let a := h.addr.toNat
      let n := 2 ^ h.size.toNat
      (h.size ≠ 7 → OneBlock s a n → exec (.fabricRead h d) s = .next (s.respond h 0 (mread s.hbm.mem a n))) ∧
      (h.size ≠ 7 → OneBlock s a n → Newer s h →
        ∃ t, exec (.fabricWrite h d) s = .next t ∧ TookEffect s t h 0 a (leBytes n d.toNat)) ∧
      (Newer s h → OneBlock s a n → ∀ op i, AtomRow h d op i → (if op < 0x18 then n = 4 ∨ n = 8 else n = 2 ∨ n = 4) →
        ∃ t v, exec i s = .next t ∧ TookEffect s t h 0 a (leBytes n v) ∧
          AtomLeaves op n (mval s.hbm.mem a n) (d.toNat % 2 ^ (8 * n)) ((d.toNat >>> (8 * n)) % 2 ^ (8 * n)) v) ∧
      (Newer s h → n = 2 ∨ n = 4 → s.fab.order.length < 16384 → s.fab.orderWait = [] →
        ∃ t, exec (.orderedFloatAdd h d) s = .next t ∧ t.hbm = s.hbm ∧ t.out = s.out ∧
          t.fab.order = s.fab.order ++ [{ hdr := h, data := BitVec.ofNat 32 (d.toNat % 2 ^ (8 * n)) }]) ∧
      (∀ data : BitVec 32768, Newer s h → h.engine ≠ 800 → s.handles = [] → s.hbm.poison = [] → a % 64 = 0 → a + 4096 ≤ hbmEnd →
        ∃ t, exec (.burstWrite h data) s = .next t ∧ TookEffect s t h 0 a (leBytes 4096 data.toNat)) ∧
      (∀ (data : BitVec 32768) c f k, Newer s h → h.engine = 800 → s.burstColl h = some (c, f) → s.coll c = some k → k.run = .run →
        ∃ t k', exec (.burstWrite h data) s = .next t ∧ t.coll c = some k' ∧
          sfind? (sget [] k'.got f) (a / 4096) = some data ∧ t.hbm = s.hbm) ∧
      (s.ccCovers h.src.toNat = true → h.size ≠ 7 →
        let e := sget CCEnt.zero s.fab.cc (ccKey h)
        (h.gen = e.gen → e.fin = true →
          exec (.fabricWrite h d) s = .next ((s.countFld aFabStatus 47 32 1).respond h e.status.toNat [])) ∧
        (h.gen = e.gen → e.fin = false → exec (.fabricWrite h d) s = .next s) ∧
        (2 ^ 23 < (h.gen - e.gen).toNat → exec (.fabricWrite h d) s = .next s)))

/-- The issuer (R398, R399, R405 to R409): a response, or the answer to a command packet, ends its request and frees the slot; a second one finds nothing; a request
without a response is sent again, and after 2 ms answered with poison, its slot held until it expires with a new generation; REMOTE_OP
issues one request, or is refused without a key; a command packet enters by its port and is answered. -/
def Sys2Proof.Claims.FabricIssuer : Prop :=
  ∀ (s : State), s.up = true →
    (∀ (o : Outst) (status : BitVec 16) (data : W512), s.fab.outst = [o] → o.link < 64 → o.isFor = .nobody →
      (o.hdr.op ≠ 1 → ∃ t, exec (.fabricResponse o.hdr.dst.toNat o.hdr.slot.toNat o.hdr.gen.toNat 0 status data) s = .next t ∧
        t.fab.outst = [] ∧ (sget SlotS.zero t.fab.slots (o.hdr.dst.toNat * 4096 + o.hdr.slot.toNat)).busy = false) ∧
      (o.hdr.op = 1 → ∃ t, exec (.fabricResponse o.hdr.dst.toNat 0 0 o.idx status data) s = .next t ∧ t.fab.outst = []) ∧
      (o.hdr.op = 0x20 → ∀ answer,
        ∃ t, exec (.commandAnswer o.hdr.dst.toNat o.hdr.slot.toNat o.hdr.gen.toNat answer) s = .next t ∧ t.fab.outst = []) ∧
      (∀ p, s.altPath o.hdr.dst.toNat (o.link, o.via) = some p →
        ∃ t, exec (.reissueTimeout o.idx) s = .next t ∧
          t.fab.outst = [{ o with reissued := true, link := p.1, via := p.2 }] ∧
          t.out.head? = some (.fab p.1 p.2 o.hdr o.payload)) ∧
      (o.hdr.gen ≠ 0 → o.hdr.op ≠ 1 →
        ∃ t, exec (.fabPoisonTimeout o.idx) s = .next t ∧ t.fab.outst = [] ∧
          (sget SlotS.zero t.fab.slots (o.hdr.dst.toNat * 4096 + o.hdr.slot.toNat)).poisoned = true)) ∧
    (∀ src slot gen tag status data, (∀ o ∈ s.fab.outst, o.hdr.dst.toNat ≠ src) →
      exec (.fabricResponse src slot gen tag status data) s = .next s ∧ ∀ a, exec (.commandAnswer src slot gen a) s = .next s) ∧
    (∀ dst slot, (sget SlotS.zero s.fab.slots (dst * 4096 + slot)).busy = true →
      (sget SlotS.zero s.fab.slots (dst * 4096 + slot)).poisoned = true → s.fab.outst = [] →
      ∃ t, exec (.slotHoldExpiry dst slot) s = .next t ∧ sget SlotS.zero t.fab.slots (dst * 4096 + slot) =
        { gen := (sget SlotS.zero s.fab.slots (dst * 4096 + slot)).gen + 1, busy := false, poisoned := false }) ∧
    (∀ (q : Nat) (e : Entry), Begins s q 0x0B01 e →
      let g := bytesOf e.pkt 16 8
      let op := bytesOf e.pkt 24 1
      let n := 2 ^ bytesOf e.pkt 25 1
      remoteSize op (bytesOf e.pkt 25 1) = true → g % n = 0 →
      (s.globalDet = true → op = 0x18 → exec (.remoteOp q) s = .next (s.finish q e.seq 0x0E01 0 0)) ∧
      (¬ (s.globalDet = true ∧ op = 0x18) → ∀ p a, s.dest g = .remote p a →
        let free := pTarget e.pkt = 0xFFFFFFFF ∧ s.qPort q = 0
        (¬ free → s.keyOk (pTarget e.pkt % 16) p a op = false → exec (.remoteOp q) s = .next (s.finish q e.seq 0x0302 0 0)) ∧
        (s.keyOk (pTarget e.pkt % 16) p a op = true → s.fab.outst = [] →
          ∃ t o, exec (.remoteOp q) s = .next t ∧ t.fab.outst = [o] ∧ o.hdr.op = BitVec.ofNat 8 op ∧ o.hdr.dst = BitVec.ofNat 16 p ∧
            o.hdr.addr = BitVec.ofNat 48 a ∧ o.isFor = .cmd q e.seq)) ∧
      (¬ (s.globalDet = true ∧ op = 0x18) → ∀ a, s.dest g = .here a → OneBlock s a n →
        let old := mread s.hbm.mem a n
        (op = 1 → exec (.remoteOp q) s = .next ((begun s q e).finish q e.seq 0 0 (leNat (old.take 8)))) ∧
        (op ≠ 1 → ∃ v new, exec (.remoteOp q) s = .next (State.finish v q e.seq 0 0 (if op = 2 then 0 else leNat old)) ∧
          (op = 2 → new = bytesOf e.pkt 32 16) ∧
          AtomLeaves op n (leNat old) (bytesOf e.pkt 32 n) (bytesOf e.pkt (32 + n) n) new ∧
          ∀ x, mget v.hbm.mem x = if a ≤ x ∧ x < a + n then (leBytes n new).getD (x - a) 0 else mget s.hbm.mem x))) ∧
    (∀ n (h : FabHdr) (pkt : W512), Intact s h → Newer s h →
      let u := s.setCc { h with op := 0x21 } { gen := h.gen, fin := false, status := 0, data := 0 }
      let r := u.portEnter (s.cmdPort n h.src.toNat) true pkt
      ∃ t, exec (.commandPacket n h pkt) s = .next t ∧ (sget CCEnt.zero t.fab.cc (ccKey h)).fin = true ∧
        (sget CCEnt.zero t.fab.cc (ccKey h)).status = BitVec.ofNat 16 r.2 ∧ t.queues = r.1.queues ∧
        (s.buddy ≠ 0 → h.src.toNat = s.buddy → s.fld (aFabLinkCfg n) 2 0 = 2 → s.cmdPort n h.src.toNat = 4) ∧
        (s.buddy = 0 → s.flag aCkptCfg 63 = false → s.cmdPort n h.src.toNat = 3))

/-- The life of a link (R35, R387 to R392): training ends UP with the peer's numbers, REFUSED when the peer is none or the package itself, or dead with two
bad lanes; REFUSED tries again; a lane that fails moves to the spare; LINK_DOWN drops what the link held; the next data flit is taken, a
damaged one answered with a nack, and a nack sends again what it names. -/
def Obligations.LinkLife : Prop :=
  ∀ (s : State) (n : Nat), s.boot.alive = true → n < 64 →
    (∀ rep : TrainReport, s.fld (aFabLinkStatus n) 2 0 = 1 → s.flag (aFabLinkCfg n) 63 = true → s.pkgId ≠ 0 → (s.link n).dead = false →
      (s.trainRefused n rep = true →
        ∃ t, exec (.linkTrained n rep) s = .next t ∧ t.fld (aFabLinkStatus n) 2 0 = 5 ∧ t.flag aFabStatus 61 = true) ∧
      (s.trainRefused n rep = false → (s.badLanes n rep).length ≤ 1 →
        ∃ t, exec (.linkTrained n rep) s = .next t ∧ t.linkUp n = true ∧ t.fld (aFabLinkStatus n) 63 48 = rep.peerPkg.toNat ∧
          t.fld (aFabLinkStatus n) 47 42 = rep.peerLink.toNat) ∧
      (s.trainRefused n rep = false → 2 ≤ (s.badLanes n rep).length →
        ∃ t, exec (.linkTrained n rep) s = .next t ∧ t.fld (aFabLinkStatus n) 2 0 = 4 ∧ (t.link n).dead = true)) ∧
    (s.fld (aFabLinkStatus n) 2 0 = 5 → s.flag (aFabLinkCfg n) 63 = true →
      ∃ t, exec (.linkTrainRetry n) s = .next t ∧ t.fld (aFabLinkStatus n) 2 0 = 1 ∧ t = { s with regs := t.regs }) ∧
    (s.linkUp n = true →
      (∀ lane, lane < 4 → s.flag (aFabLinkStatus n) 7 = false →
        ∃ t, exec (.laneFail n lane) s = .next t ∧ t.flag (aFabLinkStatus n) 7 = true ∧ t.fld (aFabLinkStatus n) 10 8 = lane) ∧
      (s.fab.outst = [] → ∃ t, exec (.linkDown n) s = .next t ∧ t.linkUp n = false ∧ (t.link n).replay = []) ∧
      (∀ flit : Flit, flit.fecOk = true → flit.crcOk = true → flit.fecCorrected = false →
        (flit.kind = 1 → flit.seq = (s.link n).rxNext →
          ∃ t, exec (.flitReceive n flit) s = .next t ∧ (t.link n).rxNext = (s.link n).rxNext + 1 ∧ (t.link n).nackRun = 0 ∧
            t = { s with fab := { s.fab with links := t.fab.links } }) ∧
        (flit.kind ≠ 1 →
          ∃ t, exec (.flitReceive n flit) s = .next t ∧ (t.link n).rxNext = (s.link n).rxNext ∧
            (t.link n).replay = (s.link n).replay.dropWhile fun e => (flit.ack - e.1).toNat < 2 ^ 23)) ∧
      (∀ flit : Flit, flit.fecOk = true → flit.crcOk = false → flit.fecCorrected = false → (s.link n).nackRun = 0 →
        ∃ t, exec (.flitReceive n flit) s = .next t ∧ t.out = .nack n (s.link n).rxNext.toNat :: s.out ∧
          (t.link n).nackRun = 1 ∧ (t.link n).rxNext = (s.link n).rxNext) ∧
      (∀ seq, ∃ t, exec (.nack n seq) s = .next t ∧ t = { s with out := t.out } ∧
        t.out = (((s.link n).replay.dropWhile fun e => e.1.toNat != seq % 2 ^ 24).map fun e =>
          Out.resend n e.1.toNat e.2).reverse ++ s.out))

/-! ### Faults, digests and power -/

/-- Repair (R22, R308, R388, R441, R466 to R472, R479, R485): a corrected error of a tile store is counted for 24 hours and is a fault above the threshold of RAS_CFG; a tile fault retires the tile, and a spare of its die takes the logical number, or without one the
partition is gone; REPAIR retires a tile or a pseudo-channel, moves a lane, forces the L1s on or changes the steward pair, and refuses other
actions; a failed module stays disabled; a chunk is hashed once. -/
def Obligations.FaultsAndRepair : Prop :=
  ∀ (s : State), s.up = true →
    (∀ k, k < 624 → ((s.tile k).retired = true → ∀ b, exec (.tileFault k b) s = .next s) ∧
      ((s.tile k).retired = false →
        let ce := (s.ras.tileCe.filter fun e => decide (s.time.refNs < e.2 + 86400000000000)) ++ [(k, s.time.refNs)]
        let u : State := { s with ras := { s.ras with tileCe := ce } }
        let crossed := s.flag aRasCfg 0 = true ∧ s.fld aRasCfg 31 16 < (ce.filter fun e => e.1 == k).length
        (crossed → exec (.tileFault k true) s = exec (.tileFault k false) u) ∧ (¬ crossed → exec (.tileFault k true) s = .next u)) ∧
      ((s.tile k).retired = false → s.logical? k = none →
        ∃ t, exec (.tileFault k false) s = .next t ∧ (t.tile k).retired = true ∧ k ∈ t.ras.badTiles) ∧
      (∀ p l x, (s.tile k).retired = false → s.tilePart? k = some p → s.logical? k = some l → s.faultOp k = none →
        s.spare? (k / 156) = some x →
        ∃ t, exec (.tileFault k false) s = .next t ∧ (t.tile k).retired = true ∧ k ∈ t.ras.badTiles ∧
          sget 0 t.ras.map (156 * (k / 156) + l) = x % 156 + 1) ∧
      (∀ p l, (s.tile k).retired = false → s.tilePart? k = some p → s.logical? k = some l → s.handles = [] →
        s.spare? (k / 156) = none →
        ∃ t, exec (.tileFault k false) s = .next t ∧ (t.tile k).retired = true ∧ t.partExists p = false)) ∧
    (∀ (q : Nat) (e : Entry), Begins s q 0x0903 e →
      let kind := bytesOf e.pkt 16 1
      let x := bytesOf e.pkt 17 1
      let y := bytesOf e.pkt 18 1
      let z := bytesOf e.pkt 19 1
      let refused := exec (.repair q) s = .next (s.finish q e.seq 0x0304 0 0)
      (4 < kind → refused) ∧
      (kind = 0 → 4 ≤ x ∨ 156 ≤ y ∨ z ≠ 0 ∨ (s.tile (156 * x + y)).retired = true → refused) ∧
      (kind = 0 → x < 4 → y < 156 → z = 0 → (s.tile (156 * x + y)).retired = false →
        exec (.repair q) s = .next (((begun s q e).tileFault (156 * x + y)).finish q e.seq 0 0 0)) ∧
      (kind = 1 → x < 8 → y < 32 → z = 0 → s.pcRetired x y = false →
        ∃ v : State, (s.fld (aHbmStackStatus x) 29 28 < 2 → exec (.repair q) s = .next (v.finish q e.seq 0 0 0) ∧ v.pcRetired x y = true ∧
            32 * x + y ∈ v.ras.badPcs) ∧
          (2 ≤ s.fld (aHbmStackStatus x) 29 28 → exec (.repair q) s = .next (v.finish q e.seq 0x0304 0 0) ∧
            v.flag (aHbmStackStatus x) 62 = true ∧ v.pcRetired x y = false)) ∧
      (kind = 2 → x < 64 → y < 4 → z = 0 → s.linkUp x = true → s.flag (aFabLinkStatus x) 7 = false →
        ∃ v : State, exec (.repair q) s = .next (v.finish q e.seq 0 0 0) ∧ v.flag (aFabLinkStatus x) 7 = true ∧
          v.fld (aFabLinkStatus x) 10 8 = y) ∧
      (kind = 3 → x = 0 → y = 0 → z = 0 →
        let fine := (s.flag aCacheMode 0 = true ∨ s.flag aCacheStatus 2 = true) ∧
          (s.flag aCacheMode 1 = true ∨ s.flag aCacheStatus 4 = true)
        (¬ fine → exec (.repair q) s = .next (s.finish q e.seq 0x0B01 0 0)) ∧
        (fine → ∃ v : State, exec (.repair q) s = .next (v.finish q e.seq 0 0 0) ∧ v.fld aCacheMode 1 0 = 3)) ∧
      (∀ n, kind = 4 → x = 0 → y = 0 → z = 0 → s.activePair = some n → s.pairState (1 - n) = 0 →
        ∃ v : State, exec (.repair q) s = .next (v.finish q e.seq 0 0 0) ∧ v.activePair = some (1 - n) ∧ v.pairState n = 2)) ∧
    (∀ n, s.activePair = some n →
      let took := fun (t : State) => t.pairState n = 2 ∧ (s.pairState (1 - n) = 0 → t.activePair = some (1 - n))
      (∃ t, exec (.lockstepInjection 2) s = .next t ∧ t.activePair = some n ∧ t.fld aRasSteward 47 0 = s.furrow) ∧
      (∀ r, r ≠ 2 → ∃ t, exec (.lockstepInjection r) s = .next t ∧ took t) ∧
      ∀ o, 1 ≤ o → o ≤ 4 → ∃ t, exec (.stewardMismatch o) s = .next t ∧ took t) ∧
    (∀ conn m, conn < 14 → m < modulesOf conn → bit (sget 0 s.fab.d2d conn) m = false →
      ∃ t, exec (.d2dModuleFail conn m) s = .next t ∧ sget 0 t.fab.d2d conn = sget 0 s.fab.d2d conn + 2 ^ m) ∧
    (exec (.shareWindowEnd []) s = .next s) ∧
    (∀ o : ShareObs, o.part < 16 → o.holder < 16 → o.resource < 72 → o.cause = 2 ∨ o.cause = 4 ∨ o.cause = 5 →
      let share := if o.resource < 64 then s.fld (aRasPartShare o.part) 7 0 else s.fld (aRasPartShare o.part) 15 8
      (o.waiting = false ∨ share ≤ o.percent → exec (.shareWindowEnd [o]) s = .next s) ∧
      (o.waiting = true → o.percent < share → s.breachOf o.cause o.part o.holder = none →
        ∃ t, exec (.shareWindowEnd [o]) s = .next t ∧ t.flag aRasStatus 61 = true ∧
          t.fld aRasBreachPtr 31 0 = (s.fld aRasBreachPtr 31 0 + 1) % 2 ^ 32)) ∧
    (∀ p chunk w d, s.digRun = [(w, d)] → d.part = p → s.inRegion aDetRegionBase aDetRegionLen p chunk = true →
      ∃ t, exec (.digestChunkHash p chunk) s = .next t ∧ t = { s with digRun := t.digRun } ∧
        ∃ d', t.digRun = [(w, d')] ∧
          sfind? d'.leaves chunk = some ((sfind? d.leaves chunk).getD (digestNum (sha256 (mread s.hbm.mem (4096 * chunk) 4096)))))

/-- Power and heat (R491 to R496, R503 to R507): a tick keeps its energy in the window and the measured watts in PWR_MEASURE, and every die of a partition is granted at least one tile and no
more than it has; VR_ALERT puts the package into the floor state with every user core gated; its end after 100 us starts the return; a die
temperature sets the step of R505 and its cap, or trips the package. -/
def Obligations.PowerAndHeat : Prop :=
  ∀ (s : State),
    (s.boot.alive = true → ∀ m : PowerSample,
      ∃ t, exec (.powerTick m) s = .next t ∧ t.pwr.hist = ((m.tileMw + m.nontileMw) :: s.pwr.hist).take 16000 ∧
        t.fld aPwrMeasure 31 16 = (m.tileMw + m.nontileMw) / 1000 % 65536 ∧ t.fld aPwrMeasure 63 48 = m.tileMw / 1000 % 65536 ∧
        (∀ p d, s.partExists p = true → d < 4 → 0 < s.tileCount p d →
          1 ≤ t.fld (aPwrPart p) (8 * d + 7) (8 * d) ∧ t.fld (aPwrPart p) (8 * d + 7) (8 * d) ≤ s.tileCount p d)) ∧
    (s.pins.pwrok = true → s.pwr.tripped = false →
      ∃ t, exec .vrAlert s = .next t ∧ t.pins = { s.pins with vrAlertN := false } ∧ t.floored = true ∧ t.pwr.alertHold = true ∧
        t.flag aPwrStatus 48 = true ∧ (s.floored = false → ∀ c, c < 96 → (t.core c).gated = true)) ∧
    (s.pins.pwrok = false ∨ s.pwr.tripped = true → exec .vrAlert s = .next { s with pins := { s.pins with vrAlertN := false } }) ∧
    (∃ t, exec .vrAlertRelease s = .next t ∧ t.pins = { s.pins with vrAlertN := true } ∧ t.flag aPwrStatus 48 = false ∧
      t = { s with pins := t.pins, regs := t.regs }) ∧
    (s.pins.vrAlertN = true → s.pwr.alertHold = true →
      ∃ t, exec .floorExit s = .next t ∧ t.pwr.alertHold = false ∧
        (s.floored = true → s.pwr.hbmTrip = false → s.thermStep ≠ 3 → t.pwr.exiting = true)) ∧
    (s.boot.alive = true → ∀ temp,
      let up := if 105 < temp then 3 else if 100 < temp then 2 else if 95 < temp then 1 else 0
      (115 < temp → ∃ t, exec (.dieTempSample temp) s = .next t ∧ t.boot.alive = false ∧ t.pwr.tripped = true ∧
        t.pins.thermTripN = false ∧ t.up = false) ∧
      (temp ≤ 115 → s.thermStep = up →
        ∃ t, exec (.dieTempSample temp) s = .next t ∧ t = { s with regs := t.regs } ∧ t.fld aPwrStatus 47 40 = temp ∧ t.thermStep = up) ∧
      (temp ≤ 115 → s.thermStep < up →
        ∃ t, exec (.dieTempSample temp) s = .next t ∧ t.thermStep = up ∧ (up = 3 → t.floored = true) ∧
          t.fld aPwrMeasure 15 0 = if up = 1 then s.capW * 85 / 100 else s.capW * 70 / 100) ∧
      (temp + 3 ≤ 95 → 0 < s.thermStep →
        ∃ t, exec (.dieTempSample temp) s = .next t ∧ t.thermStep = 0 ∧ t.fld aPwrMeasure 15 0 = s.capW))

/-! ### Integers at the edges, memory -/

/-- Integer operations and shifts at every width (R199, R200): each row of R199's table, for the case it names and for every other operand, and the four
shifts with counts of any size, which set no flag. -/
def Obligations.IntegerEdges : Prop :=
  ∀ (w a b c : Nat), 1 ≤ w → a < 2 ^ w → b < 2 ^ w →
    let x := sint w a
    let y := sint w b
    let lo : Int := -(2 : Int) ^ (w - 1)
    let hi : Int := (2 : Int) ^ (w - 1) - 1
    let v := fun (r : Int) => if lo ≤ r ∧ r ≤ hi then 0 else fV
    let sat := fun (r : Int) =>
      if r < lo then (2 ^ (w - 1), fSAT) else if hi < r then (2 ^ (w - 1) - 1, fSAT) else ((r % (2 : Int) ^ w).toNat, 0)
    iNeg w true a = (if x = lo then (a, fV) else ((2 ^ w - a) % 2 ^ w, 0)) ∧
      iAbs w true a = (if x = lo then (a, fV) else (x.natAbs, 0)) ∧
      iNeg w false a = ((2 ^ w - a) % 2 ^ w, 0) ∧ iAbs w false a = (a, 0) ∧
      iAdd w true a b = ((a + b) % 2 ^ w, v (x + y)) ∧ iSub w true a b = ((a + 2 ^ w - b) % 2 ^ w, v (x - y)) ∧
      iMulLow w true a b = (a * b % 2 ^ w, v (x * y)) ∧ iMulLow w false a b = (a * b % 2 ^ w, 0) ∧
      iAdd w false a b = ((a + b) % 2 ^ w, 0) ∧ iSub w false a b = ((a + 2 ^ w - b) % 2 ^ w, 0) ∧
      (x = lo → y = -1 → iDiv w true a b = (a, fV) ∧ iRem w true a b = (0, 0)) ∧
      (∀ sg, iDiv w sg a 0 = (0, fDZ) ∧ iRem w sg a 0 = (a, fDZ)) ∧
      iSatAdd w true a b = sat (x + y) ∧ iSatSub w true a b = sat (x - y) ∧
      iSatAdd w false a b = (if a + b < 2 ^ w then (a + b, 0) else (2 ^ w - 1, fSAT)) ∧
      iSatSub w false a b = (if b ≤ a then (a - b, 0) else (0, fSAT)) ∧
      iShl w a c = (if w ≤ c then 0 else a * 2 ^ c % 2 ^ w, 0) ∧ iShr w a c = (if w ≤ c then 0 else a / 2 ^ c, 0) ∧
      iSar w a c = (if w ≤ c then (if 0 ≤ x then 0 else 2 ^ w - 1) else (x / (2 : Int) ^ c % (2 : Int) ^ w).toNat, 0) ∧
      iShl w a 0 = (a, 0) ∧ iShr w a 0 = (a, 0) ∧ iSar w a 0 = (a, 0) ∧
      iRol w a c = (a * 2 ^ (c % w) % 2 ^ w + a / 2 ^ (w - c % w), 0) ∧
      iRor w a c = (a / 2 ^ (c % w) + a * 2 ^ (w - c % w) % 2 ^ w, 0)

/-- What writes stacked memory keeps its canonical form: no duplicate and no listed zero byte, so that equal memories are equal data. The form is the
model's own; the rules that the rows follow are R295, R302 and R394. -/
def Obligations.StoresKeepForm : Prop :=
  ∀ (s t : State) (i : Instr),
    (∃ a bs, i = .hbmWrite a bs) ∨ (∃ wr a n d, i = .narrowRequest wr a n d) ∨ (∃ a bad, i = .hbmRead a bad) ∨
      (∃ a bad w, i = .scrubRead a bad w) ∨ (∃ h d, i = .fabricWrite h d) ∨ (∃ h d op, AtomRow h d op i) →
    Mem.wf s.hbm.mem = true → exec i s = .next t → Mem.wf t.hbm.mem = true

/-! ### The machine -/

namespace Sys2Proof

/-- The package has no power and nothing on its way gives it back. -/
def Unpowered (s : State) : Prop :=
  s.pins.pwrok = false ∧ s.boot.alive = false ∧ ∀ board pkg, Instr.pwrokRise board pkg ∉ s.pending

end Sys2Proof

/-- A step runs the front command: with `c` at the front of the queue it is `exec` of `c` on the state with the rest of the queue. -/
def Obligations.StepRunsFront : Prop :=
  ∀ (c : Instr) (q : List Instr) (s : State), step { s with pending := c :: q } = exec c { s with pending := q }

/-- No command ends a run: every step answers a next state. That a command which cannot act leaves the state as it is, is the model's choice
(notes/assumptions 8). -/
def Obligations.EveryStepGoesOn : Prop := ∀ (s : State), goesOn s

/-- After reset: nothing is queued or in progress, every register is at its reset value, the quality is FREE and the learned rate is inside its
bounds. -/
def Obligations.ResetState : Prop :=
  State.reset.pending = [] ∧ State.reset.handles = [] ∧ State.reset.colls = [] ∧ State.reset.sched = [] ∧
    (∀ o, State.reset.rd o = regReset o) ∧ State.reset.quality = 0 ∧ State.reset.source = 0 ∧ State.reset.up = false ∧
    (∀ q, State.reset.qEnabled q = false) ∧ (∀ n, n < 64 → State.reset.linkUp n = false) ∧ memOk State.reset ∧ rateOk State.reset

/-- The learned rate stays within 100 ppm (R53) at every step, whatever the samples: the counter never stands still or runs backwards at the
steered rate. -/
def Obligations.RateKept : Prop := ∀ (s t : State), rateOk s → step s = .next t → rateOk t

/-- Without power nothing but PWROK_RISE brings the package back (R509): every other command leaves it unpowered. -/
def Obligations.UnpoweredStays : Prop := ∀ (s t : State), Unpowered s → step s = .next t → Unpowered t

/-! ### The statements that have several parts -/

/-- Register-register instructions of a user core: `CoreAluResults` and `CoreAluIllegal`. -/
def Obligations.CoreAlu : Prop :=
  Claims.CoreAluResults ∧ Claims.CoreAluIllegal

/-- Immediate instructions, branches, calls and jumps of a user core: `CoreImmediates` and `CoreControlFlow`. -/
def Obligations.CoreImmediatesAndBranches : Prop :=
  Claims.CoreImmediates ∧ Claims.CoreControlFlow

/-- Loads and stores of a user core: `CoreLoads` and `CoreStores`. -/
def Obligations.CoreLoadsAndStores : Prop :=
  Claims.CoreLoads ∧ Claims.CoreStores

/-- Atomics, fences and what a user core leaves in memory: `CoresReachMemory` and `CoreAtomics` and `CoreFences`. -/
def Obligations.CoreAtomicsAndFences : Prop :=
  Claims.CoresReachMemory ∧ Claims.CoreAtomics ∧ Claims.CoreFences

/-- Traps, returns and interrupts of a user core: `CoreTraps` and `CoreInterrupts`. -/
def Obligations.CoreTrapsAndInterrupts : Prop :=
  Claims.CoreTraps ∧ Claims.CoreInterrupts

/-- System registers and WFI of a user core: `CoreSystemReads` and `CoreSystemWrites`. -/
def Obligations.CoreSystemRegisters : Prop :=
  Claims.CoreSystemReads ∧ Claims.CoreSystemWrites

/-- Register windows and the spill engine: `CoreWindows` and `CoreWindowTraps` and `CoreSpillEngine`. -/
def Obligations.CoreWindowing : Prop :=
  Claims.CoreWindows ∧ Claims.CoreWindowTraps ∧ Claims.CoreSpillEngine

/-- Cache maintenance by user cores: `CoreCacheByAddress` and `CacheMaintenance` and `CoreCacheBySet`. -/
def Obligations.CoreCacheOperations : Prop :=
  Claims.CoreCacheByAddress ∧ Claims.CacheMaintenance ∧ Claims.CoreCacheBySet

/-- Starting, halting and interrupting a thread; its registers and its fetch: `CoreRegisters` and `CoreEvents` and `FetchKeepsThreads`. -/
def Obligations.CoreThreads : Prop :=
  Claims.CoreRegisters ∧ Claims.CoreEvents ∧ Claims.FetchKeepsThreads

/-- Integer lanes and compares of the vector extension: `TwillIntegers` and `TwillCompares`. -/
def Obligations.TwillIntegersAndCompares : Prop :=
  Claims.TwillIntegers ∧ Claims.TwillCompares

/-- Floating-point lanes, converts, moves and reduces of the vector extension: `TwillFloats` and `TwillConvertsMovesReduces`. -/
def Obligations.TwillFloatsAndConverts : Prop :=
  Claims.TwillFloats ∧ Claims.TwillConvertsMovesReduces

/-- Issue of a bundle, and a bundle that waits: `TileBundleIssue` and `TileBundleHeld`. -/
def Obligations.TileBundles : Prop :=
  Claims.TileBundleIssue ∧ Claims.TileBundleHeld

/-- Furrow waits, safe points, tokens and completion: `TileWaits` and `TileEngines`. -/
def Obligations.TileWaitsAndEngines : Prop :=
  Claims.TileWaits ∧ Claims.TileEngines

/-- Matrix multiplication and its order of accumulation: `TileMatrixMultiply` and `MatrixColumnOrder`. -/
def Obligations.TileMatrixMultiply : Prop :=
  Claims.TileMatrixMultiply ∧ Claims.MatrixColumnOrder

/-- Drains and Balers: `TileDrain` and `TileBaler`. -/
def Obligations.TileDrainsAndBalers : Prop :=
  Claims.TileDrain ∧ Claims.TileBaler

/-- Vector arithmetic, compares and masks of a tile: `TileVectorArithmetic` and `TileVectorMasks`. -/
def Obligations.TileVectorElements : Prop :=
  Claims.TileVectorArithmetic ∧ Claims.TileVectorMasks

/-- Reduces and converts of a tile: `TileVectorReduce` and `TileVectorConvert`. -/
def Obligations.TileVectorReducesAndConverts : Prop :=
  Claims.TileVectorReduce ∧ Claims.TileVectorConvert

/-- Shuttle transfers and the addresses of their elements: `TileShuttleTransfers` and `ShuttleAddresses`. -/
def Obligations.TileShuttle : Prop :=
  Claims.TileShuttleTransfers ∧ Claims.ShuttleAddresses

/-- The test port, BAR2 and BAR4: `TestPort` and `HostMemory`. -/
def Obligations.TestPortAndHostMemory : Prop :=
  Claims.TestPort ∧ Claims.HostMemory

/-- Register writes and their effects: `RegisterWrites` and `RegisterEffects`. -/
def Obligations.RegisterCommands : Prop :=
  Claims.RegisterWrites ∧ Claims.RegisterEffects

/-- The counter runs; pulses per second: `CounterRuns` and `PulsePerSecond`. -/
def Obligations.CounterRuns : Prop :=
  Claims.CounterRuns ∧ Claims.PulsePerSecond

/-- Time sources and their selection: `TimeSources` and `SourceOrder`. -/
def Obligations.TimeSources : Prop :=
  Claims.TimeSources ∧ Claims.SourceOrder

/-- How a command starts, fetches and ends: `CommandStarts` and `ParameterFetch` and `StatusRecords`. -/
def Obligations.CommandsStartAndEnd : Prop :=
  Claims.CommandStarts ∧ Claims.ParameterFetch ∧ Claims.StatusRecords

/-- Partitions and programs: `PartitionCommands` and `ProgramCommands`. -/
def Obligations.PartitionsAndPrograms : Prop :=
  Claims.PartitionCommands ∧ Claims.ProgramCommands

/-- Memory commands and solver batches: `MemoryCommands` and `SolverCommands`. -/
def Obligations.MemoryAndSolverCommands : Prop :=
  Claims.MemoryCommands ∧ Claims.SolverCommands

/-- SNAPSHOT and RESTORE: `SnapshotCommands` and `RestoreCommands`. -/
def Obligations.StepImages : Prop :=
  Claims.SnapshotCommands ∧ Claims.RestoreCommands

/-- Mirroring, the loss of a buddy, takeover: `MirrorHeld` and `MirrorKept` and `TakeoverCommands`. -/
def Obligations.BuddyMirroring : Prop :=
  Claims.MirrorHeld ∧ Claims.MirrorKept ∧ Claims.TakeoverCommands

/-- Boot, reset and the I3C port: `BootRows`. -/
def Obligations.BootAndReset : Prop :=
  Claims.BootRows

/-- The coherence protocol: `CoherenceRequests` and `CoherenceEvictions` and `HostCoherence`. -/
def Obligations.Coherence : Prop :=
  Claims.CoherenceRequests ∧ Claims.CoherenceEvictions ∧ Claims.HostCoherence

/-- Fabric requests at their target and their issuer: `FabricTarget` and `FabricIssuer`. -/
def Obligations.FabricRequests : Prop :=
  Claims.FabricTarget ∧ Claims.FabricIssuer
end

