-- ==== Sys2Proof/Laws/Bits.lean ====
section
/-! SUPPORT. Read after write for sparse data and memory, and that every operation keeps the canonical form. -/

namespace Sys2Proof.Machine

variable {α : Type}

@[simp] theorem sget_nil (d : α) (i : Nat) : sget d [] i = d := rfl

theorem sget_sdel_self (d : α) (m : SMap α) (i : Nat) : sget d (sdel m i) i = d := by
  induction m with
  | nil => rfl
  | cons e m ih =>
    obtain ⟨k, v⟩ := e
    unfold sdel at ih ⊢
    by_cases h : k = i <;> simp [sget, h, ih]
    intro h'; exact absurd h'.symm h

theorem sget_sdel_ne (d : α) (m : SMap α) {i j : Nat} (h : j ≠ i) : sget d (sdel m i) j = sget d m j := by
  induction m with
  | nil => rfl
  | cons e m ih =>
    obtain ⟨k, v⟩ := e
    unfold sdel at ih ⊢
    by_cases hk : k = i
    · subst hk; simp [sget, h, ih]
    · simp [sget, hk, ih]

theorem sget_sins_self (d : α) (m : SMap α) (i : Nat) (v : α) : sget d (sins m i v) i = v := by
  induction m with
  | nil => simp [sins, sget]
  | cons e m ih =>
    obtain ⟨k, x⟩ := e
    simp only [sins]
    split
    · simp [sget]
    · split
      · simp [sget]
      · rename_i h1 h2; simp [sget, h2, ih]

theorem sget_sins_ne (d : α) (m : SMap α) {i j : Nat} (v : α) (h : j ≠ i) : sget d (sins m i v) j = sget d m j := by
  induction m with
  | nil => simp [sins, sget, h]
  | cons e m ih =>
    obtain ⟨k, x⟩ := e
    simp only [sins]
    split
    · simp [sget, h]
    · split
      · rename_i h1 h2; subst h2; simp [sget, h]
      · simp [sget, ih]

/-- What was put is read back. -/
@[simp] theorem sget_sput_self [DecidableEq α] (d : α) (m : SMap α) (i : Nat) (v : α) : sget d (sput d m i v) i = v := by
  unfold sput
  split
  · rename_i h; rw [sget_sdel_self, h]
  · exact sget_sins_self d m i v

/-- Every other key reads as before. -/
theorem sget_sput_ne [DecidableEq α] (d : α) (m : SMap α) {i j : Nat} (v : α) (h : j ≠ i) :
    sget d (sput d m i v) j = sget d m j := by
  unfold sput
  split
  · exact sget_sdel_ne d m h
  · exact sget_sins_ne d m v h

/-- Read after write, by key. -/
theorem sget_sput [DecidableEq α] (d : α) (m : SMap α) (i j : Nat) (v : α) :
    sget d (sput d m i v) j = if j = i then v else sget d m j := by
  split
  · rename_i h; subst h; simp
  · rename_i h; exact sget_sput_ne d m v h

/-- Every key of a list is above `k`. -/
def above (k : Nat) (m : SMap α) : Prop := ∀ e ∈ m, k < e.1

theorem swf_cons [DecidableEq α] (d : α) (k : Nat) (v : α) (m : SMap α) :
    swf d ((k, v) :: m) = true ↔ v ≠ d ∧ above k m ∧ swf d m = true := by
  induction m generalizing k v with
  | nil => simp [swf, above]
  | cons e m ih =>
    obtain ⟨k', v'⟩ := e
    have h2 := ih k' v'
    simp only [swf, Bool.and_eq_true, decide_eq_true_eq, bne_iff_ne]
    constructor
    · rintro ⟨h, hk, hw⟩
      refine ⟨h, ?_, hw⟩
      obtain ⟨_, ha, _⟩ := h2.1 hw
      intro e he
      rcases List.mem_cons.1 he with rfl | he
      · exact hk
      · exact Nat.lt_trans hk (ha e he)
    · rintro ⟨h, ha, hw⟩
      exact ⟨h, ha (k', v') (by simp), hw⟩

theorem above_filter {k : Nat} {m : SMap α} (p : Nat × α → Bool) (h : above k m) : above k (m.filter p) :=
  fun e he => h e (List.mem_filter.1 he).1

theorem swf_filter [DecidableEq α] (d : α) (p : Nat × α → Bool) (m : SMap α) (h : swf d m = true) :
    swf d (m.filter p) = true := by
  induction m with
  | nil => rfl
  | cons e m ih =>
    obtain ⟨k, v⟩ := e
    obtain ⟨hv, ha, hw⟩ := (swf_cons d k v m).1 h
    simp only [List.filter_cons]
    split
    · exact (swf_cons d k v _).2 ⟨hv, above_filter p ha, ih hw⟩
    · exact ih hw

theorem above_sins {k i : Nat} {v : α} {m : SMap α} (h : above k m) (hi : k < i) : above k (sins m i v) := by
  induction m with
  | nil => simp [sins, above, hi]
  | cons e m ih =>
    obtain ⟨k', x⟩ := e
    have h1 : k < k' := h (k', x) (by simp)
    have h2 : above k m := fun e he => h e (by simp [he])
    simp only [sins]
    split
    · intro e he
      simp only [List.mem_cons] at he
      rcases he with rfl | rfl | he
      · exact hi
      · exact h1
      · exact h2 e he
    · split
      · intro e he
        rcases List.mem_cons.1 he with rfl | he
        · exact hi
        · exact h2 e he
      · intro e he
        rcases List.mem_cons.1 he with rfl | he
        · exact h1
        · exact ih h2 e he

theorem swf_sins [DecidableEq α] (d : α) (m : SMap α) (i : Nat) (v : α) (hv : v ≠ d) (h : swf d m = true) :
    swf d (sins m i v) = true := by
  induction m with
  | nil => simp [sins, swf, hv]
  | cons e m ih =>
    obtain ⟨k, x⟩ := e
    obtain ⟨hx, ha, hw⟩ := (swf_cons d k x m).1 h
    simp only [sins]
    split
    · rename_i hlt
      refine (swf_cons d i v _).2 ⟨hv, ?_, h⟩
      intro e he
      rcases List.mem_cons.1 he with rfl | he
      · exact hlt
      · exact Nat.lt_trans hlt (ha e he)
    · split
      · rename_i _ he
        subst he
        exact (swf_cons d i v m).2 ⟨hv, ha, hw⟩
      · exact (swf_cons d k x _).2 ⟨hx, above_sins ha (by omega), ih hw⟩

/-- Setting a key keeps the canonical form. -/
theorem swf_sput [DecidableEq α] (d : α) (m : SMap α) (i : Nat) (v : α) (h : swf d m = true) :
    swf d (sput d m i v) = true := by
  unfold sput
  split
  · exact swf_filter d _ m h
  · rename_i hv; exact swf_sins d m i v hv h

/-- Clearing a range keeps the canonical form. -/
theorem swf_sclear [DecidableEq α] (d : α) (m : SMap α) (lo n : Nat) (h : swf d m = true) :
    swf d (sclear m lo n) = true := swf_filter d _ m h

/-! ### Memory -/

@[simp] theorem mget_mput_self (m : Mem) (a : Nat) (b : Byte) : mget (mput m a b) a = b := sget_sput_self 0 m a b

theorem mget_mput_ne (m : Mem) {a j : Nat} (b : Byte) (h : j ≠ a) : mget (mput m a b) j = mget m j :=
  sget_sput_ne 0 m b h

/-- A store changes no byte outside it. -/
theorem mget_mwrite_out (bs : List Byte) (m : Mem) (a j : Nat) (h : j < a ∨ a + bs.length ≤ j) :
    mget (mwrite m a bs) j = mget m j := by
  induction bs generalizing m a with
  | nil => rfl
  | cons b bs ih =>
    simp only [List.length_cons] at h
    rw [mwrite, ih _ _ (by omega), mget_mput_ne _ _ (by omega)]

/-- A store's bytes are read back. -/
theorem mget_mwrite_in (bs : List Byte) (m : Mem) (a i : Nat) (h : i < bs.length) :
    mget (mwrite m a bs) (a + i) = bs[i] := by
  induction bs generalizing m a i with
  | nil => simp at h
  | cons b bs ih =>
    cases i with
    | zero => rw [mwrite, mget_mwrite_out _ _ _ _ (by omega)]; simp
    | succ i =>
      have := ih (mput m a b) (a + 1) i (by simpa using h)
      simpa [mwrite, Nat.add_assoc, Nat.add_comm 1 i] using this

/-- Every memory operation keeps the canonical form. -/
theorem Mem.wf_mput (m : Mem) (a : Nat) (b : Byte) (h : Mem.wf m = true) : Mem.wf (mput m a b) = true := swf_sput 0 m a b h

theorem Mem.wf_mwrite (bs : List Byte) (m : Mem) (a : Nat) (h : Mem.wf m = true) : Mem.wf (mwrite m a bs) = true := by
  induction bs generalizing m a with
  | nil => exact h
  | cons b bs ih => exact ih _ _ (Mem.wf_mput m a b h)

theorem Mem.wf_mstore (m : Mem) (a n v : Nat) (h : Mem.wf m = true) : Mem.wf (mstore m a n v) = true :=
  Mem.wf_mwrite _ m a h

theorem Mem.wf_sclear (m : Mem) (lo n : Nat) (h : Mem.wf m = true) : Mem.wf (sclear m lo n) = true :=
  swf_sclear (0 : Byte) m lo n h

end Sys2Proof.Machine
end

