-- ==== Sys2Proof/Laws/State.lean ====
section
/-! SUPPORT. Field by update: each way in to the state, and every field it does not write. Below them, what each way out
reads after each way in. -/

namespace Sys2Proof.Machine

/-! ### setQueue writes queues alone -/

@[simp] theorem State.setQueue_pending (s : State) (q : Nat) (v : Queue) : (s.setQueue q v).pending = s.pending := rfl
@[simp] theorem State.setQueue_free (s : State) (q : Nat) (v : Queue) : (s.setQueue q v).free = s.free := rfl
@[simp] theorem State.setQueue_out (s : State) (q : Nat) (v : Queue) : (s.setQueue q v).out = s.out := rfl
@[simp] theorem State.setQueue_regs (s : State) (q : Nat) (v : Queue) : (s.setQueue q v).regs = s.regs := rfl
@[simp] theorem State.setQueue_time (s : State) (q : Nat) (v : Queue) : (s.setQueue q v).time = s.time := rfl
@[simp] theorem State.setQueue_sched (s : State) (q : Nat) (v : Queue) : (s.setQueue q v).sched = s.sched := rfl
@[simp] theorem State.setQueue_fired (s : State) (q : Nat) (v : Queue) : (s.setQueue q v).fired = s.fired := rfl
@[simp] theorem State.setQueue_handles (s : State) (q : Nat) (v : Queue) : (s.setQueue q v).handles = s.handles := rfl
@[simp] theorem State.setQueue_ctl (s : State) (q : Nat) (v : Queue) : (s.setQueue q v).ctl = s.ctl := rfl
@[simp] theorem State.setQueue_tiles (s : State) (q : Nat) (v : Queue) : (s.setQueue q v).tiles = s.tiles := rfl
@[simp] theorem State.setQueue_parts (s : State) (q : Nat) (v : Queue) : (s.setQueue q v).parts = s.parts := rfl
@[simp] theorem State.setQueue_cores (s : State) (q : Nat) (v : Queue) : (s.setQueue q v).cores = s.cores := rfl
@[simp] theorem State.setQueue_cache (s : State) (q : Nat) (v : Queue) : (s.setQueue q v).cache = s.cache := rfl
@[simp] theorem State.setQueue_hbm (s : State) (q : Nat) (v : Queue) : (s.setQueue q v).hbm = s.hbm := rfl
@[simp] theorem State.setQueue_retA (s : State) (q : Nat) (v : Queue) : (s.setQueue q v).retA = s.retA := rfl
@[simp] theorem State.setQueue_retB (s : State) (q : Nat) (v : Queue) : (s.setQueue q v).retB = s.retB := rfl
@[simp] theorem State.setQueue_fab (s : State) (q : Nat) (v : Queue) : (s.setQueue q v).fab = s.fab := rfl
@[simp] theorem State.setQueue_colls (s : State) (q : Nat) (v : Queue) : (s.setQueue q v).colls = s.colls := rfl
@[simp] theorem State.setQueue_batches (s : State) (q : Nat) (v : Queue) : (s.setQueue q v).batches = s.batches := rfl
@[simp] theorem State.setQueue_ckpt (s : State) (q : Nat) (v : Queue) : (s.setQueue q v).ckpt = s.ckpt := rfl
@[simp] theorem State.setQueue_digs (s : State) (q : Nat) (v : Queue) : (s.setQueue q v).digs = s.digs := rfl
@[simp] theorem State.setQueue_digRun (s : State) (q : Nat) (v : Queue) : (s.setQueue q v).digRun = s.digRun := rfl
@[simp] theorem State.setQueue_ras (s : State) (q : Nat) (v : Queue) : (s.setQueue q v).ras = s.ras := rfl
@[simp] theorem State.setQueue_pwr (s : State) (q : Nat) (v : Queue) : (s.setQueue q v).pwr = s.pwr := rfl
@[simp] theorem State.setQueue_boot (s : State) (q : Nat) (v : Queue) : (s.setQueue q v).boot = s.boot := rfl
@[simp] theorem State.setQueue_pins (s : State) (q : Nat) (v : Queue) : (s.setQueue q v).pins = s.pins := rfl
@[simp] theorem State.setQueue_jtag (s : State) (q : Nat) (v : Queue) : (s.setQueue q v).jtag = s.jtag := rfl
@[simp] theorem State.setQueue_i3cAddr (s : State) (q : Nat) (v : Queue) : (s.setQueue q v).i3cAddr = s.i3cAddr := rfl

/-! ### modQueue writes queues alone -/

@[simp] theorem State.modQueue_pending (s : State) (q : Nat) (f : Queue → Queue) : (s.modQueue q f).pending = s.pending := rfl
@[simp] theorem State.modQueue_free (s : State) (q : Nat) (f : Queue → Queue) : (s.modQueue q f).free = s.free := rfl
@[simp] theorem State.modQueue_out (s : State) (q : Nat) (f : Queue → Queue) : (s.modQueue q f).out = s.out := rfl
@[simp] theorem State.modQueue_regs (s : State) (q : Nat) (f : Queue → Queue) : (s.modQueue q f).regs = s.regs := rfl
@[simp] theorem State.modQueue_time (s : State) (q : Nat) (f : Queue → Queue) : (s.modQueue q f).time = s.time := rfl
@[simp] theorem State.modQueue_sched (s : State) (q : Nat) (f : Queue → Queue) : (s.modQueue q f).sched = s.sched := rfl
@[simp] theorem State.modQueue_fired (s : State) (q : Nat) (f : Queue → Queue) : (s.modQueue q f).fired = s.fired := rfl
@[simp] theorem State.modQueue_handles (s : State) (q : Nat) (f : Queue → Queue) : (s.modQueue q f).handles = s.handles := rfl
@[simp] theorem State.modQueue_ctl (s : State) (q : Nat) (f : Queue → Queue) : (s.modQueue q f).ctl = s.ctl := rfl
@[simp] theorem State.modQueue_tiles (s : State) (q : Nat) (f : Queue → Queue) : (s.modQueue q f).tiles = s.tiles := rfl
@[simp] theorem State.modQueue_parts (s : State) (q : Nat) (f : Queue → Queue) : (s.modQueue q f).parts = s.parts := rfl
@[simp] theorem State.modQueue_cores (s : State) (q : Nat) (f : Queue → Queue) : (s.modQueue q f).cores = s.cores := rfl
@[simp] theorem State.modQueue_cache (s : State) (q : Nat) (f : Queue → Queue) : (s.modQueue q f).cache = s.cache := rfl
@[simp] theorem State.modQueue_hbm (s : State) (q : Nat) (f : Queue → Queue) : (s.modQueue q f).hbm = s.hbm := rfl
@[simp] theorem State.modQueue_retA (s : State) (q : Nat) (f : Queue → Queue) : (s.modQueue q f).retA = s.retA := rfl
@[simp] theorem State.modQueue_retB (s : State) (q : Nat) (f : Queue → Queue) : (s.modQueue q f).retB = s.retB := rfl
@[simp] theorem State.modQueue_fab (s : State) (q : Nat) (f : Queue → Queue) : (s.modQueue q f).fab = s.fab := rfl
@[simp] theorem State.modQueue_colls (s : State) (q : Nat) (f : Queue → Queue) : (s.modQueue q f).colls = s.colls := rfl
@[simp] theorem State.modQueue_batches (s : State) (q : Nat) (f : Queue → Queue) : (s.modQueue q f).batches = s.batches := rfl
@[simp] theorem State.modQueue_ckpt (s : State) (q : Nat) (f : Queue → Queue) : (s.modQueue q f).ckpt = s.ckpt := rfl
@[simp] theorem State.modQueue_digs (s : State) (q : Nat) (f : Queue → Queue) : (s.modQueue q f).digs = s.digs := rfl
@[simp] theorem State.modQueue_digRun (s : State) (q : Nat) (f : Queue → Queue) : (s.modQueue q f).digRun = s.digRun := rfl
@[simp] theorem State.modQueue_ras (s : State) (q : Nat) (f : Queue → Queue) : (s.modQueue q f).ras = s.ras := rfl
@[simp] theorem State.modQueue_pwr (s : State) (q : Nat) (f : Queue → Queue) : (s.modQueue q f).pwr = s.pwr := rfl
@[simp] theorem State.modQueue_boot (s : State) (q : Nat) (f : Queue → Queue) : (s.modQueue q f).boot = s.boot := rfl
@[simp] theorem State.modQueue_pins (s : State) (q : Nat) (f : Queue → Queue) : (s.modQueue q f).pins = s.pins := rfl
@[simp] theorem State.modQueue_jtag (s : State) (q : Nat) (f : Queue → Queue) : (s.modQueue q f).jtag = s.jtag := rfl
@[simp] theorem State.modQueue_i3cAddr (s : State) (q : Nat) (f : Queue → Queue) : (s.modQueue q f).i3cAddr = s.i3cAddr := rfl

/-! ### setTile writes tiles alone -/

@[simp] theorem State.setTile_pending (s : State) (k : Nat) (v : Tile) : (s.setTile k v).pending = s.pending := rfl
@[simp] theorem State.setTile_free (s : State) (k : Nat) (v : Tile) : (s.setTile k v).free = s.free := rfl
@[simp] theorem State.setTile_out (s : State) (k : Nat) (v : Tile) : (s.setTile k v).out = s.out := rfl
@[simp] theorem State.setTile_regs (s : State) (k : Nat) (v : Tile) : (s.setTile k v).regs = s.regs := rfl
@[simp] theorem State.setTile_time (s : State) (k : Nat) (v : Tile) : (s.setTile k v).time = s.time := rfl
@[simp] theorem State.setTile_sched (s : State) (k : Nat) (v : Tile) : (s.setTile k v).sched = s.sched := rfl
@[simp] theorem State.setTile_fired (s : State) (k : Nat) (v : Tile) : (s.setTile k v).fired = s.fired := rfl
@[simp] theorem State.setTile_queues (s : State) (k : Nat) (v : Tile) : (s.setTile k v).queues = s.queues := rfl
@[simp] theorem State.setTile_handles (s : State) (k : Nat) (v : Tile) : (s.setTile k v).handles = s.handles := rfl
@[simp] theorem State.setTile_ctl (s : State) (k : Nat) (v : Tile) : (s.setTile k v).ctl = s.ctl := rfl
@[simp] theorem State.setTile_parts (s : State) (k : Nat) (v : Tile) : (s.setTile k v).parts = s.parts := rfl
@[simp] theorem State.setTile_cores (s : State) (k : Nat) (v : Tile) : (s.setTile k v).cores = s.cores := rfl
@[simp] theorem State.setTile_cache (s : State) (k : Nat) (v : Tile) : (s.setTile k v).cache = s.cache := rfl
@[simp] theorem State.setTile_hbm (s : State) (k : Nat) (v : Tile) : (s.setTile k v).hbm = s.hbm := rfl
@[simp] theorem State.setTile_retA (s : State) (k : Nat) (v : Tile) : (s.setTile k v).retA = s.retA := rfl
@[simp] theorem State.setTile_retB (s : State) (k : Nat) (v : Tile) : (s.setTile k v).retB = s.retB := rfl
@[simp] theorem State.setTile_fab (s : State) (k : Nat) (v : Tile) : (s.setTile k v).fab = s.fab := rfl
@[simp] theorem State.setTile_colls (s : State) (k : Nat) (v : Tile) : (s.setTile k v).colls = s.colls := rfl
@[simp] theorem State.setTile_batches (s : State) (k : Nat) (v : Tile) : (s.setTile k v).batches = s.batches := rfl
@[simp] theorem State.setTile_ckpt (s : State) (k : Nat) (v : Tile) : (s.setTile k v).ckpt = s.ckpt := rfl
@[simp] theorem State.setTile_digs (s : State) (k : Nat) (v : Tile) : (s.setTile k v).digs = s.digs := rfl
@[simp] theorem State.setTile_digRun (s : State) (k : Nat) (v : Tile) : (s.setTile k v).digRun = s.digRun := rfl
@[simp] theorem State.setTile_ras (s : State) (k : Nat) (v : Tile) : (s.setTile k v).ras = s.ras := rfl
@[simp] theorem State.setTile_pwr (s : State) (k : Nat) (v : Tile) : (s.setTile k v).pwr = s.pwr := rfl
@[simp] theorem State.setTile_boot (s : State) (k : Nat) (v : Tile) : (s.setTile k v).boot = s.boot := rfl
@[simp] theorem State.setTile_pins (s : State) (k : Nat) (v : Tile) : (s.setTile k v).pins = s.pins := rfl
@[simp] theorem State.setTile_jtag (s : State) (k : Nat) (v : Tile) : (s.setTile k v).jtag = s.jtag := rfl
@[simp] theorem State.setTile_i3cAddr (s : State) (k : Nat) (v : Tile) : (s.setTile k v).i3cAddr = s.i3cAddr := rfl

/-! ### modTile writes tiles alone -/

@[simp] theorem State.modTile_pending (s : State) (k : Nat) (f : Tile → Tile) : (s.modTile k f).pending = s.pending := rfl
@[simp] theorem State.modTile_free (s : State) (k : Nat) (f : Tile → Tile) : (s.modTile k f).free = s.free := rfl
@[simp] theorem State.modTile_out (s : State) (k : Nat) (f : Tile → Tile) : (s.modTile k f).out = s.out := rfl
@[simp] theorem State.modTile_regs (s : State) (k : Nat) (f : Tile → Tile) : (s.modTile k f).regs = s.regs := rfl
@[simp] theorem State.modTile_time (s : State) (k : Nat) (f : Tile → Tile) : (s.modTile k f).time = s.time := rfl
@[simp] theorem State.modTile_sched (s : State) (k : Nat) (f : Tile → Tile) : (s.modTile k f).sched = s.sched := rfl
@[simp] theorem State.modTile_fired (s : State) (k : Nat) (f : Tile → Tile) : (s.modTile k f).fired = s.fired := rfl
@[simp] theorem State.modTile_queues (s : State) (k : Nat) (f : Tile → Tile) : (s.modTile k f).queues = s.queues := rfl
@[simp] theorem State.modTile_handles (s : State) (k : Nat) (f : Tile → Tile) : (s.modTile k f).handles = s.handles := rfl
@[simp] theorem State.modTile_ctl (s : State) (k : Nat) (f : Tile → Tile) : (s.modTile k f).ctl = s.ctl := rfl
@[simp] theorem State.modTile_parts (s : State) (k : Nat) (f : Tile → Tile) : (s.modTile k f).parts = s.parts := rfl
@[simp] theorem State.modTile_cores (s : State) (k : Nat) (f : Tile → Tile) : (s.modTile k f).cores = s.cores := rfl
@[simp] theorem State.modTile_cache (s : State) (k : Nat) (f : Tile → Tile) : (s.modTile k f).cache = s.cache := rfl
@[simp] theorem State.modTile_hbm (s : State) (k : Nat) (f : Tile → Tile) : (s.modTile k f).hbm = s.hbm := rfl
@[simp] theorem State.modTile_retA (s : State) (k : Nat) (f : Tile → Tile) : (s.modTile k f).retA = s.retA := rfl
@[simp] theorem State.modTile_retB (s : State) (k : Nat) (f : Tile → Tile) : (s.modTile k f).retB = s.retB := rfl
@[simp] theorem State.modTile_fab (s : State) (k : Nat) (f : Tile → Tile) : (s.modTile k f).fab = s.fab := rfl
@[simp] theorem State.modTile_colls (s : State) (k : Nat) (f : Tile → Tile) : (s.modTile k f).colls = s.colls := rfl
@[simp] theorem State.modTile_batches (s : State) (k : Nat) (f : Tile → Tile) : (s.modTile k f).batches = s.batches := rfl
@[simp] theorem State.modTile_ckpt (s : State) (k : Nat) (f : Tile → Tile) : (s.modTile k f).ckpt = s.ckpt := rfl
@[simp] theorem State.modTile_digs (s : State) (k : Nat) (f : Tile → Tile) : (s.modTile k f).digs = s.digs := rfl
@[simp] theorem State.modTile_digRun (s : State) (k : Nat) (f : Tile → Tile) : (s.modTile k f).digRun = s.digRun := rfl
@[simp] theorem State.modTile_ras (s : State) (k : Nat) (f : Tile → Tile) : (s.modTile k f).ras = s.ras := rfl
@[simp] theorem State.modTile_pwr (s : State) (k : Nat) (f : Tile → Tile) : (s.modTile k f).pwr = s.pwr := rfl
@[simp] theorem State.modTile_boot (s : State) (k : Nat) (f : Tile → Tile) : (s.modTile k f).boot = s.boot := rfl
@[simp] theorem State.modTile_pins (s : State) (k : Nat) (f : Tile → Tile) : (s.modTile k f).pins = s.pins := rfl
@[simp] theorem State.modTile_jtag (s : State) (k : Nat) (f : Tile → Tile) : (s.modTile k f).jtag = s.jtag := rfl
@[simp] theorem State.modTile_i3cAddr (s : State) (k : Nat) (f : Tile → Tile) : (s.modTile k f).i3cAddr = s.i3cAddr := rfl

/-! ### setPart writes parts alone -/

@[simp] theorem State.setPart_pending (s : State) (p : Nat) (v : Part) : (s.setPart p v).pending = s.pending := rfl
@[simp] theorem State.setPart_free (s : State) (p : Nat) (v : Part) : (s.setPart p v).free = s.free := rfl
@[simp] theorem State.setPart_out (s : State) (p : Nat) (v : Part) : (s.setPart p v).out = s.out := rfl
@[simp] theorem State.setPart_regs (s : State) (p : Nat) (v : Part) : (s.setPart p v).regs = s.regs := rfl
@[simp] theorem State.setPart_time (s : State) (p : Nat) (v : Part) : (s.setPart p v).time = s.time := rfl
@[simp] theorem State.setPart_sched (s : State) (p : Nat) (v : Part) : (s.setPart p v).sched = s.sched := rfl
@[simp] theorem State.setPart_fired (s : State) (p : Nat) (v : Part) : (s.setPart p v).fired = s.fired := rfl
@[simp] theorem State.setPart_queues (s : State) (p : Nat) (v : Part) : (s.setPart p v).queues = s.queues := rfl
@[simp] theorem State.setPart_handles (s : State) (p : Nat) (v : Part) : (s.setPart p v).handles = s.handles := rfl
@[simp] theorem State.setPart_ctl (s : State) (p : Nat) (v : Part) : (s.setPart p v).ctl = s.ctl := rfl
@[simp] theorem State.setPart_tiles (s : State) (p : Nat) (v : Part) : (s.setPart p v).tiles = s.tiles := rfl
@[simp] theorem State.setPart_cores (s : State) (p : Nat) (v : Part) : (s.setPart p v).cores = s.cores := rfl
@[simp] theorem State.setPart_cache (s : State) (p : Nat) (v : Part) : (s.setPart p v).cache = s.cache := rfl
@[simp] theorem State.setPart_hbm (s : State) (p : Nat) (v : Part) : (s.setPart p v).hbm = s.hbm := rfl
@[simp] theorem State.setPart_retA (s : State) (p : Nat) (v : Part) : (s.setPart p v).retA = s.retA := rfl
@[simp] theorem State.setPart_retB (s : State) (p : Nat) (v : Part) : (s.setPart p v).retB = s.retB := rfl
@[simp] theorem State.setPart_fab (s : State) (p : Nat) (v : Part) : (s.setPart p v).fab = s.fab := rfl
@[simp] theorem State.setPart_colls (s : State) (p : Nat) (v : Part) : (s.setPart p v).colls = s.colls := rfl
@[simp] theorem State.setPart_batches (s : State) (p : Nat) (v : Part) : (s.setPart p v).batches = s.batches := rfl
@[simp] theorem State.setPart_ckpt (s : State) (p : Nat) (v : Part) : (s.setPart p v).ckpt = s.ckpt := rfl
@[simp] theorem State.setPart_digs (s : State) (p : Nat) (v : Part) : (s.setPart p v).digs = s.digs := rfl
@[simp] theorem State.setPart_digRun (s : State) (p : Nat) (v : Part) : (s.setPart p v).digRun = s.digRun := rfl
@[simp] theorem State.setPart_ras (s : State) (p : Nat) (v : Part) : (s.setPart p v).ras = s.ras := rfl
@[simp] theorem State.setPart_pwr (s : State) (p : Nat) (v : Part) : (s.setPart p v).pwr = s.pwr := rfl
@[simp] theorem State.setPart_boot (s : State) (p : Nat) (v : Part) : (s.setPart p v).boot = s.boot := rfl
@[simp] theorem State.setPart_pins (s : State) (p : Nat) (v : Part) : (s.setPart p v).pins = s.pins := rfl
@[simp] theorem State.setPart_jtag (s : State) (p : Nat) (v : Part) : (s.setPart p v).jtag = s.jtag := rfl
@[simp] theorem State.setPart_i3cAddr (s : State) (p : Nat) (v : Part) : (s.setPart p v).i3cAddr = s.i3cAddr := rfl

/-! ### modPart writes parts alone -/

@[simp] theorem State.modPart_pending (s : State) (p : Nat) (f : Part → Part) : (s.modPart p f).pending = s.pending := rfl
@[simp] theorem State.modPart_free (s : State) (p : Nat) (f : Part → Part) : (s.modPart p f).free = s.free := rfl
@[simp] theorem State.modPart_out (s : State) (p : Nat) (f : Part → Part) : (s.modPart p f).out = s.out := rfl
@[simp] theorem State.modPart_regs (s : State) (p : Nat) (f : Part → Part) : (s.modPart p f).regs = s.regs := rfl
@[simp] theorem State.modPart_time (s : State) (p : Nat) (f : Part → Part) : (s.modPart p f).time = s.time := rfl
@[simp] theorem State.modPart_sched (s : State) (p : Nat) (f : Part → Part) : (s.modPart p f).sched = s.sched := rfl
@[simp] theorem State.modPart_fired (s : State) (p : Nat) (f : Part → Part) : (s.modPart p f).fired = s.fired := rfl
@[simp] theorem State.modPart_queues (s : State) (p : Nat) (f : Part → Part) : (s.modPart p f).queues = s.queues := rfl
@[simp] theorem State.modPart_handles (s : State) (p : Nat) (f : Part → Part) : (s.modPart p f).handles = s.handles := rfl
@[simp] theorem State.modPart_ctl (s : State) (p : Nat) (f : Part → Part) : (s.modPart p f).ctl = s.ctl := rfl
@[simp] theorem State.modPart_tiles (s : State) (p : Nat) (f : Part → Part) : (s.modPart p f).tiles = s.tiles := rfl
@[simp] theorem State.modPart_cores (s : State) (p : Nat) (f : Part → Part) : (s.modPart p f).cores = s.cores := rfl
@[simp] theorem State.modPart_cache (s : State) (p : Nat) (f : Part → Part) : (s.modPart p f).cache = s.cache := rfl
@[simp] theorem State.modPart_hbm (s : State) (p : Nat) (f : Part → Part) : (s.modPart p f).hbm = s.hbm := rfl
@[simp] theorem State.modPart_retA (s : State) (p : Nat) (f : Part → Part) : (s.modPart p f).retA = s.retA := rfl
@[simp] theorem State.modPart_retB (s : State) (p : Nat) (f : Part → Part) : (s.modPart p f).retB = s.retB := rfl
@[simp] theorem State.modPart_fab (s : State) (p : Nat) (f : Part → Part) : (s.modPart p f).fab = s.fab := rfl
@[simp] theorem State.modPart_colls (s : State) (p : Nat) (f : Part → Part) : (s.modPart p f).colls = s.colls := rfl
@[simp] theorem State.modPart_batches (s : State) (p : Nat) (f : Part → Part) : (s.modPart p f).batches = s.batches := rfl
@[simp] theorem State.modPart_ckpt (s : State) (p : Nat) (f : Part → Part) : (s.modPart p f).ckpt = s.ckpt := rfl
@[simp] theorem State.modPart_digs (s : State) (p : Nat) (f : Part → Part) : (s.modPart p f).digs = s.digs := rfl
@[simp] theorem State.modPart_digRun (s : State) (p : Nat) (f : Part → Part) : (s.modPart p f).digRun = s.digRun := rfl
@[simp] theorem State.modPart_ras (s : State) (p : Nat) (f : Part → Part) : (s.modPart p f).ras = s.ras := rfl
@[simp] theorem State.modPart_pwr (s : State) (p : Nat) (f : Part → Part) : (s.modPart p f).pwr = s.pwr := rfl
@[simp] theorem State.modPart_boot (s : State) (p : Nat) (f : Part → Part) : (s.modPart p f).boot = s.boot := rfl
@[simp] theorem State.modPart_pins (s : State) (p : Nat) (f : Part → Part) : (s.modPart p f).pins = s.pins := rfl
@[simp] theorem State.modPart_jtag (s : State) (p : Nat) (f : Part → Part) : (s.modPart p f).jtag = s.jtag := rfl
@[simp] theorem State.modPart_i3cAddr (s : State) (p : Nat) (f : Part → Part) : (s.modPart p f).i3cAddr = s.i3cAddr := rfl

/-! ### setCore writes cores alone -/

@[simp] theorem State.setCore_pending (s : State) (c : Nat) (v : Cpu) : (s.setCore c v).pending = s.pending := rfl
@[simp] theorem State.setCore_free (s : State) (c : Nat) (v : Cpu) : (s.setCore c v).free = s.free := rfl
@[simp] theorem State.setCore_out (s : State) (c : Nat) (v : Cpu) : (s.setCore c v).out = s.out := rfl
@[simp] theorem State.setCore_regs (s : State) (c : Nat) (v : Cpu) : (s.setCore c v).regs = s.regs := rfl
@[simp] theorem State.setCore_time (s : State) (c : Nat) (v : Cpu) : (s.setCore c v).time = s.time := rfl
@[simp] theorem State.setCore_sched (s : State) (c : Nat) (v : Cpu) : (s.setCore c v).sched = s.sched := rfl
@[simp] theorem State.setCore_fired (s : State) (c : Nat) (v : Cpu) : (s.setCore c v).fired = s.fired := rfl
@[simp] theorem State.setCore_queues (s : State) (c : Nat) (v : Cpu) : (s.setCore c v).queues = s.queues := rfl
@[simp] theorem State.setCore_handles (s : State) (c : Nat) (v : Cpu) : (s.setCore c v).handles = s.handles := rfl
@[simp] theorem State.setCore_ctl (s : State) (c : Nat) (v : Cpu) : (s.setCore c v).ctl = s.ctl := rfl
@[simp] theorem State.setCore_tiles (s : State) (c : Nat) (v : Cpu) : (s.setCore c v).tiles = s.tiles := rfl
@[simp] theorem State.setCore_parts (s : State) (c : Nat) (v : Cpu) : (s.setCore c v).parts = s.parts := rfl
@[simp] theorem State.setCore_cache (s : State) (c : Nat) (v : Cpu) : (s.setCore c v).cache = s.cache := rfl
@[simp] theorem State.setCore_hbm (s : State) (c : Nat) (v : Cpu) : (s.setCore c v).hbm = s.hbm := rfl
@[simp] theorem State.setCore_retA (s : State) (c : Nat) (v : Cpu) : (s.setCore c v).retA = s.retA := rfl
@[simp] theorem State.setCore_retB (s : State) (c : Nat) (v : Cpu) : (s.setCore c v).retB = s.retB := rfl
@[simp] theorem State.setCore_fab (s : State) (c : Nat) (v : Cpu) : (s.setCore c v).fab = s.fab := rfl
@[simp] theorem State.setCore_colls (s : State) (c : Nat) (v : Cpu) : (s.setCore c v).colls = s.colls := rfl
@[simp] theorem State.setCore_batches (s : State) (c : Nat) (v : Cpu) : (s.setCore c v).batches = s.batches := rfl
@[simp] theorem State.setCore_ckpt (s : State) (c : Nat) (v : Cpu) : (s.setCore c v).ckpt = s.ckpt := rfl
@[simp] theorem State.setCore_digs (s : State) (c : Nat) (v : Cpu) : (s.setCore c v).digs = s.digs := rfl
@[simp] theorem State.setCore_digRun (s : State) (c : Nat) (v : Cpu) : (s.setCore c v).digRun = s.digRun := rfl
@[simp] theorem State.setCore_ras (s : State) (c : Nat) (v : Cpu) : (s.setCore c v).ras = s.ras := rfl
@[simp] theorem State.setCore_pwr (s : State) (c : Nat) (v : Cpu) : (s.setCore c v).pwr = s.pwr := rfl
@[simp] theorem State.setCore_boot (s : State) (c : Nat) (v : Cpu) : (s.setCore c v).boot = s.boot := rfl
@[simp] theorem State.setCore_pins (s : State) (c : Nat) (v : Cpu) : (s.setCore c v).pins = s.pins := rfl
@[simp] theorem State.setCore_jtag (s : State) (c : Nat) (v : Cpu) : (s.setCore c v).jtag = s.jtag := rfl
@[simp] theorem State.setCore_i3cAddr (s : State) (c : Nat) (v : Cpu) : (s.setCore c v).i3cAddr = s.i3cAddr := rfl

/-! ### modCore writes cores alone -/

@[simp] theorem State.modCore_pending (s : State) (c : Nat) (f : Cpu → Cpu) : (s.modCore c f).pending = s.pending := rfl
@[simp] theorem State.modCore_free (s : State) (c : Nat) (f : Cpu → Cpu) : (s.modCore c f).free = s.free := rfl
@[simp] theorem State.modCore_out (s : State) (c : Nat) (f : Cpu → Cpu) : (s.modCore c f).out = s.out := rfl
@[simp] theorem State.modCore_regs (s : State) (c : Nat) (f : Cpu → Cpu) : (s.modCore c f).regs = s.regs := rfl
@[simp] theorem State.modCore_time (s : State) (c : Nat) (f : Cpu → Cpu) : (s.modCore c f).time = s.time := rfl
@[simp] theorem State.modCore_sched (s : State) (c : Nat) (f : Cpu → Cpu) : (s.modCore c f).sched = s.sched := rfl
@[simp] theorem State.modCore_fired (s : State) (c : Nat) (f : Cpu → Cpu) : (s.modCore c f).fired = s.fired := rfl
@[simp] theorem State.modCore_queues (s : State) (c : Nat) (f : Cpu → Cpu) : (s.modCore c f).queues = s.queues := rfl
@[simp] theorem State.modCore_handles (s : State) (c : Nat) (f : Cpu → Cpu) : (s.modCore c f).handles = s.handles := rfl
@[simp] theorem State.modCore_ctl (s : State) (c : Nat) (f : Cpu → Cpu) : (s.modCore c f).ctl = s.ctl := rfl
@[simp] theorem State.modCore_tiles (s : State) (c : Nat) (f : Cpu → Cpu) : (s.modCore c f).tiles = s.tiles := rfl
@[simp] theorem State.modCore_parts (s : State) (c : Nat) (f : Cpu → Cpu) : (s.modCore c f).parts = s.parts := rfl
@[simp] theorem State.modCore_cache (s : State) (c : Nat) (f : Cpu → Cpu) : (s.modCore c f).cache = s.cache := rfl
@[simp] theorem State.modCore_hbm (s : State) (c : Nat) (f : Cpu → Cpu) : (s.modCore c f).hbm = s.hbm := rfl
@[simp] theorem State.modCore_retA (s : State) (c : Nat) (f : Cpu → Cpu) : (s.modCore c f).retA = s.retA := rfl
@[simp] theorem State.modCore_retB (s : State) (c : Nat) (f : Cpu → Cpu) : (s.modCore c f).retB = s.retB := rfl
@[simp] theorem State.modCore_fab (s : State) (c : Nat) (f : Cpu → Cpu) : (s.modCore c f).fab = s.fab := rfl
@[simp] theorem State.modCore_colls (s : State) (c : Nat) (f : Cpu → Cpu) : (s.modCore c f).colls = s.colls := rfl
@[simp] theorem State.modCore_batches (s : State) (c : Nat) (f : Cpu → Cpu) : (s.modCore c f).batches = s.batches := rfl
@[simp] theorem State.modCore_ckpt (s : State) (c : Nat) (f : Cpu → Cpu) : (s.modCore c f).ckpt = s.ckpt := rfl
@[simp] theorem State.modCore_digs (s : State) (c : Nat) (f : Cpu → Cpu) : (s.modCore c f).digs = s.digs := rfl
@[simp] theorem State.modCore_digRun (s : State) (c : Nat) (f : Cpu → Cpu) : (s.modCore c f).digRun = s.digRun := rfl
@[simp] theorem State.modCore_ras (s : State) (c : Nat) (f : Cpu → Cpu) : (s.modCore c f).ras = s.ras := rfl
@[simp] theorem State.modCore_pwr (s : State) (c : Nat) (f : Cpu → Cpu) : (s.modCore c f).pwr = s.pwr := rfl
@[simp] theorem State.modCore_boot (s : State) (c : Nat) (f : Cpu → Cpu) : (s.modCore c f).boot = s.boot := rfl
@[simp] theorem State.modCore_pins (s : State) (c : Nat) (f : Cpu → Cpu) : (s.modCore c f).pins = s.pins := rfl
@[simp] theorem State.modCore_jtag (s : State) (c : Nat) (f : Cpu → Cpu) : (s.modCore c f).jtag = s.jtag := rfl
@[simp] theorem State.modCore_i3cAddr (s : State) (c : Nat) (f : Cpu → Cpu) : (s.modCore c f).i3cAddr = s.i3cAddr := rfl

/-! ### setHslot writes handles alone -/

@[simp] theorem State.setHslot_pending (s : State) (i : Nat) (v : HRec) : (s.setHslot i v).pending = s.pending := rfl
@[simp] theorem State.setHslot_free (s : State) (i : Nat) (v : HRec) : (s.setHslot i v).free = s.free := rfl
@[simp] theorem State.setHslot_out (s : State) (i : Nat) (v : HRec) : (s.setHslot i v).out = s.out := rfl
@[simp] theorem State.setHslot_regs (s : State) (i : Nat) (v : HRec) : (s.setHslot i v).regs = s.regs := rfl
@[simp] theorem State.setHslot_time (s : State) (i : Nat) (v : HRec) : (s.setHslot i v).time = s.time := rfl
@[simp] theorem State.setHslot_sched (s : State) (i : Nat) (v : HRec) : (s.setHslot i v).sched = s.sched := rfl
@[simp] theorem State.setHslot_fired (s : State) (i : Nat) (v : HRec) : (s.setHslot i v).fired = s.fired := rfl
@[simp] theorem State.setHslot_queues (s : State) (i : Nat) (v : HRec) : (s.setHslot i v).queues = s.queues := rfl
@[simp] theorem State.setHslot_ctl (s : State) (i : Nat) (v : HRec) : (s.setHslot i v).ctl = s.ctl := rfl
@[simp] theorem State.setHslot_tiles (s : State) (i : Nat) (v : HRec) : (s.setHslot i v).tiles = s.tiles := rfl
@[simp] theorem State.setHslot_parts (s : State) (i : Nat) (v : HRec) : (s.setHslot i v).parts = s.parts := rfl
@[simp] theorem State.setHslot_cores (s : State) (i : Nat) (v : HRec) : (s.setHslot i v).cores = s.cores := rfl
@[simp] theorem State.setHslot_cache (s : State) (i : Nat) (v : HRec) : (s.setHslot i v).cache = s.cache := rfl
@[simp] theorem State.setHslot_hbm (s : State) (i : Nat) (v : HRec) : (s.setHslot i v).hbm = s.hbm := rfl
@[simp] theorem State.setHslot_retA (s : State) (i : Nat) (v : HRec) : (s.setHslot i v).retA = s.retA := rfl
@[simp] theorem State.setHslot_retB (s : State) (i : Nat) (v : HRec) : (s.setHslot i v).retB = s.retB := rfl
@[simp] theorem State.setHslot_fab (s : State) (i : Nat) (v : HRec) : (s.setHslot i v).fab = s.fab := rfl
@[simp] theorem State.setHslot_colls (s : State) (i : Nat) (v : HRec) : (s.setHslot i v).colls = s.colls := rfl
@[simp] theorem State.setHslot_batches (s : State) (i : Nat) (v : HRec) : (s.setHslot i v).batches = s.batches := rfl
@[simp] theorem State.setHslot_ckpt (s : State) (i : Nat) (v : HRec) : (s.setHslot i v).ckpt = s.ckpt := rfl
@[simp] theorem State.setHslot_digs (s : State) (i : Nat) (v : HRec) : (s.setHslot i v).digs = s.digs := rfl
@[simp] theorem State.setHslot_digRun (s : State) (i : Nat) (v : HRec) : (s.setHslot i v).digRun = s.digRun := rfl
@[simp] theorem State.setHslot_ras (s : State) (i : Nat) (v : HRec) : (s.setHslot i v).ras = s.ras := rfl
@[simp] theorem State.setHslot_pwr (s : State) (i : Nat) (v : HRec) : (s.setHslot i v).pwr = s.pwr := rfl
@[simp] theorem State.setHslot_boot (s : State) (i : Nat) (v : HRec) : (s.setHslot i v).boot = s.boot := rfl
@[simp] theorem State.setHslot_pins (s : State) (i : Nat) (v : HRec) : (s.setHslot i v).pins = s.pins := rfl
@[simp] theorem State.setHslot_jtag (s : State) (i : Nat) (v : HRec) : (s.setHslot i v).jtag = s.jtag := rfl
@[simp] theorem State.setHslot_i3cAddr (s : State) (i : Nat) (v : HRec) : (s.setHslot i v).i3cAddr = s.i3cAddr := rfl

/-! ### setColl writes colls alone -/

@[simp] theorem State.setColl_pending (s : State) (c : Nat) (v : Coll) : (s.setColl c v).pending = s.pending := rfl
@[simp] theorem State.setColl_free (s : State) (c : Nat) (v : Coll) : (s.setColl c v).free = s.free := rfl
@[simp] theorem State.setColl_out (s : State) (c : Nat) (v : Coll) : (s.setColl c v).out = s.out := rfl
@[simp] theorem State.setColl_regs (s : State) (c : Nat) (v : Coll) : (s.setColl c v).regs = s.regs := rfl
@[simp] theorem State.setColl_time (s : State) (c : Nat) (v : Coll) : (s.setColl c v).time = s.time := rfl
@[simp] theorem State.setColl_sched (s : State) (c : Nat) (v : Coll) : (s.setColl c v).sched = s.sched := rfl
@[simp] theorem State.setColl_fired (s : State) (c : Nat) (v : Coll) : (s.setColl c v).fired = s.fired := rfl
@[simp] theorem State.setColl_queues (s : State) (c : Nat) (v : Coll) : (s.setColl c v).queues = s.queues := rfl
@[simp] theorem State.setColl_handles (s : State) (c : Nat) (v : Coll) : (s.setColl c v).handles = s.handles := rfl
@[simp] theorem State.setColl_ctl (s : State) (c : Nat) (v : Coll) : (s.setColl c v).ctl = s.ctl := rfl
@[simp] theorem State.setColl_tiles (s : State) (c : Nat) (v : Coll) : (s.setColl c v).tiles = s.tiles := rfl
@[simp] theorem State.setColl_parts (s : State) (c : Nat) (v : Coll) : (s.setColl c v).parts = s.parts := rfl
@[simp] theorem State.setColl_cores (s : State) (c : Nat) (v : Coll) : (s.setColl c v).cores = s.cores := rfl
@[simp] theorem State.setColl_cache (s : State) (c : Nat) (v : Coll) : (s.setColl c v).cache = s.cache := rfl
@[simp] theorem State.setColl_hbm (s : State) (c : Nat) (v : Coll) : (s.setColl c v).hbm = s.hbm := rfl
@[simp] theorem State.setColl_retA (s : State) (c : Nat) (v : Coll) : (s.setColl c v).retA = s.retA := rfl
@[simp] theorem State.setColl_retB (s : State) (c : Nat) (v : Coll) : (s.setColl c v).retB = s.retB := rfl
@[simp] theorem State.setColl_fab (s : State) (c : Nat) (v : Coll) : (s.setColl c v).fab = s.fab := rfl
@[simp] theorem State.setColl_batches (s : State) (c : Nat) (v : Coll) : (s.setColl c v).batches = s.batches := rfl
@[simp] theorem State.setColl_ckpt (s : State) (c : Nat) (v : Coll) : (s.setColl c v).ckpt = s.ckpt := rfl
@[simp] theorem State.setColl_digs (s : State) (c : Nat) (v : Coll) : (s.setColl c v).digs = s.digs := rfl
@[simp] theorem State.setColl_digRun (s : State) (c : Nat) (v : Coll) : (s.setColl c v).digRun = s.digRun := rfl
@[simp] theorem State.setColl_ras (s : State) (c : Nat) (v : Coll) : (s.setColl c v).ras = s.ras := rfl
@[simp] theorem State.setColl_pwr (s : State) (c : Nat) (v : Coll) : (s.setColl c v).pwr = s.pwr := rfl
@[simp] theorem State.setColl_boot (s : State) (c : Nat) (v : Coll) : (s.setColl c v).boot = s.boot := rfl
@[simp] theorem State.setColl_pins (s : State) (c : Nat) (v : Coll) : (s.setColl c v).pins = s.pins := rfl
@[simp] theorem State.setColl_jtag (s : State) (c : Nat) (v : Coll) : (s.setColl c v).jtag = s.jtag := rfl
@[simp] theorem State.setColl_i3cAddr (s : State) (c : Nat) (v : Coll) : (s.setColl c v).i3cAddr = s.i3cAddr := rfl

/-! ### dropColl writes colls alone -/

@[simp] theorem State.dropColl_pending (s : State) (c : Nat) : (s.dropColl c).pending = s.pending := rfl
@[simp] theorem State.dropColl_free (s : State) (c : Nat) : (s.dropColl c).free = s.free := rfl
@[simp] theorem State.dropColl_out (s : State) (c : Nat) : (s.dropColl c).out = s.out := rfl
@[simp] theorem State.dropColl_regs (s : State) (c : Nat) : (s.dropColl c).regs = s.regs := rfl
@[simp] theorem State.dropColl_time (s : State) (c : Nat) : (s.dropColl c).time = s.time := rfl
@[simp] theorem State.dropColl_sched (s : State) (c : Nat) : (s.dropColl c).sched = s.sched := rfl
@[simp] theorem State.dropColl_fired (s : State) (c : Nat) : (s.dropColl c).fired = s.fired := rfl
@[simp] theorem State.dropColl_queues (s : State) (c : Nat) : (s.dropColl c).queues = s.queues := rfl
@[simp] theorem State.dropColl_handles (s : State) (c : Nat) : (s.dropColl c).handles = s.handles := rfl
@[simp] theorem State.dropColl_ctl (s : State) (c : Nat) : (s.dropColl c).ctl = s.ctl := rfl
@[simp] theorem State.dropColl_tiles (s : State) (c : Nat) : (s.dropColl c).tiles = s.tiles := rfl
@[simp] theorem State.dropColl_parts (s : State) (c : Nat) : (s.dropColl c).parts = s.parts := rfl
@[simp] theorem State.dropColl_cores (s : State) (c : Nat) : (s.dropColl c).cores = s.cores := rfl
@[simp] theorem State.dropColl_cache (s : State) (c : Nat) : (s.dropColl c).cache = s.cache := rfl
@[simp] theorem State.dropColl_hbm (s : State) (c : Nat) : (s.dropColl c).hbm = s.hbm := rfl
@[simp] theorem State.dropColl_retA (s : State) (c : Nat) : (s.dropColl c).retA = s.retA := rfl
@[simp] theorem State.dropColl_retB (s : State) (c : Nat) : (s.dropColl c).retB = s.retB := rfl
@[simp] theorem State.dropColl_fab (s : State) (c : Nat) : (s.dropColl c).fab = s.fab := rfl
@[simp] theorem State.dropColl_batches (s : State) (c : Nat) : (s.dropColl c).batches = s.batches := rfl
@[simp] theorem State.dropColl_ckpt (s : State) (c : Nat) : (s.dropColl c).ckpt = s.ckpt := rfl
@[simp] theorem State.dropColl_digs (s : State) (c : Nat) : (s.dropColl c).digs = s.digs := rfl
@[simp] theorem State.dropColl_digRun (s : State) (c : Nat) : (s.dropColl c).digRun = s.digRun := rfl
@[simp] theorem State.dropColl_ras (s : State) (c : Nat) : (s.dropColl c).ras = s.ras := rfl
@[simp] theorem State.dropColl_pwr (s : State) (c : Nat) : (s.dropColl c).pwr = s.pwr := rfl
@[simp] theorem State.dropColl_boot (s : State) (c : Nat) : (s.dropColl c).boot = s.boot := rfl
@[simp] theorem State.dropColl_pins (s : State) (c : Nat) : (s.dropColl c).pins = s.pins := rfl
@[simp] theorem State.dropColl_jtag (s : State) (c : Nat) : (s.dropColl c).jtag = s.jtag := rfl
@[simp] theorem State.dropColl_i3cAddr (s : State) (c : Nat) : (s.dropColl c).i3cAddr = s.i3cAddr := rfl

/-! ### setStack writes hbm alone -/

@[simp] theorem State.setStack_pending (s : State) (k : Nat) (v : StackS) : (s.setStack k v).pending = s.pending := rfl
@[simp] theorem State.setStack_free (s : State) (k : Nat) (v : StackS) : (s.setStack k v).free = s.free := rfl
@[simp] theorem State.setStack_out (s : State) (k : Nat) (v : StackS) : (s.setStack k v).out = s.out := rfl
@[simp] theorem State.setStack_regs (s : State) (k : Nat) (v : StackS) : (s.setStack k v).regs = s.regs := rfl
@[simp] theorem State.setStack_time (s : State) (k : Nat) (v : StackS) : (s.setStack k v).time = s.time := rfl
@[simp] theorem State.setStack_sched (s : State) (k : Nat) (v : StackS) : (s.setStack k v).sched = s.sched := rfl
@[simp] theorem State.setStack_fired (s : State) (k : Nat) (v : StackS) : (s.setStack k v).fired = s.fired := rfl
@[simp] theorem State.setStack_queues (s : State) (k : Nat) (v : StackS) : (s.setStack k v).queues = s.queues := rfl
@[simp] theorem State.setStack_handles (s : State) (k : Nat) (v : StackS) : (s.setStack k v).handles = s.handles := rfl
@[simp] theorem State.setStack_ctl (s : State) (k : Nat) (v : StackS) : (s.setStack k v).ctl = s.ctl := rfl
@[simp] theorem State.setStack_tiles (s : State) (k : Nat) (v : StackS) : (s.setStack k v).tiles = s.tiles := rfl
@[simp] theorem State.setStack_parts (s : State) (k : Nat) (v : StackS) : (s.setStack k v).parts = s.parts := rfl
@[simp] theorem State.setStack_cores (s : State) (k : Nat) (v : StackS) : (s.setStack k v).cores = s.cores := rfl
@[simp] theorem State.setStack_cache (s : State) (k : Nat) (v : StackS) : (s.setStack k v).cache = s.cache := rfl
@[simp] theorem State.setStack_retA (s : State) (k : Nat) (v : StackS) : (s.setStack k v).retA = s.retA := rfl
@[simp] theorem State.setStack_retB (s : State) (k : Nat) (v : StackS) : (s.setStack k v).retB = s.retB := rfl
@[simp] theorem State.setStack_fab (s : State) (k : Nat) (v : StackS) : (s.setStack k v).fab = s.fab := rfl
@[simp] theorem State.setStack_colls (s : State) (k : Nat) (v : StackS) : (s.setStack k v).colls = s.colls := rfl
@[simp] theorem State.setStack_batches (s : State) (k : Nat) (v : StackS) : (s.setStack k v).batches = s.batches := rfl
@[simp] theorem State.setStack_ckpt (s : State) (k : Nat) (v : StackS) : (s.setStack k v).ckpt = s.ckpt := rfl
@[simp] theorem State.setStack_digs (s : State) (k : Nat) (v : StackS) : (s.setStack k v).digs = s.digs := rfl
@[simp] theorem State.setStack_digRun (s : State) (k : Nat) (v : StackS) : (s.setStack k v).digRun = s.digRun := rfl
@[simp] theorem State.setStack_ras (s : State) (k : Nat) (v : StackS) : (s.setStack k v).ras = s.ras := rfl
@[simp] theorem State.setStack_pwr (s : State) (k : Nat) (v : StackS) : (s.setStack k v).pwr = s.pwr := rfl
@[simp] theorem State.setStack_boot (s : State) (k : Nat) (v : StackS) : (s.setStack k v).boot = s.boot := rfl
@[simp] theorem State.setStack_pins (s : State) (k : Nat) (v : StackS) : (s.setStack k v).pins = s.pins := rfl
@[simp] theorem State.setStack_jtag (s : State) (k : Nat) (v : StackS) : (s.setStack k v).jtag = s.jtag := rfl
@[simp] theorem State.setStack_i3cAddr (s : State) (k : Nat) (v : StackS) : (s.setStack k v).i3cAddr = s.i3cAddr := rfl

/-! ### setLink writes fab alone -/

@[simp] theorem State.setLink_pending (s : State) (n : Nat) (v : LinkS) : (s.setLink n v).pending = s.pending := rfl
@[simp] theorem State.setLink_free (s : State) (n : Nat) (v : LinkS) : (s.setLink n v).free = s.free := rfl
@[simp] theorem State.setLink_out (s : State) (n : Nat) (v : LinkS) : (s.setLink n v).out = s.out := rfl
@[simp] theorem State.setLink_regs (s : State) (n : Nat) (v : LinkS) : (s.setLink n v).regs = s.regs := rfl
@[simp] theorem State.setLink_time (s : State) (n : Nat) (v : LinkS) : (s.setLink n v).time = s.time := rfl
@[simp] theorem State.setLink_sched (s : State) (n : Nat) (v : LinkS) : (s.setLink n v).sched = s.sched := rfl
@[simp] theorem State.setLink_fired (s : State) (n : Nat) (v : LinkS) : (s.setLink n v).fired = s.fired := rfl
@[simp] theorem State.setLink_queues (s : State) (n : Nat) (v : LinkS) : (s.setLink n v).queues = s.queues := rfl
@[simp] theorem State.setLink_handles (s : State) (n : Nat) (v : LinkS) : (s.setLink n v).handles = s.handles := rfl
@[simp] theorem State.setLink_ctl (s : State) (n : Nat) (v : LinkS) : (s.setLink n v).ctl = s.ctl := rfl
@[simp] theorem State.setLink_tiles (s : State) (n : Nat) (v : LinkS) : (s.setLink n v).tiles = s.tiles := rfl
@[simp] theorem State.setLink_parts (s : State) (n : Nat) (v : LinkS) : (s.setLink n v).parts = s.parts := rfl
@[simp] theorem State.setLink_cores (s : State) (n : Nat) (v : LinkS) : (s.setLink n v).cores = s.cores := rfl
@[simp] theorem State.setLink_cache (s : State) (n : Nat) (v : LinkS) : (s.setLink n v).cache = s.cache := rfl
@[simp] theorem State.setLink_hbm (s : State) (n : Nat) (v : LinkS) : (s.setLink n v).hbm = s.hbm := rfl
@[simp] theorem State.setLink_retA (s : State) (n : Nat) (v : LinkS) : (s.setLink n v).retA = s.retA := rfl
@[simp] theorem State.setLink_retB (s : State) (n : Nat) (v : LinkS) : (s.setLink n v).retB = s.retB := rfl
@[simp] theorem State.setLink_colls (s : State) (n : Nat) (v : LinkS) : (s.setLink n v).colls = s.colls := rfl
@[simp] theorem State.setLink_batches (s : State) (n : Nat) (v : LinkS) : (s.setLink n v).batches = s.batches := rfl
@[simp] theorem State.setLink_ckpt (s : State) (n : Nat) (v : LinkS) : (s.setLink n v).ckpt = s.ckpt := rfl
@[simp] theorem State.setLink_digs (s : State) (n : Nat) (v : LinkS) : (s.setLink n v).digs = s.digs := rfl
@[simp] theorem State.setLink_digRun (s : State) (n : Nat) (v : LinkS) : (s.setLink n v).digRun = s.digRun := rfl
@[simp] theorem State.setLink_ras (s : State) (n : Nat) (v : LinkS) : (s.setLink n v).ras = s.ras := rfl
@[simp] theorem State.setLink_pwr (s : State) (n : Nat) (v : LinkS) : (s.setLink n v).pwr = s.pwr := rfl
@[simp] theorem State.setLink_boot (s : State) (n : Nat) (v : LinkS) : (s.setLink n v).boot = s.boot := rfl
@[simp] theorem State.setLink_pins (s : State) (n : Nat) (v : LinkS) : (s.setLink n v).pins = s.pins := rfl
@[simp] theorem State.setLink_jtag (s : State) (n : Nat) (v : LinkS) : (s.setLink n v).jtag = s.jtag := rfl
@[simp] theorem State.setLink_i3cAddr (s : State) (n : Nat) (v : LinkS) : (s.setLink n v).i3cAddr = s.i3cAddr := rfl

/-! ### setMirror writes ckpt alone -/

@[simp] theorem State.setMirror_pending (s : State) (p : Nat) (v : Mirror) : (s.setMirror p v).pending = s.pending := rfl
@[simp] theorem State.setMirror_free (s : State) (p : Nat) (v : Mirror) : (s.setMirror p v).free = s.free := rfl
@[simp] theorem State.setMirror_out (s : State) (p : Nat) (v : Mirror) : (s.setMirror p v).out = s.out := rfl
@[simp] theorem State.setMirror_regs (s : State) (p : Nat) (v : Mirror) : (s.setMirror p v).regs = s.regs := rfl
@[simp] theorem State.setMirror_time (s : State) (p : Nat) (v : Mirror) : (s.setMirror p v).time = s.time := rfl
@[simp] theorem State.setMirror_sched (s : State) (p : Nat) (v : Mirror) : (s.setMirror p v).sched = s.sched := rfl
@[simp] theorem State.setMirror_fired (s : State) (p : Nat) (v : Mirror) : (s.setMirror p v).fired = s.fired := rfl
@[simp] theorem State.setMirror_queues (s : State) (p : Nat) (v : Mirror) : (s.setMirror p v).queues = s.queues := rfl
@[simp] theorem State.setMirror_handles (s : State) (p : Nat) (v : Mirror) : (s.setMirror p v).handles = s.handles := rfl
@[simp] theorem State.setMirror_ctl (s : State) (p : Nat) (v : Mirror) : (s.setMirror p v).ctl = s.ctl := rfl
@[simp] theorem State.setMirror_tiles (s : State) (p : Nat) (v : Mirror) : (s.setMirror p v).tiles = s.tiles := rfl
@[simp] theorem State.setMirror_parts (s : State) (p : Nat) (v : Mirror) : (s.setMirror p v).parts = s.parts := rfl
@[simp] theorem State.setMirror_cores (s : State) (p : Nat) (v : Mirror) : (s.setMirror p v).cores = s.cores := rfl
@[simp] theorem State.setMirror_cache (s : State) (p : Nat) (v : Mirror) : (s.setMirror p v).cache = s.cache := rfl
@[simp] theorem State.setMirror_hbm (s : State) (p : Nat) (v : Mirror) : (s.setMirror p v).hbm = s.hbm := rfl
@[simp] theorem State.setMirror_retA (s : State) (p : Nat) (v : Mirror) : (s.setMirror p v).retA = s.retA := rfl
@[simp] theorem State.setMirror_retB (s : State) (p : Nat) (v : Mirror) : (s.setMirror p v).retB = s.retB := rfl
@[simp] theorem State.setMirror_fab (s : State) (p : Nat) (v : Mirror) : (s.setMirror p v).fab = s.fab := rfl
@[simp] theorem State.setMirror_colls (s : State) (p : Nat) (v : Mirror) : (s.setMirror p v).colls = s.colls := rfl
@[simp] theorem State.setMirror_batches (s : State) (p : Nat) (v : Mirror) : (s.setMirror p v).batches = s.batches := rfl
@[simp] theorem State.setMirror_digs (s : State) (p : Nat) (v : Mirror) : (s.setMirror p v).digs = s.digs := rfl
@[simp] theorem State.setMirror_digRun (s : State) (p : Nat) (v : Mirror) : (s.setMirror p v).digRun = s.digRun := rfl
@[simp] theorem State.setMirror_ras (s : State) (p : Nat) (v : Mirror) : (s.setMirror p v).ras = s.ras := rfl
@[simp] theorem State.setMirror_pwr (s : State) (p : Nat) (v : Mirror) : (s.setMirror p v).pwr = s.pwr := rfl
@[simp] theorem State.setMirror_boot (s : State) (p : Nat) (v : Mirror) : (s.setMirror p v).boot = s.boot := rfl
@[simp] theorem State.setMirror_pins (s : State) (p : Nat) (v : Mirror) : (s.setMirror p v).pins = s.pins := rfl
@[simp] theorem State.setMirror_jtag (s : State) (p : Nat) (v : Mirror) : (s.setMirror p v).jtag = s.jtag := rfl
@[simp] theorem State.setMirror_i3cAddr (s : State) (p : Nat) (v : Mirror) : (s.setMirror p v).i3cAddr = s.i3cAddr := rfl

/-! ### emit writes out alone -/

@[simp] theorem State.emit_pending (s : State) (o : Out) : (s.emit o).pending = s.pending := rfl
@[simp] theorem State.emit_free (s : State) (o : Out) : (s.emit o).free = s.free := rfl
@[simp] theorem State.emit_regs (s : State) (o : Out) : (s.emit o).regs = s.regs := rfl
@[simp] theorem State.emit_time (s : State) (o : Out) : (s.emit o).time = s.time := rfl
@[simp] theorem State.emit_sched (s : State) (o : Out) : (s.emit o).sched = s.sched := rfl
@[simp] theorem State.emit_fired (s : State) (o : Out) : (s.emit o).fired = s.fired := rfl
@[simp] theorem State.emit_queues (s : State) (o : Out) : (s.emit o).queues = s.queues := rfl
@[simp] theorem State.emit_handles (s : State) (o : Out) : (s.emit o).handles = s.handles := rfl
@[simp] theorem State.emit_ctl (s : State) (o : Out) : (s.emit o).ctl = s.ctl := rfl
@[simp] theorem State.emit_tiles (s : State) (o : Out) : (s.emit o).tiles = s.tiles := rfl
@[simp] theorem State.emit_parts (s : State) (o : Out) : (s.emit o).parts = s.parts := rfl
@[simp] theorem State.emit_cores (s : State) (o : Out) : (s.emit o).cores = s.cores := rfl
@[simp] theorem State.emit_cache (s : State) (o : Out) : (s.emit o).cache = s.cache := rfl
@[simp] theorem State.emit_hbm (s : State) (o : Out) : (s.emit o).hbm = s.hbm := rfl
@[simp] theorem State.emit_retA (s : State) (o : Out) : (s.emit o).retA = s.retA := rfl
@[simp] theorem State.emit_retB (s : State) (o : Out) : (s.emit o).retB = s.retB := rfl
@[simp] theorem State.emit_fab (s : State) (o : Out) : (s.emit o).fab = s.fab := rfl
@[simp] theorem State.emit_colls (s : State) (o : Out) : (s.emit o).colls = s.colls := rfl
@[simp] theorem State.emit_batches (s : State) (o : Out) : (s.emit o).batches = s.batches := rfl
@[simp] theorem State.emit_ckpt (s : State) (o : Out) : (s.emit o).ckpt = s.ckpt := rfl
@[simp] theorem State.emit_digs (s : State) (o : Out) : (s.emit o).digs = s.digs := rfl
@[simp] theorem State.emit_digRun (s : State) (o : Out) : (s.emit o).digRun = s.digRun := rfl
@[simp] theorem State.emit_ras (s : State) (o : Out) : (s.emit o).ras = s.ras := rfl
@[simp] theorem State.emit_pwr (s : State) (o : Out) : (s.emit o).pwr = s.pwr := rfl
@[simp] theorem State.emit_boot (s : State) (o : Out) : (s.emit o).boot = s.boot := rfl
@[simp] theorem State.emit_pins (s : State) (o : Out) : (s.emit o).pins = s.pins := rfl
@[simp] theorem State.emit_jtag (s : State) (o : Out) : (s.emit o).jtag = s.jtag := rfl
@[simp] theorem State.emit_i3cAddr (s : State) (o : Out) : (s.emit o).i3cAddr = s.i3cAddr := rfl

/-! ### freed writes free alone -/

@[simp] theorem State.freed_pending (s : State) : (s.freed).pending = s.pending := rfl
@[simp] theorem State.freed_out (s : State) : (s.freed).out = s.out := rfl
@[simp] theorem State.freed_regs (s : State) : (s.freed).regs = s.regs := rfl
@[simp] theorem State.freed_time (s : State) : (s.freed).time = s.time := rfl
@[simp] theorem State.freed_sched (s : State) : (s.freed).sched = s.sched := rfl
@[simp] theorem State.freed_fired (s : State) : (s.freed).fired = s.fired := rfl
@[simp] theorem State.freed_queues (s : State) : (s.freed).queues = s.queues := rfl
@[simp] theorem State.freed_handles (s : State) : (s.freed).handles = s.handles := rfl
@[simp] theorem State.freed_ctl (s : State) : (s.freed).ctl = s.ctl := rfl
@[simp] theorem State.freed_tiles (s : State) : (s.freed).tiles = s.tiles := rfl
@[simp] theorem State.freed_parts (s : State) : (s.freed).parts = s.parts := rfl
@[simp] theorem State.freed_cores (s : State) : (s.freed).cores = s.cores := rfl
@[simp] theorem State.freed_cache (s : State) : (s.freed).cache = s.cache := rfl
@[simp] theorem State.freed_hbm (s : State) : (s.freed).hbm = s.hbm := rfl
@[simp] theorem State.freed_retA (s : State) : (s.freed).retA = s.retA := rfl
@[simp] theorem State.freed_retB (s : State) : (s.freed).retB = s.retB := rfl
@[simp] theorem State.freed_fab (s : State) : (s.freed).fab = s.fab := rfl
@[simp] theorem State.freed_colls (s : State) : (s.freed).colls = s.colls := rfl
@[simp] theorem State.freed_batches (s : State) : (s.freed).batches = s.batches := rfl
@[simp] theorem State.freed_ckpt (s : State) : (s.freed).ckpt = s.ckpt := rfl
@[simp] theorem State.freed_digs (s : State) : (s.freed).digs = s.digs := rfl
@[simp] theorem State.freed_digRun (s : State) : (s.freed).digRun = s.digRun := rfl
@[simp] theorem State.freed_ras (s : State) : (s.freed).ras = s.ras := rfl
@[simp] theorem State.freed_pwr (s : State) : (s.freed).pwr = s.pwr := rfl
@[simp] theorem State.freed_boot (s : State) : (s.freed).boot = s.boot := rfl
@[simp] theorem State.freed_pins (s : State) : (s.freed).pins = s.pins := rfl
@[simp] theorem State.freed_jtag (s : State) : (s.freed).jtag = s.jtag := rfl
@[simp] theorem State.freed_i3cAddr (s : State) : (s.freed).i3cAddr = s.i3cAddr := rfl

/-! ### wr writes regs alone -/

@[simp] theorem State.wr_pending (s : State) (o v : Nat) : (s.wr o v).pending = s.pending := rfl
@[simp] theorem State.wr_free (s : State) (o v : Nat) : (s.wr o v).free = s.free := rfl
@[simp] theorem State.wr_out (s : State) (o v : Nat) : (s.wr o v).out = s.out := rfl
@[simp] theorem State.wr_time (s : State) (o v : Nat) : (s.wr o v).time = s.time := rfl
@[simp] theorem State.wr_sched (s : State) (o v : Nat) : (s.wr o v).sched = s.sched := rfl
@[simp] theorem State.wr_fired (s : State) (o v : Nat) : (s.wr o v).fired = s.fired := rfl
@[simp] theorem State.wr_queues (s : State) (o v : Nat) : (s.wr o v).queues = s.queues := rfl
@[simp] theorem State.wr_handles (s : State) (o v : Nat) : (s.wr o v).handles = s.handles := rfl
@[simp] theorem State.wr_ctl (s : State) (o v : Nat) : (s.wr o v).ctl = s.ctl := rfl
@[simp] theorem State.wr_tiles (s : State) (o v : Nat) : (s.wr o v).tiles = s.tiles := rfl
@[simp] theorem State.wr_parts (s : State) (o v : Nat) : (s.wr o v).parts = s.parts := rfl
@[simp] theorem State.wr_cores (s : State) (o v : Nat) : (s.wr o v).cores = s.cores := rfl
@[simp] theorem State.wr_cache (s : State) (o v : Nat) : (s.wr o v).cache = s.cache := rfl
@[simp] theorem State.wr_hbm (s : State) (o v : Nat) : (s.wr o v).hbm = s.hbm := rfl
@[simp] theorem State.wr_retA (s : State) (o v : Nat) : (s.wr o v).retA = s.retA := rfl
@[simp] theorem State.wr_retB (s : State) (o v : Nat) : (s.wr o v).retB = s.retB := rfl
@[simp] theorem State.wr_fab (s : State) (o v : Nat) : (s.wr o v).fab = s.fab := rfl
@[simp] theorem State.wr_colls (s : State) (o v : Nat) : (s.wr o v).colls = s.colls := rfl
@[simp] theorem State.wr_batches (s : State) (o v : Nat) : (s.wr o v).batches = s.batches := rfl
@[simp] theorem State.wr_ckpt (s : State) (o v : Nat) : (s.wr o v).ckpt = s.ckpt := rfl
@[simp] theorem State.wr_digs (s : State) (o v : Nat) : (s.wr o v).digs = s.digs := rfl
@[simp] theorem State.wr_digRun (s : State) (o v : Nat) : (s.wr o v).digRun = s.digRun := rfl
@[simp] theorem State.wr_ras (s : State) (o v : Nat) : (s.wr o v).ras = s.ras := rfl
@[simp] theorem State.wr_pwr (s : State) (o v : Nat) : (s.wr o v).pwr = s.pwr := rfl
@[simp] theorem State.wr_boot (s : State) (o v : Nat) : (s.wr o v).boot = s.boot := rfl
@[simp] theorem State.wr_pins (s : State) (o v : Nat) : (s.wr o v).pins = s.pins := rfl
@[simp] theorem State.wr_jtag (s : State) (o v : Nat) : (s.wr o v).jtag = s.jtag := rfl
@[simp] theorem State.wr_i3cAddr (s : State) (o v : Nat) : (s.wr o v).i3cAddr = s.i3cAddr := rfl

/-! ### setFld writes regs alone -/

@[simp] theorem State.setFld_pending (s : State) (o hi lo v : Nat) : (s.setFld o hi lo v).pending = s.pending := rfl
@[simp] theorem State.setFld_free (s : State) (o hi lo v : Nat) : (s.setFld o hi lo v).free = s.free := rfl
@[simp] theorem State.setFld_out (s : State) (o hi lo v : Nat) : (s.setFld o hi lo v).out = s.out := rfl
@[simp] theorem State.setFld_time (s : State) (o hi lo v : Nat) : (s.setFld o hi lo v).time = s.time := rfl
@[simp] theorem State.setFld_sched (s : State) (o hi lo v : Nat) : (s.setFld o hi lo v).sched = s.sched := rfl
@[simp] theorem State.setFld_fired (s : State) (o hi lo v : Nat) : (s.setFld o hi lo v).fired = s.fired := rfl
@[simp] theorem State.setFld_queues (s : State) (o hi lo v : Nat) : (s.setFld o hi lo v).queues = s.queues := rfl
@[simp] theorem State.setFld_handles (s : State) (o hi lo v : Nat) : (s.setFld o hi lo v).handles = s.handles := rfl
@[simp] theorem State.setFld_ctl (s : State) (o hi lo v : Nat) : (s.setFld o hi lo v).ctl = s.ctl := rfl
@[simp] theorem State.setFld_tiles (s : State) (o hi lo v : Nat) : (s.setFld o hi lo v).tiles = s.tiles := rfl
@[simp] theorem State.setFld_parts (s : State) (o hi lo v : Nat) : (s.setFld o hi lo v).parts = s.parts := rfl
@[simp] theorem State.setFld_cores (s : State) (o hi lo v : Nat) : (s.setFld o hi lo v).cores = s.cores := rfl
@[simp] theorem State.setFld_cache (s : State) (o hi lo v : Nat) : (s.setFld o hi lo v).cache = s.cache := rfl
@[simp] theorem State.setFld_hbm (s : State) (o hi lo v : Nat) : (s.setFld o hi lo v).hbm = s.hbm := rfl
@[simp] theorem State.setFld_retA (s : State) (o hi lo v : Nat) : (s.setFld o hi lo v).retA = s.retA := rfl
@[simp] theorem State.setFld_retB (s : State) (o hi lo v : Nat) : (s.setFld o hi lo v).retB = s.retB := rfl
@[simp] theorem State.setFld_fab (s : State) (o hi lo v : Nat) : (s.setFld o hi lo v).fab = s.fab := rfl
@[simp] theorem State.setFld_colls (s : State) (o hi lo v : Nat) : (s.setFld o hi lo v).colls = s.colls := rfl
@[simp] theorem State.setFld_batches (s : State) (o hi lo v : Nat) : (s.setFld o hi lo v).batches = s.batches := rfl
@[simp] theorem State.setFld_ckpt (s : State) (o hi lo v : Nat) : (s.setFld o hi lo v).ckpt = s.ckpt := rfl
@[simp] theorem State.setFld_digs (s : State) (o hi lo v : Nat) : (s.setFld o hi lo v).digs = s.digs := rfl
@[simp] theorem State.setFld_digRun (s : State) (o hi lo v : Nat) : (s.setFld o hi lo v).digRun = s.digRun := rfl
@[simp] theorem State.setFld_ras (s : State) (o hi lo v : Nat) : (s.setFld o hi lo v).ras = s.ras := rfl
@[simp] theorem State.setFld_pwr (s : State) (o hi lo v : Nat) : (s.setFld o hi lo v).pwr = s.pwr := rfl
@[simp] theorem State.setFld_boot (s : State) (o hi lo v : Nat) : (s.setFld o hi lo v).boot = s.boot := rfl
@[simp] theorem State.setFld_pins (s : State) (o hi lo v : Nat) : (s.setFld o hi lo v).pins = s.pins := rfl
@[simp] theorem State.setFld_jtag (s : State) (o hi lo v : Nat) : (s.setFld o hi lo v).jtag = s.jtag := rfl
@[simp] theorem State.setFld_i3cAddr (s : State) (o hi lo v : Nat) : (s.setFld o hi lo v).i3cAddr = s.i3cAddr := rfl

/-! ### setFlag writes regs alone -/

@[simp] theorem State.setFlag_pending (s : State) (o i : Nat) : (s.setFlag o i).pending = s.pending := rfl
@[simp] theorem State.setFlag_free (s : State) (o i : Nat) : (s.setFlag o i).free = s.free := rfl
@[simp] theorem State.setFlag_out (s : State) (o i : Nat) : (s.setFlag o i).out = s.out := rfl
@[simp] theorem State.setFlag_time (s : State) (o i : Nat) : (s.setFlag o i).time = s.time := rfl
@[simp] theorem State.setFlag_sched (s : State) (o i : Nat) : (s.setFlag o i).sched = s.sched := rfl
@[simp] theorem State.setFlag_fired (s : State) (o i : Nat) : (s.setFlag o i).fired = s.fired := rfl
@[simp] theorem State.setFlag_queues (s : State) (o i : Nat) : (s.setFlag o i).queues = s.queues := rfl
@[simp] theorem State.setFlag_handles (s : State) (o i : Nat) : (s.setFlag o i).handles = s.handles := rfl
@[simp] theorem State.setFlag_ctl (s : State) (o i : Nat) : (s.setFlag o i).ctl = s.ctl := rfl
@[simp] theorem State.setFlag_tiles (s : State) (o i : Nat) : (s.setFlag o i).tiles = s.tiles := rfl
@[simp] theorem State.setFlag_parts (s : State) (o i : Nat) : (s.setFlag o i).parts = s.parts := rfl
@[simp] theorem State.setFlag_cores (s : State) (o i : Nat) : (s.setFlag o i).cores = s.cores := rfl
@[simp] theorem State.setFlag_cache (s : State) (o i : Nat) : (s.setFlag o i).cache = s.cache := rfl
@[simp] theorem State.setFlag_hbm (s : State) (o i : Nat) : (s.setFlag o i).hbm = s.hbm := rfl
@[simp] theorem State.setFlag_retA (s : State) (o i : Nat) : (s.setFlag o i).retA = s.retA := rfl
@[simp] theorem State.setFlag_retB (s : State) (o i : Nat) : (s.setFlag o i).retB = s.retB := rfl
@[simp] theorem State.setFlag_fab (s : State) (o i : Nat) : (s.setFlag o i).fab = s.fab := rfl
@[simp] theorem State.setFlag_colls (s : State) (o i : Nat) : (s.setFlag o i).colls = s.colls := rfl
@[simp] theorem State.setFlag_batches (s : State) (o i : Nat) : (s.setFlag o i).batches = s.batches := rfl
@[simp] theorem State.setFlag_ckpt (s : State) (o i : Nat) : (s.setFlag o i).ckpt = s.ckpt := rfl
@[simp] theorem State.setFlag_digs (s : State) (o i : Nat) : (s.setFlag o i).digs = s.digs := rfl
@[simp] theorem State.setFlag_digRun (s : State) (o i : Nat) : (s.setFlag o i).digRun = s.digRun := rfl
@[simp] theorem State.setFlag_ras (s : State) (o i : Nat) : (s.setFlag o i).ras = s.ras := rfl
@[simp] theorem State.setFlag_pwr (s : State) (o i : Nat) : (s.setFlag o i).pwr = s.pwr := rfl
@[simp] theorem State.setFlag_boot (s : State) (o i : Nat) : (s.setFlag o i).boot = s.boot := rfl
@[simp] theorem State.setFlag_pins (s : State) (o i : Nat) : (s.setFlag o i).pins = s.pins := rfl
@[simp] theorem State.setFlag_jtag (s : State) (o i : Nat) : (s.setFlag o i).jtag = s.jtag := rfl
@[simp] theorem State.setFlag_i3cAddr (s : State) (o i : Nat) : (s.setFlag o i).i3cAddr = s.i3cAddr := rfl

/-! ### countFld writes regs alone -/

@[simp] theorem State.countFld_pending (s : State) (o hi lo n : Nat) : (s.countFld o hi lo n).pending = s.pending := rfl
@[simp] theorem State.countFld_free (s : State) (o hi lo n : Nat) : (s.countFld o hi lo n).free = s.free := rfl
@[simp] theorem State.countFld_out (s : State) (o hi lo n : Nat) : (s.countFld o hi lo n).out = s.out := rfl
@[simp] theorem State.countFld_time (s : State) (o hi lo n : Nat) : (s.countFld o hi lo n).time = s.time := rfl
@[simp] theorem State.countFld_sched (s : State) (o hi lo n : Nat) : (s.countFld o hi lo n).sched = s.sched := rfl
@[simp] theorem State.countFld_fired (s : State) (o hi lo n : Nat) : (s.countFld o hi lo n).fired = s.fired := rfl
@[simp] theorem State.countFld_queues (s : State) (o hi lo n : Nat) : (s.countFld o hi lo n).queues = s.queues := rfl
@[simp] theorem State.countFld_handles (s : State) (o hi lo n : Nat) : (s.countFld o hi lo n).handles = s.handles := rfl
@[simp] theorem State.countFld_ctl (s : State) (o hi lo n : Nat) : (s.countFld o hi lo n).ctl = s.ctl := rfl
@[simp] theorem State.countFld_tiles (s : State) (o hi lo n : Nat) : (s.countFld o hi lo n).tiles = s.tiles := rfl
@[simp] theorem State.countFld_parts (s : State) (o hi lo n : Nat) : (s.countFld o hi lo n).parts = s.parts := rfl
@[simp] theorem State.countFld_cores (s : State) (o hi lo n : Nat) : (s.countFld o hi lo n).cores = s.cores := rfl
@[simp] theorem State.countFld_cache (s : State) (o hi lo n : Nat) : (s.countFld o hi lo n).cache = s.cache := rfl
@[simp] theorem State.countFld_hbm (s : State) (o hi lo n : Nat) : (s.countFld o hi lo n).hbm = s.hbm := rfl
@[simp] theorem State.countFld_retA (s : State) (o hi lo n : Nat) : (s.countFld o hi lo n).retA = s.retA := rfl
@[simp] theorem State.countFld_retB (s : State) (o hi lo n : Nat) : (s.countFld o hi lo n).retB = s.retB := rfl
@[simp] theorem State.countFld_fab (s : State) (o hi lo n : Nat) : (s.countFld o hi lo n).fab = s.fab := rfl
@[simp] theorem State.countFld_colls (s : State) (o hi lo n : Nat) : (s.countFld o hi lo n).colls = s.colls := rfl
@[simp] theorem State.countFld_batches (s : State) (o hi lo n : Nat) : (s.countFld o hi lo n).batches = s.batches := rfl
@[simp] theorem State.countFld_ckpt (s : State) (o hi lo n : Nat) : (s.countFld o hi lo n).ckpt = s.ckpt := rfl
@[simp] theorem State.countFld_digs (s : State) (o hi lo n : Nat) : (s.countFld o hi lo n).digs = s.digs := rfl
@[simp] theorem State.countFld_digRun (s : State) (o hi lo n : Nat) : (s.countFld o hi lo n).digRun = s.digRun := rfl
@[simp] theorem State.countFld_ras (s : State) (o hi lo n : Nat) : (s.countFld o hi lo n).ras = s.ras := rfl
@[simp] theorem State.countFld_pwr (s : State) (o hi lo n : Nat) : (s.countFld o hi lo n).pwr = s.pwr := rfl
@[simp] theorem State.countFld_boot (s : State) (o hi lo n : Nat) : (s.countFld o hi lo n).boot = s.boot := rfl
@[simp] theorem State.countFld_pins (s : State) (o hi lo n : Nat) : (s.countFld o hi lo n).pins = s.pins := rfl
@[simp] theorem State.countFld_jtag (s : State) (o hi lo n : Nat) : (s.countFld o hi lo n).jtag = s.jtag := rfl
@[simp] theorem State.countFld_i3cAddr (s : State) (o hi lo n : Nat) : (s.countFld o hi lo n).i3cAddr = s.i3cAddr := rfl

/-! ### setPort writes time alone -/

@[simp] theorem State.setPort_pending (s : State) (p : Nat) (v : PtpPort) : (s.setPort p v).pending = s.pending := rfl
@[simp] theorem State.setPort_free (s : State) (p : Nat) (v : PtpPort) : (s.setPort p v).free = s.free := rfl
@[simp] theorem State.setPort_out (s : State) (p : Nat) (v : PtpPort) : (s.setPort p v).out = s.out := rfl
@[simp] theorem State.setPort_regs (s : State) (p : Nat) (v : PtpPort) : (s.setPort p v).regs = s.regs := rfl
@[simp] theorem State.setPort_sched (s : State) (p : Nat) (v : PtpPort) : (s.setPort p v).sched = s.sched := rfl
@[simp] theorem State.setPort_fired (s : State) (p : Nat) (v : PtpPort) : (s.setPort p v).fired = s.fired := rfl
@[simp] theorem State.setPort_queues (s : State) (p : Nat) (v : PtpPort) : (s.setPort p v).queues = s.queues := rfl
@[simp] theorem State.setPort_handles (s : State) (p : Nat) (v : PtpPort) : (s.setPort p v).handles = s.handles := rfl
@[simp] theorem State.setPort_ctl (s : State) (p : Nat) (v : PtpPort) : (s.setPort p v).ctl = s.ctl := rfl
@[simp] theorem State.setPort_tiles (s : State) (p : Nat) (v : PtpPort) : (s.setPort p v).tiles = s.tiles := rfl
@[simp] theorem State.setPort_parts (s : State) (p : Nat) (v : PtpPort) : (s.setPort p v).parts = s.parts := rfl
@[simp] theorem State.setPort_cores (s : State) (p : Nat) (v : PtpPort) : (s.setPort p v).cores = s.cores := rfl
@[simp] theorem State.setPort_cache (s : State) (p : Nat) (v : PtpPort) : (s.setPort p v).cache = s.cache := rfl
@[simp] theorem State.setPort_hbm (s : State) (p : Nat) (v : PtpPort) : (s.setPort p v).hbm = s.hbm := rfl
@[simp] theorem State.setPort_retA (s : State) (p : Nat) (v : PtpPort) : (s.setPort p v).retA = s.retA := rfl
@[simp] theorem State.setPort_retB (s : State) (p : Nat) (v : PtpPort) : (s.setPort p v).retB = s.retB := rfl
@[simp] theorem State.setPort_fab (s : State) (p : Nat) (v : PtpPort) : (s.setPort p v).fab = s.fab := rfl
@[simp] theorem State.setPort_colls (s : State) (p : Nat) (v : PtpPort) : (s.setPort p v).colls = s.colls := rfl
@[simp] theorem State.setPort_batches (s : State) (p : Nat) (v : PtpPort) : (s.setPort p v).batches = s.batches := rfl
@[simp] theorem State.setPort_ckpt (s : State) (p : Nat) (v : PtpPort) : (s.setPort p v).ckpt = s.ckpt := rfl
@[simp] theorem State.setPort_digs (s : State) (p : Nat) (v : PtpPort) : (s.setPort p v).digs = s.digs := rfl
@[simp] theorem State.setPort_digRun (s : State) (p : Nat) (v : PtpPort) : (s.setPort p v).digRun = s.digRun := rfl
@[simp] theorem State.setPort_ras (s : State) (p : Nat) (v : PtpPort) : (s.setPort p v).ras = s.ras := rfl
@[simp] theorem State.setPort_pwr (s : State) (p : Nat) (v : PtpPort) : (s.setPort p v).pwr = s.pwr := rfl
@[simp] theorem State.setPort_boot (s : State) (p : Nat) (v : PtpPort) : (s.setPort p v).boot = s.boot := rfl
@[simp] theorem State.setPort_pins (s : State) (p : Nat) (v : PtpPort) : (s.setPort p v).pins = s.pins := rfl
@[simp] theorem State.setPort_jtag (s : State) (p : Nat) (v : PtpPort) : (s.setPort p v).jtag = s.jtag := rfl
@[simp] theorem State.setPort_i3cAddr (s : State) (p : Nat) (v : PtpPort) : (s.setPort p v).i3cAddr = s.i3cAddr := rfl

/-! ### setLines writes cache alone -/

@[simp] theorem State.setLines_pending (s : State) (m : SMap CLine) : (s.setLines m).pending = s.pending := rfl
@[simp] theorem State.setLines_free (s : State) (m : SMap CLine) : (s.setLines m).free = s.free := rfl
@[simp] theorem State.setLines_out (s : State) (m : SMap CLine) : (s.setLines m).out = s.out := rfl
@[simp] theorem State.setLines_regs (s : State) (m : SMap CLine) : (s.setLines m).regs = s.regs := rfl
@[simp] theorem State.setLines_time (s : State) (m : SMap CLine) : (s.setLines m).time = s.time := rfl
@[simp] theorem State.setLines_sched (s : State) (m : SMap CLine) : (s.setLines m).sched = s.sched := rfl
@[simp] theorem State.setLines_fired (s : State) (m : SMap CLine) : (s.setLines m).fired = s.fired := rfl
@[simp] theorem State.setLines_queues (s : State) (m : SMap CLine) : (s.setLines m).queues = s.queues := rfl
@[simp] theorem State.setLines_handles (s : State) (m : SMap CLine) : (s.setLines m).handles = s.handles := rfl
@[simp] theorem State.setLines_ctl (s : State) (m : SMap CLine) : (s.setLines m).ctl = s.ctl := rfl
@[simp] theorem State.setLines_tiles (s : State) (m : SMap CLine) : (s.setLines m).tiles = s.tiles := rfl
@[simp] theorem State.setLines_parts (s : State) (m : SMap CLine) : (s.setLines m).parts = s.parts := rfl
@[simp] theorem State.setLines_cores (s : State) (m : SMap CLine) : (s.setLines m).cores = s.cores := rfl
@[simp] theorem State.setLines_hbm (s : State) (m : SMap CLine) : (s.setLines m).hbm = s.hbm := rfl
@[simp] theorem State.setLines_retA (s : State) (m : SMap CLine) : (s.setLines m).retA = s.retA := rfl
@[simp] theorem State.setLines_retB (s : State) (m : SMap CLine) : (s.setLines m).retB = s.retB := rfl
@[simp] theorem State.setLines_fab (s : State) (m : SMap CLine) : (s.setLines m).fab = s.fab := rfl
@[simp] theorem State.setLines_colls (s : State) (m : SMap CLine) : (s.setLines m).colls = s.colls := rfl
@[simp] theorem State.setLines_batches (s : State) (m : SMap CLine) : (s.setLines m).batches = s.batches := rfl
@[simp] theorem State.setLines_ckpt (s : State) (m : SMap CLine) : (s.setLines m).ckpt = s.ckpt := rfl
@[simp] theorem State.setLines_digs (s : State) (m : SMap CLine) : (s.setLines m).digs = s.digs := rfl
@[simp] theorem State.setLines_digRun (s : State) (m : SMap CLine) : (s.setLines m).digRun = s.digRun := rfl
@[simp] theorem State.setLines_ras (s : State) (m : SMap CLine) : (s.setLines m).ras = s.ras := rfl
@[simp] theorem State.setLines_pwr (s : State) (m : SMap CLine) : (s.setLines m).pwr = s.pwr := rfl
@[simp] theorem State.setLines_boot (s : State) (m : SMap CLine) : (s.setLines m).boot = s.boot := rfl
@[simp] theorem State.setLines_pins (s : State) (m : SMap CLine) : (s.setLines m).pins = s.pins := rfl
@[simp] theorem State.setLines_jtag (s : State) (m : SMap CLine) : (s.setLines m).jtag = s.jtag := rfl
@[simp] theorem State.setLines_i3cAddr (s : State) (m : SMap CLine) : (s.setLines m).i3cAddr = s.i3cAddr := rfl

/-! ### setDir writes cache alone -/

@[simp] theorem State.setDir_pending (s : State) (l : Nat) (d : Option DirEnt) : (s.setDir l d).pending = s.pending := rfl
@[simp] theorem State.setDir_free (s : State) (l : Nat) (d : Option DirEnt) : (s.setDir l d).free = s.free := rfl
@[simp] theorem State.setDir_out (s : State) (l : Nat) (d : Option DirEnt) : (s.setDir l d).out = s.out := rfl
@[simp] theorem State.setDir_regs (s : State) (l : Nat) (d : Option DirEnt) : (s.setDir l d).regs = s.regs := rfl
@[simp] theorem State.setDir_time (s : State) (l : Nat) (d : Option DirEnt) : (s.setDir l d).time = s.time := rfl
@[simp] theorem State.setDir_sched (s : State) (l : Nat) (d : Option DirEnt) : (s.setDir l d).sched = s.sched := rfl
@[simp] theorem State.setDir_fired (s : State) (l : Nat) (d : Option DirEnt) : (s.setDir l d).fired = s.fired := rfl
@[simp] theorem State.setDir_queues (s : State) (l : Nat) (d : Option DirEnt) : (s.setDir l d).queues = s.queues := rfl
@[simp] theorem State.setDir_handles (s : State) (l : Nat) (d : Option DirEnt) : (s.setDir l d).handles = s.handles := rfl
@[simp] theorem State.setDir_ctl (s : State) (l : Nat) (d : Option DirEnt) : (s.setDir l d).ctl = s.ctl := rfl
@[simp] theorem State.setDir_tiles (s : State) (l : Nat) (d : Option DirEnt) : (s.setDir l d).tiles = s.tiles := rfl
@[simp] theorem State.setDir_parts (s : State) (l : Nat) (d : Option DirEnt) : (s.setDir l d).parts = s.parts := rfl
@[simp] theorem State.setDir_cores (s : State) (l : Nat) (d : Option DirEnt) : (s.setDir l d).cores = s.cores := rfl
@[simp] theorem State.setDir_hbm (s : State) (l : Nat) (d : Option DirEnt) : (s.setDir l d).hbm = s.hbm := rfl
@[simp] theorem State.setDir_retA (s : State) (l : Nat) (d : Option DirEnt) : (s.setDir l d).retA = s.retA := rfl
@[simp] theorem State.setDir_retB (s : State) (l : Nat) (d : Option DirEnt) : (s.setDir l d).retB = s.retB := rfl
@[simp] theorem State.setDir_fab (s : State) (l : Nat) (d : Option DirEnt) : (s.setDir l d).fab = s.fab := rfl
@[simp] theorem State.setDir_colls (s : State) (l : Nat) (d : Option DirEnt) : (s.setDir l d).colls = s.colls := rfl
@[simp] theorem State.setDir_batches (s : State) (l : Nat) (d : Option DirEnt) : (s.setDir l d).batches = s.batches := rfl
@[simp] theorem State.setDir_ckpt (s : State) (l : Nat) (d : Option DirEnt) : (s.setDir l d).ckpt = s.ckpt := rfl
@[simp] theorem State.setDir_digs (s : State) (l : Nat) (d : Option DirEnt) : (s.setDir l d).digs = s.digs := rfl
@[simp] theorem State.setDir_digRun (s : State) (l : Nat) (d : Option DirEnt) : (s.setDir l d).digRun = s.digRun := rfl
@[simp] theorem State.setDir_ras (s : State) (l : Nat) (d : Option DirEnt) : (s.setDir l d).ras = s.ras := rfl
@[simp] theorem State.setDir_pwr (s : State) (l : Nat) (d : Option DirEnt) : (s.setDir l d).pwr = s.pwr := rfl
@[simp] theorem State.setDir_boot (s : State) (l : Nat) (d : Option DirEnt) : (s.setDir l d).boot = s.boot := rfl
@[simp] theorem State.setDir_pins (s : State) (l : Nat) (d : Option DirEnt) : (s.setDir l d).pins = s.pins := rfl
@[simp] theorem State.setDir_jtag (s : State) (l : Nat) (d : Option DirEnt) : (s.setDir l d).jtag = s.jtag := rfl
@[simp] theorem State.setDir_i3cAddr (s : State) (l : Nat) (d : Option DirEnt) : (s.setDir l d).i3cAddr = s.i3cAddr := rfl

/-! ### setOutst writes fab alone -/

@[simp] theorem State.setOutst_pending (s : State) (o : Outst) : (s.setOutst o).pending = s.pending := rfl
@[simp] theorem State.setOutst_free (s : State) (o : Outst) : (s.setOutst o).free = s.free := rfl
@[simp] theorem State.setOutst_out (s : State) (o : Outst) : (s.setOutst o).out = s.out := rfl
@[simp] theorem State.setOutst_regs (s : State) (o : Outst) : (s.setOutst o).regs = s.regs := rfl
@[simp] theorem State.setOutst_time (s : State) (o : Outst) : (s.setOutst o).time = s.time := rfl
@[simp] theorem State.setOutst_sched (s : State) (o : Outst) : (s.setOutst o).sched = s.sched := rfl
@[simp] theorem State.setOutst_fired (s : State) (o : Outst) : (s.setOutst o).fired = s.fired := rfl
@[simp] theorem State.setOutst_queues (s : State) (o : Outst) : (s.setOutst o).queues = s.queues := rfl
@[simp] theorem State.setOutst_handles (s : State) (o : Outst) : (s.setOutst o).handles = s.handles := rfl
@[simp] theorem State.setOutst_ctl (s : State) (o : Outst) : (s.setOutst o).ctl = s.ctl := rfl
@[simp] theorem State.setOutst_tiles (s : State) (o : Outst) : (s.setOutst o).tiles = s.tiles := rfl
@[simp] theorem State.setOutst_parts (s : State) (o : Outst) : (s.setOutst o).parts = s.parts := rfl
@[simp] theorem State.setOutst_cores (s : State) (o : Outst) : (s.setOutst o).cores = s.cores := rfl
@[simp] theorem State.setOutst_cache (s : State) (o : Outst) : (s.setOutst o).cache = s.cache := rfl
@[simp] theorem State.setOutst_hbm (s : State) (o : Outst) : (s.setOutst o).hbm = s.hbm := rfl
@[simp] theorem State.setOutst_retA (s : State) (o : Outst) : (s.setOutst o).retA = s.retA := rfl
@[simp] theorem State.setOutst_retB (s : State) (o : Outst) : (s.setOutst o).retB = s.retB := rfl
@[simp] theorem State.setOutst_colls (s : State) (o : Outst) : (s.setOutst o).colls = s.colls := rfl
@[simp] theorem State.setOutst_batches (s : State) (o : Outst) : (s.setOutst o).batches = s.batches := rfl
@[simp] theorem State.setOutst_ckpt (s : State) (o : Outst) : (s.setOutst o).ckpt = s.ckpt := rfl
@[simp] theorem State.setOutst_digs (s : State) (o : Outst) : (s.setOutst o).digs = s.digs := rfl
@[simp] theorem State.setOutst_digRun (s : State) (o : Outst) : (s.setOutst o).digRun = s.digRun := rfl
@[simp] theorem State.setOutst_ras (s : State) (o : Outst) : (s.setOutst o).ras = s.ras := rfl
@[simp] theorem State.setOutst_pwr (s : State) (o : Outst) : (s.setOutst o).pwr = s.pwr := rfl
@[simp] theorem State.setOutst_boot (s : State) (o : Outst) : (s.setOutst o).boot = s.boot := rfl
@[simp] theorem State.setOutst_pins (s : State) (o : Outst) : (s.setOutst o).pins = s.pins := rfl
@[simp] theorem State.setOutst_jtag (s : State) (o : Outst) : (s.setOutst o).jtag = s.jtag := rfl
@[simp] theorem State.setOutst_i3cAddr (s : State) (o : Outst) : (s.setOutst o).i3cAddr = s.i3cAddr := rfl

/-! ### setPath writes fab alone -/

@[simp] theorem State.setPath_pending (s : State) (k : Nat × Nat × Nat) (p : Path) : (s.setPath k p).pending = s.pending := rfl
@[simp] theorem State.setPath_free (s : State) (k : Nat × Nat × Nat) (p : Path) : (s.setPath k p).free = s.free := rfl
@[simp] theorem State.setPath_out (s : State) (k : Nat × Nat × Nat) (p : Path) : (s.setPath k p).out = s.out := rfl
@[simp] theorem State.setPath_regs (s : State) (k : Nat × Nat × Nat) (p : Path) : (s.setPath k p).regs = s.regs := rfl
@[simp] theorem State.setPath_time (s : State) (k : Nat × Nat × Nat) (p : Path) : (s.setPath k p).time = s.time := rfl
@[simp] theorem State.setPath_sched (s : State) (k : Nat × Nat × Nat) (p : Path) : (s.setPath k p).sched = s.sched := rfl
@[simp] theorem State.setPath_fired (s : State) (k : Nat × Nat × Nat) (p : Path) : (s.setPath k p).fired = s.fired := rfl
@[simp] theorem State.setPath_queues (s : State) (k : Nat × Nat × Nat) (p : Path) : (s.setPath k p).queues = s.queues := rfl
@[simp] theorem State.setPath_handles (s : State) (k : Nat × Nat × Nat) (p : Path) : (s.setPath k p).handles = s.handles := rfl
@[simp] theorem State.setPath_ctl (s : State) (k : Nat × Nat × Nat) (p : Path) : (s.setPath k p).ctl = s.ctl := rfl
@[simp] theorem State.setPath_tiles (s : State) (k : Nat × Nat × Nat) (p : Path) : (s.setPath k p).tiles = s.tiles := rfl
@[simp] theorem State.setPath_parts (s : State) (k : Nat × Nat × Nat) (p : Path) : (s.setPath k p).parts = s.parts := rfl
@[simp] theorem State.setPath_cores (s : State) (k : Nat × Nat × Nat) (p : Path) : (s.setPath k p).cores = s.cores := rfl
@[simp] theorem State.setPath_cache (s : State) (k : Nat × Nat × Nat) (p : Path) : (s.setPath k p).cache = s.cache := rfl
@[simp] theorem State.setPath_hbm (s : State) (k : Nat × Nat × Nat) (p : Path) : (s.setPath k p).hbm = s.hbm := rfl
@[simp] theorem State.setPath_retA (s : State) (k : Nat × Nat × Nat) (p : Path) : (s.setPath k p).retA = s.retA := rfl
@[simp] theorem State.setPath_retB (s : State) (k : Nat × Nat × Nat) (p : Path) : (s.setPath k p).retB = s.retB := rfl
@[simp] theorem State.setPath_colls (s : State) (k : Nat × Nat × Nat) (p : Path) : (s.setPath k p).colls = s.colls := rfl
@[simp] theorem State.setPath_batches (s : State) (k : Nat × Nat × Nat) (p : Path) : (s.setPath k p).batches = s.batches := rfl
@[simp] theorem State.setPath_ckpt (s : State) (k : Nat × Nat × Nat) (p : Path) : (s.setPath k p).ckpt = s.ckpt := rfl
@[simp] theorem State.setPath_digs (s : State) (k : Nat × Nat × Nat) (p : Path) : (s.setPath k p).digs = s.digs := rfl
@[simp] theorem State.setPath_digRun (s : State) (k : Nat × Nat × Nat) (p : Path) : (s.setPath k p).digRun = s.digRun := rfl
@[simp] theorem State.setPath_ras (s : State) (k : Nat × Nat × Nat) (p : Path) : (s.setPath k p).ras = s.ras := rfl
@[simp] theorem State.setPath_pwr (s : State) (k : Nat × Nat × Nat) (p : Path) : (s.setPath k p).pwr = s.pwr := rfl
@[simp] theorem State.setPath_boot (s : State) (k : Nat × Nat × Nat) (p : Path) : (s.setPath k p).boot = s.boot := rfl
@[simp] theorem State.setPath_pins (s : State) (k : Nat × Nat × Nat) (p : Path) : (s.setPath k p).pins = s.pins := rfl
@[simp] theorem State.setPath_jtag (s : State) (k : Nat × Nat × Nat) (p : Path) : (s.setPath k p).jtag = s.jtag := rfl
@[simp] theorem State.setPath_i3cAddr (s : State) (k : Nat × Nat × Nat) (p : Path) : (s.setPath k p).i3cAddr = s.i3cAddr := rfl

/-! ### setCc writes fab alone -/

@[simp] theorem State.setCc_pending (s : State) (h : FabHdr) (e : CCEnt) : (s.setCc h e).pending = s.pending := rfl
@[simp] theorem State.setCc_free (s : State) (h : FabHdr) (e : CCEnt) : (s.setCc h e).free = s.free := rfl
@[simp] theorem State.setCc_out (s : State) (h : FabHdr) (e : CCEnt) : (s.setCc h e).out = s.out := rfl
@[simp] theorem State.setCc_regs (s : State) (h : FabHdr) (e : CCEnt) : (s.setCc h e).regs = s.regs := rfl
@[simp] theorem State.setCc_time (s : State) (h : FabHdr) (e : CCEnt) : (s.setCc h e).time = s.time := rfl
@[simp] theorem State.setCc_sched (s : State) (h : FabHdr) (e : CCEnt) : (s.setCc h e).sched = s.sched := rfl
@[simp] theorem State.setCc_fired (s : State) (h : FabHdr) (e : CCEnt) : (s.setCc h e).fired = s.fired := rfl
@[simp] theorem State.setCc_queues (s : State) (h : FabHdr) (e : CCEnt) : (s.setCc h e).queues = s.queues := rfl
@[simp] theorem State.setCc_handles (s : State) (h : FabHdr) (e : CCEnt) : (s.setCc h e).handles = s.handles := rfl
@[simp] theorem State.setCc_ctl (s : State) (h : FabHdr) (e : CCEnt) : (s.setCc h e).ctl = s.ctl := rfl
@[simp] theorem State.setCc_tiles (s : State) (h : FabHdr) (e : CCEnt) : (s.setCc h e).tiles = s.tiles := rfl
@[simp] theorem State.setCc_parts (s : State) (h : FabHdr) (e : CCEnt) : (s.setCc h e).parts = s.parts := rfl
@[simp] theorem State.setCc_cores (s : State) (h : FabHdr) (e : CCEnt) : (s.setCc h e).cores = s.cores := rfl
@[simp] theorem State.setCc_cache (s : State) (h : FabHdr) (e : CCEnt) : (s.setCc h e).cache = s.cache := rfl
@[simp] theorem State.setCc_hbm (s : State) (h : FabHdr) (e : CCEnt) : (s.setCc h e).hbm = s.hbm := rfl
@[simp] theorem State.setCc_retA (s : State) (h : FabHdr) (e : CCEnt) : (s.setCc h e).retA = s.retA := rfl
@[simp] theorem State.setCc_retB (s : State) (h : FabHdr) (e : CCEnt) : (s.setCc h e).retB = s.retB := rfl
@[simp] theorem State.setCc_colls (s : State) (h : FabHdr) (e : CCEnt) : (s.setCc h e).colls = s.colls := rfl
@[simp] theorem State.setCc_batches (s : State) (h : FabHdr) (e : CCEnt) : (s.setCc h e).batches = s.batches := rfl
@[simp] theorem State.setCc_ckpt (s : State) (h : FabHdr) (e : CCEnt) : (s.setCc h e).ckpt = s.ckpt := rfl
@[simp] theorem State.setCc_digs (s : State) (h : FabHdr) (e : CCEnt) : (s.setCc h e).digs = s.digs := rfl
@[simp] theorem State.setCc_digRun (s : State) (h : FabHdr) (e : CCEnt) : (s.setCc h e).digRun = s.digRun := rfl
@[simp] theorem State.setCc_ras (s : State) (h : FabHdr) (e : CCEnt) : (s.setCc h e).ras = s.ras := rfl
@[simp] theorem State.setCc_pwr (s : State) (h : FabHdr) (e : CCEnt) : (s.setCc h e).pwr = s.pwr := rfl
@[simp] theorem State.setCc_boot (s : State) (h : FabHdr) (e : CCEnt) : (s.setCc h e).boot = s.boot := rfl
@[simp] theorem State.setCc_pins (s : State) (h : FabHdr) (e : CCEnt) : (s.setCc h e).pins = s.pins := rfl
@[simp] theorem State.setCc_jtag (s : State) (h : FabHdr) (e : CCEnt) : (s.setCc h e).jtag = s.jtag := rfl
@[simp] theorem State.setCc_i3cAddr (s : State) (h : FabHdr) (e : CCEnt) : (s.setCc h e).i3cAddr = s.i3cAddr := rfl

/-! ### setSlot writes ckpt alone -/

@[simp] theorem State.setSlot_pending (s : State) (p k v : Nat) : (s.setSlot p k v).pending = s.pending := rfl
@[simp] theorem State.setSlot_free (s : State) (p k v : Nat) : (s.setSlot p k v).free = s.free := rfl
@[simp] theorem State.setSlot_out (s : State) (p k v : Nat) : (s.setSlot p k v).out = s.out := rfl
@[simp] theorem State.setSlot_regs (s : State) (p k v : Nat) : (s.setSlot p k v).regs = s.regs := rfl
@[simp] theorem State.setSlot_time (s : State) (p k v : Nat) : (s.setSlot p k v).time = s.time := rfl
@[simp] theorem State.setSlot_sched (s : State) (p k v : Nat) : (s.setSlot p k v).sched = s.sched := rfl
@[simp] theorem State.setSlot_fired (s : State) (p k v : Nat) : (s.setSlot p k v).fired = s.fired := rfl
@[simp] theorem State.setSlot_queues (s : State) (p k v : Nat) : (s.setSlot p k v).queues = s.queues := rfl
@[simp] theorem State.setSlot_handles (s : State) (p k v : Nat) : (s.setSlot p k v).handles = s.handles := rfl
@[simp] theorem State.setSlot_ctl (s : State) (p k v : Nat) : (s.setSlot p k v).ctl = s.ctl := rfl
@[simp] theorem State.setSlot_tiles (s : State) (p k v : Nat) : (s.setSlot p k v).tiles = s.tiles := rfl
@[simp] theorem State.setSlot_parts (s : State) (p k v : Nat) : (s.setSlot p k v).parts = s.parts := rfl
@[simp] theorem State.setSlot_cores (s : State) (p k v : Nat) : (s.setSlot p k v).cores = s.cores := rfl
@[simp] theorem State.setSlot_cache (s : State) (p k v : Nat) : (s.setSlot p k v).cache = s.cache := rfl
@[simp] theorem State.setSlot_hbm (s : State) (p k v : Nat) : (s.setSlot p k v).hbm = s.hbm := rfl
@[simp] theorem State.setSlot_retA (s : State) (p k v : Nat) : (s.setSlot p k v).retA = s.retA := rfl
@[simp] theorem State.setSlot_retB (s : State) (p k v : Nat) : (s.setSlot p k v).retB = s.retB := rfl
@[simp] theorem State.setSlot_fab (s : State) (p k v : Nat) : (s.setSlot p k v).fab = s.fab := rfl
@[simp] theorem State.setSlot_colls (s : State) (p k v : Nat) : (s.setSlot p k v).colls = s.colls := rfl
@[simp] theorem State.setSlot_batches (s : State) (p k v : Nat) : (s.setSlot p k v).batches = s.batches := rfl
@[simp] theorem State.setSlot_digs (s : State) (p k v : Nat) : (s.setSlot p k v).digs = s.digs := rfl
@[simp] theorem State.setSlot_digRun (s : State) (p k v : Nat) : (s.setSlot p k v).digRun = s.digRun := rfl
@[simp] theorem State.setSlot_ras (s : State) (p k v : Nat) : (s.setSlot p k v).ras = s.ras := rfl
@[simp] theorem State.setSlot_pwr (s : State) (p k v : Nat) : (s.setSlot p k v).pwr = s.pwr := rfl
@[simp] theorem State.setSlot_boot (s : State) (p k v : Nat) : (s.setSlot p k v).boot = s.boot := rfl
@[simp] theorem State.setSlot_pins (s : State) (p k v : Nat) : (s.setSlot p k v).pins = s.pins := rfl
@[simp] theorem State.setSlot_jtag (s : State) (p k v : Nat) : (s.setSlot p k v).jtag = s.jtag := rfl
@[simp] theorem State.setSlot_i3cAddr (s : State) (p k v : Nat) : (s.setSlot p k v).i3cAddr = s.i3cAddr := rfl

/-! ### setTime writes time, and the pulse output at a second (R127) -/

@[simp] theorem State.setTime_pending (s : State) (t : TimeS) : (s.setTime t).pending = s.pending := by
  unfold State.setTime; dsimp only; split <;> rfl
@[simp] theorem State.setTime_free (s : State) (t : TimeS) : (s.setTime t).free = s.free := by
  unfold State.setTime; dsimp only; split <;> rfl
@[simp] theorem State.setTime_out (s : State) (t : TimeS) : (s.setTime t).out = s.out := by
  unfold State.setTime; dsimp only; split <;> rfl
@[simp] theorem State.setTime_regs (s : State) (t : TimeS) : (s.setTime t).regs = s.regs := by
  unfold State.setTime; dsimp only; split <;> rfl
@[simp] theorem State.setTime_sched (s : State) (t : TimeS) : (s.setTime t).sched = s.sched := by
  unfold State.setTime; dsimp only; split <;> rfl
@[simp] theorem State.setTime_fired (s : State) (t : TimeS) : (s.setTime t).fired = s.fired := by
  unfold State.setTime; dsimp only; split <;> rfl
@[simp] theorem State.setTime_queues (s : State) (t : TimeS) : (s.setTime t).queues = s.queues := by
  unfold State.setTime; dsimp only; split <;> rfl
@[simp] theorem State.setTime_handles (s : State) (t : TimeS) : (s.setTime t).handles = s.handles := by
  unfold State.setTime; dsimp only; split <;> rfl
@[simp] theorem State.setTime_ctl (s : State) (t : TimeS) : (s.setTime t).ctl = s.ctl := by
  unfold State.setTime; dsimp only; split <;> rfl
@[simp] theorem State.setTime_tiles (s : State) (t : TimeS) : (s.setTime t).tiles = s.tiles := by
  unfold State.setTime; dsimp only; split <;> rfl
@[simp] theorem State.setTime_parts (s : State) (t : TimeS) : (s.setTime t).parts = s.parts := by
  unfold State.setTime; dsimp only; split <;> rfl
@[simp] theorem State.setTime_cores (s : State) (t : TimeS) : (s.setTime t).cores = s.cores := by
  unfold State.setTime; dsimp only; split <;> rfl
@[simp] theorem State.setTime_cache (s : State) (t : TimeS) : (s.setTime t).cache = s.cache := by
  unfold State.setTime; dsimp only; split <;> rfl
@[simp] theorem State.setTime_hbm (s : State) (t : TimeS) : (s.setTime t).hbm = s.hbm := by
  unfold State.setTime; dsimp only; split <;> rfl
@[simp] theorem State.setTime_retA (s : State) (t : TimeS) : (s.setTime t).retA = s.retA := by
  unfold State.setTime; dsimp only; split <;> rfl
@[simp] theorem State.setTime_retB (s : State) (t : TimeS) : (s.setTime t).retB = s.retB := by
  unfold State.setTime; dsimp only; split <;> rfl
@[simp] theorem State.setTime_fab (s : State) (t : TimeS) : (s.setTime t).fab = s.fab := by
  unfold State.setTime; dsimp only; split <;> rfl
@[simp] theorem State.setTime_colls (s : State) (t : TimeS) : (s.setTime t).colls = s.colls := by
  unfold State.setTime; dsimp only; split <;> rfl
@[simp] theorem State.setTime_batches (s : State) (t : TimeS) : (s.setTime t).batches = s.batches := by
  unfold State.setTime; dsimp only; split <;> rfl
@[simp] theorem State.setTime_ckpt (s : State) (t : TimeS) : (s.setTime t).ckpt = s.ckpt := by
  unfold State.setTime; dsimp only; split <;> rfl
@[simp] theorem State.setTime_digs (s : State) (t : TimeS) : (s.setTime t).digs = s.digs := by
  unfold State.setTime; dsimp only; split <;> rfl
@[simp] theorem State.setTime_digRun (s : State) (t : TimeS) : (s.setTime t).digRun = s.digRun := by
  unfold State.setTime; dsimp only; split <;> rfl
@[simp] theorem State.setTime_ras (s : State) (t : TimeS) : (s.setTime t).ras = s.ras := by
  unfold State.setTime; dsimp only; split <;> rfl
@[simp] theorem State.setTime_pwr (s : State) (t : TimeS) : (s.setTime t).pwr = s.pwr := by
  unfold State.setTime; dsimp only; split <;> rfl
@[simp] theorem State.setTime_boot (s : State) (t : TimeS) : (s.setTime t).boot = s.boot := by
  unfold State.setTime; dsimp only; split <;> rfl
@[simp] theorem State.setTime_jtag (s : State) (t : TimeS) : (s.setTime t).jtag = s.jtag := by
  unfold State.setTime; dsimp only; split <;> rfl
@[simp] theorem State.setTime_i3cAddr (s : State) (t : TimeS) : (s.setTime t).i3cAddr = s.i3cAddr := by
  unfold State.setTime; dsimp only; split <;> rfl

/-! ### Read after write -/

@[simp] theorem State.queue_setQueue (s : State) (q : Nat) (x : Queue) : (s.setQueue q x).queue q = x := by
  simp [State.queue, State.setQueue]

theorem State.queue_setQueue_ne (s : State) {q j : Nat} (x : Queue) (h : j ≠ q) : (s.setQueue q x).queue j = s.queue j := by
  simp [State.queue, State.setQueue, sget_sput_ne _ _ _ h]

@[simp] theorem State.tile_setTile (s : State) (k : Nat) (x : Tile) : (s.setTile k x).tile k = x := by
  simp [State.tile, State.setTile]

theorem State.tile_setTile_ne (s : State) {k j : Nat} (x : Tile) (h : j ≠ k) : (s.setTile k x).tile j = s.tile j := by
  simp [State.tile, State.setTile, sget_sput_ne _ _ _ h]

@[simp] theorem State.part_setPart (s : State) (p : Nat) (x : Part) : (s.setPart p x).part p = x := by
  simp [State.part, State.setPart]

theorem State.part_setPart_ne (s : State) {p j : Nat} (x : Part) (h : j ≠ p) : (s.setPart p x).part j = s.part j := by
  simp [State.part, State.setPart, sget_sput_ne _ _ _ h]

@[simp] theorem State.core_setCore (s : State) (c : Nat) (x : Cpu) : (s.setCore c x).core c = x := by
  simp [State.core, State.setCore]

theorem State.core_setCore_ne (s : State) {c j : Nat} (x : Cpu) (h : j ≠ c) : (s.setCore c x).core j = s.core j := by
  simp [State.core, State.setCore, sget_sput_ne _ _ _ h]

@[simp] theorem State.stack_setStack (s : State) (k : Nat) (x : StackS) : (s.setStack k x).stack k = x := by
  simp [State.stack, State.setStack]

theorem State.stack_setStack_ne (s : State) {k j : Nat} (x : StackS) (h : j ≠ k) : (s.setStack k x).stack j = s.stack j := by
  simp [State.stack, State.setStack, sget_sput_ne _ _ _ h]

@[simp] theorem State.link_setLink (s : State) (n : Nat) (x : LinkS) : (s.setLink n x).link n = x := by
  simp [State.link, State.setLink]

theorem State.link_setLink_ne (s : State) {n j : Nat} (x : LinkS) (h : j ≠ n) : (s.setLink n x).link j = s.link j := by
  simp [State.link, State.setLink, sget_sput_ne _ _ _ h]

@[simp] theorem State.mirror_setMirror (s : State) (p : Nat) (x : Mirror) : (s.setMirror p x).mirror p = x := by
  simp [State.mirror, State.setMirror]

theorem State.mirror_setMirror_ne (s : State) {p j : Nat} (x : Mirror) (h : j ≠ p) : (s.setMirror p x).mirror j = s.mirror j := by
  simp [State.mirror, State.setMirror, sget_sput_ne _ _ _ h]

@[simp] theorem State.queue_modQueue (s : State) (q : Nat) (f : Queue → Queue) : (s.modQueue q f).queue q = f (s.queue q) := by
  simp [State.modQueue]

theorem State.queue_modQueue_ne (s : State) {q j : Nat} (f : Queue → Queue) (h : j ≠ q) : (s.modQueue q f).queue j = s.queue j :=
  s.queue_setQueue_ne _ h

@[simp] theorem State.tile_modTile (s : State) (k : Nat) (f : Tile → Tile) : (s.modTile k f).tile k = f (s.tile k) := by
  simp [State.modTile]

theorem State.tile_modTile_ne (s : State) {k j : Nat} (f : Tile → Tile) (h : j ≠ k) : (s.modTile k f).tile j = s.tile j :=
  s.tile_setTile_ne _ h

@[simp] theorem State.part_modPart (s : State) (p : Nat) (f : Part → Part) : (s.modPart p f).part p = f (s.part p) := by
  simp [State.modPart]

theorem State.part_modPart_ne (s : State) {p j : Nat} (f : Part → Part) (h : j ≠ p) : (s.modPart p f).part j = s.part j :=
  s.part_setPart_ne _ h

@[simp] theorem State.core_modCore (s : State) (c : Nat) (f : Cpu → Cpu) : (s.modCore c f).core c = f (s.core c) := by
  simp [State.modCore]

theorem State.core_modCore_ne (s : State) {c j : Nat} (f : Cpu → Cpu) (h : j ≠ c) : (s.modCore c f).core j = s.core j :=
  s.core_setCore_ne _ h

theorem sfind_sins_self {α : Type} (m : SMap α) (i : Nat) (v : α) : sfind? (sins m i v) i = some v := by
  induction m with
  | nil => simp [sins, sfind?]
  | cons e m ih =>
    obtain ⟨k, x⟩ := e
    simp only [sins]
    split
    · simp [sfind?]
    · split
      · simp [sfind?]
      · rename_i h1 h2; simp [sfind?, h2, ih]

theorem sfind_sins_ne {α : Type} (m : SMap α) {i j : Nat} (v : α) (h : j ≠ i) : sfind? (sins m i v) j = sfind? m j := by
  induction m with
  | nil => simp [sins, sfind?, h]
  | cons e m ih =>
    obtain ⟨k, x⟩ := e
    simp only [sins]
    split
    · simp [sfind?, h]
    · split
      · rename_i h1 h2; subst h2; simp [sfind?, h]
      · simp [sfind?, ih]

theorem sfind_sdel_self {α : Type} (m : SMap α) (i : Nat) : sfind? (sdel m i) i = none := by
  induction m with
  | nil => rfl
  | cons e m ih =>
    obtain ⟨k, v⟩ := e
    unfold sdel at ih ⊢
    by_cases h : k = i <;> simp [sfind?, h, ih]
    intro h'; exact absurd h'.symm h

theorem sfind_sdel_ne {α : Type} (m : SMap α) {i j : Nat} (h : j ≠ i) : sfind? (sdel m i) j = sfind? m j := by
  induction m with
  | nil => rfl
  | cons e m ih =>
    obtain ⟨k, v⟩ := e
    unfold sdel at ih ⊢
    by_cases hk : k = i
    · subst hk; simp [sfind?, h, ih]
    · simp [sfind?, hk, ih]

@[simp] theorem State.hslot_setHslot (s : State) (i : Nat) (v : HRec) : (s.setHslot i v).hslot i = some v :=
  sfind_sins_self _ _ _

theorem State.hslot_setHslot_ne (s : State) {i j : Nat} (v : HRec) (h : j ≠ i) : (s.setHslot i v).hslot j = s.hslot j :=
  sfind_sins_ne _ _ h

@[simp] theorem State.coll_setColl (s : State) (c : Nat) (v : Coll) : (s.setColl c v).coll c = some v := sfind_sins_self _ _ _

theorem State.coll_setColl_ne (s : State) {c j : Nat} (v : Coll) (h : j ≠ c) : (s.setColl c v).coll j = s.coll j :=
  sfind_sins_ne _ _ h

@[simp] theorem State.coll_dropColl (s : State) (c : Nat) : (s.dropColl c).coll c = none := sfind_sdel_self _ _

theorem State.coll_dropColl_ne (s : State) {c j : Nat} (h : j ≠ c) : (s.dropColl c).coll j = s.coll j := sfind_sdel_ne _ h

theorem regBlock_lt (b : Nat) : (regBlock b).all (fun d => decide (d.reset < 2 ^ 64)) = true := by
  unfold regBlock
  split <;> decide +kernel

/-- Every reset value fits in a register. -/
theorem regReset_lt (o : Nat) : regReset o < 2 ^ 64 := by
  unfold regReset regDesc
  split
  · rename_i d h
    exact of_decide_eq_true (List.all_eq_true.1 (regBlock_lt _) d (List.mem_of_find?_eq_some h))
  · decide

/-- A stored register reads back the 64 bits written. -/
@[simp] theorem State.rd_wr (s : State) (o v : Nat) : (s.wr o v).rd o = v % 2 ^ 64 := by
  by_cases h : BitVec.ofNat 64 v = BitVec.ofNat 64 (regReset o)
  · have := congrArg BitVec.toNat h
    simp only [BitVec.toNat_ofNat, Nat.mod_eq_of_lt (regReset_lt o)] at this
    simp [State.rd, State.wr, h, sfind_sdel_self, this]
  · simp [State.rd, State.wr, h, sfind_sins_self]

/-- Storing a register leaves every other. -/
theorem State.rd_wr_ne (s : State) {o j : Nat} (v : Nat) (h : j ≠ o) : (s.wr o v).rd j = s.rd j := by
  by_cases h' : BitVec.ofNat 64 v = BitVec.ofNat 64 (regReset o)
  · simp [State.rd, State.wr, h', sfind_sdel_ne _ h]
  · simp [State.rd, State.wr, h', sfind_sins_ne _ _ h]

/-- Setting a field leaves every other register. -/
theorem State.rd_setFld_ne (s : State) {o j : Nat} (hi lo v : Nat) (h : j ≠ o) : (s.setFld o hi lo v).rd j = s.rd j :=
  s.rd_wr_ne _ h

end Sys2Proof.Machine
end

