-- ==== Sys2Proof/Laws/Ops.lean ====
section
/-! SUPPORT. What the shared operations can do, said once each: stores to memory and the canonical form they keep, the
instruction step of a core and how it ends, a core's registers. -/

namespace Sys2Proof.Machine

/-! ### Memory after reset -/

/-- Every memory is in canonical form after reset. -/
theorem State.reset_wf :
    Mem.wf State.reset.hbm.mem = true ∧ Mem.wf State.reset.retA = true ∧ Mem.wf State.reset.retB = true ∧
      Mem.wf State.reset.boot.flash = true ∧ ∀ k, Mem.wf (State.reset.tile k).store = true :=
  ⟨rfl, rfl, rfl, rfl, fun _ => rfl⟩

/-! ### Stores to HBM (R297) -/

/-- A write within a block stores all its bytes or none. -/
theorem HbmS.writeBlock_mem (h : HbmS) (a : Nat) (bs : List Byte) :
    (h.writeBlock a bs).mem = mwrite h.mem a bs ∨ ((h.writeBlock a bs).mem = h.mem ∧ h.poisoned a = true) := by
  unfold HbmS.writeBlock
  split
  · exact .inl rfl
  · split
    · rename_i hp; exact .inr ⟨rfl, hp⟩
    · exact .inl rfl

theorem HbmS.writeBlock_wf (h : HbmS) (a : Nat) (bs : List Byte) (hw : Mem.wf h.mem = true) :
    Mem.wf (h.writeBlock a bs).mem = true := by
  rcases h.writeBlock_mem a bs with e | ⟨e, -⟩ <;> rw [e]
  · exact Mem.wf_mwrite _ _ _ hw
  · exact hw

theorem HbmS.foldl_writeBlock_wf (ps : List (Nat × List Byte)) (h : HbmS) (hw : Mem.wf h.mem = true) :
    Mem.wf (ps.foldl (fun h p => h.writeBlock p.1 p.2) h).mem = true := by
  induction ps generalizing h with
  | nil => exact hw
  | cons p ps ih => exact ih _ (h.writeBlock_wf p.1 p.2 hw)

/-- A write to HBM keeps the canonical form. -/
theorem HbmS.write_wf (h : HbmS) (a : Nat) (bs : List Byte) (hw : Mem.wf h.mem = true) :
    Mem.wf (h.write a bs).mem = true := HbmS.foldl_writeBlock_wf _ h hw

/-- Every piece of a cut lies inside the range that was cut. -/
theorem pieces64_inside (fuel a : Nat) (bs : List Byte) :
    ∀ p ∈ pieces64 fuel a bs, a ≤ p.1 ∧ p.1 + p.2.length ≤ a + bs.length := by
  induction fuel generalizing a bs with
  | zero => simp [pieces64]
  | succ n ih =>
    unfold pieces64
    split
    · simp
    · intro p hp
      rcases List.mem_cons.1 hp with rfl | hp
      · simp
      · have := ih _ _ p hp
        simp only [List.length_drop] at this
        by_cases hl : 64 - a % 64 ≤ bs.length
        · omega
        · have hd : bs.drop (64 - a % 64) = [] := List.drop_eq_nil_of_le (by omega)
          rw [hd] at hp
          cases n <;> simp [pieces64] at hp

theorem HbmS.foldl_writeBlock_out (ps : List (Nat × List Byte)) (h : HbmS) (lo hi j : Nat) (hj : j < lo ∨ hi ≤ j)
    (hp : ∀ p ∈ ps, lo ≤ p.1 ∧ p.1 + p.2.length ≤ hi) :
    mget (ps.foldl (fun h p => h.writeBlock p.1 p.2) h).mem j = mget h.mem j := by
  induction ps generalizing h with
  | nil => rfl
  | cons p ps ih =>
    have h1 := hp p (by simp)
    rw [List.foldl_cons, ih _ fun q hq => hp q (by simp [hq])]
    rcases h.writeBlock_mem p.1 p.2 with e | ⟨e, -⟩ <;> rw [e]
    exact mget_mwrite_out _ _ _ _ (by omega)

/-- A write to HBM changes no byte outside it. -/
theorem HbmS.mget_write_out (h : HbmS) (a j : Nat) (bs : List Byte) (hj : j < a ∨ a + bs.length ≤ j) :
    mget (h.write a bs).mem j = mget h.mem j :=
  HbmS.foldl_writeBlock_out _ h a (a + bs.length) j hj (pieces64_inside _ a bs)

/-! ### The digest and the dirty map around a store touch no memory -/

theorem State.hashChunk_eq (s : State) (w g : Nat) : ∃ m, s.hashChunk w g = { s with digRun := m } := by
  unfold State.hashChunk
  split
  · exact ⟨_, rfl⟩
  · split <;> exact ⟨_, rfl⟩

theorem State.foldl_hashChunk_eq (ps : List Nat) (s : State) (w : Nat) :
    ∃ m, ps.foldl (fun s g => s.hashChunk w g) s = { s with digRun := m } := by
  induction ps generalizing s with
  | nil => exact ⟨_, rfl⟩
  | cons p ps ih =>
    obtain ⟨m, h⟩ := s.hashChunk_eq w p
    obtain ⟨m', h'⟩ := ih { s with digRun := m }
    exact ⟨m', by rw [List.foldl_cons, h, h']⟩

theorem State.foldl_hashAll_eq (es : SMap DigRun) (ps : List Nat) (s : State) :
    ∃ m, es.foldl (fun s e => ps.foldl (fun s g => s.hashChunk e.1 g) s) s = { s with digRun := m } := by
  induction es generalizing s with
  | nil => exact ⟨_, rfl⟩
  | cons e es ih =>
    obtain ⟨m, h⟩ := s.foldl_hashChunk_eq ps e.1
    obtain ⟨m', h'⟩ := ih { s with digRun := m }
    exact ⟨m', by rw [List.foldl_cons, h, h']⟩

theorem State.foldl_dirty_eq (ps : List Nat) (f : State → Nat → State)
    (hf : ∀ s p, ∃ c, f s p = { s with ckpt := c }) (s : State) : ∃ c, ps.foldl f s = { s with ckpt := c } := by
  induction ps generalizing s with
  | nil => exact ⟨_, rfl⟩
  | cons p ps ih =>
    obtain ⟨m, h⟩ := hf s p
    obtain ⟨m', h'⟩ := ih { s with ckpt := m }
    exact ⟨m', by rw [List.foldl_cons, h, h']⟩

theorem State.markDirty_eq (s : State) (g : Nat) : ∃ c, s.markDirty g = { s with ckpt := c } := by
  unfold State.markDirty
  split
  · refine State.foldl_dirty_eq _ _ (fun s p => ?_) s
    dsimp only
    split <;> exact ⟨_, rfl⟩
  · exact ⟨_, rfl⟩

/-- All that a store to HBM writes: the memory, the hashes of a digest that has to see the chunk first (R441) and the map of
the chunks written since the last seal (R454). -/
theorem State.hbmPut_eq (s : State) (a : Nat) (bs : List Byte) (hb : bs ≠ []) :
    ∃ d c, s.hbmPut a bs = { s with hbm := s.hbm.write a bs, digRun := d, ckpt := c } := by
  unfold State.hbmPut
  have : bs.isEmpty = false := by cases bs <;> simp_all
  simp only [this, Bool.false_eq_true, if_false]
  obtain ⟨d, hd⟩ := State.foldl_hashAll_eq s.digRun (upFrom (a / 4096) ((a + bs.length - 1) / 4096 + 1 - a / 4096)) s
  rw [hd]
  obtain ⟨c, hc⟩ := State.foldl_dirty_eq (upFrom (a / 4096) ((a + bs.length - 1) / 4096 + 1 - a / 4096)) State.markDirty
    State.markDirty_eq { s with hbm := s.hbm.write a bs, digRun := d }
  exact ⟨d, c, hc⟩

theorem State.hbmPut_nil (s : State) (a : Nat) : s.hbmPut a [] = s := rfl

theorem State.hbmPut_wf (s : State) (a : Nat) (bs : List Byte) (hw : Mem.wf s.hbm.mem = true) :
    Mem.wf (s.hbmPut a bs).hbm.mem = true := by
  by_cases hb : bs = []
  · subst hb; exact hw
  · obtain ⟨d, c, e⟩ := s.hbmPut_eq a bs hb
    rw [e]
    exact s.hbm.write_wf a bs hw

/-- A store to HBM changes no byte of HBM outside it. -/
theorem State.mget_hbmPut_out (s : State) (a j : Nat) (bs : List Byte) (hj : j < a ∨ a + bs.length ≤ j) :
    mget (s.hbmPut a bs).hbm.mem j = mget s.hbm.mem j := by
  by_cases hb : bs = []
  · subst hb; rfl
  · obtain ⟨d, c, e⟩ := s.hbmPut_eq a bs hb
    rw [e]
    exact s.hbm.mget_write_out a j bs hj

/-! ### Stores by local address -/

/-- What a write within a block can reach, by region (R29, R539). -/
theorem State.writePiece_cases (s : State) (a : Nat) (bs : List Byte) :
    (s.region a = .hbm ∧ s.writePiece a bs = (s.hbmPut a bs, true)) ∨
    (∃ k o, s.region a = .tileStore k o ∧
      s.writePiece a bs = (s.modTile k fun t => { t with store := mwrite t.store o bs }, true)) ∨
    (∃ k o, s.region a = .tilePage k o ∧ s.writePiece a bs = (s.modTile k fun t => t.pageWrite o bs, true)) ∨
    s.writePiece a bs = (s, false) := by
  unfold State.writePiece
  split <;> simp_all

theorem State.writePiece_wf (s : State) (a : Nat) (bs : List Byte) (hw : Mem.wf s.hbm.mem = true) :
    Mem.wf (s.writePiece a bs).1.hbm.mem = true := by
  rcases s.writePiece_cases a bs with ⟨-, e⟩ | ⟨k, o, -, e⟩ | ⟨k, o, -, e⟩ | e <;> rw [e]
  · exact s.hbmPut_wf a bs hw
  all_goals exact hw

theorem State.foldl_writePiece_wf (ps : List (Nat × List Byte)) (r : State × Bool) (hw : Mem.wf r.1.hbm.mem = true) :
    Mem.wf (ps.foldl (fun r p => let w := r.1.writePiece p.1 p.2; (w.1, r.2 && w.2)) r).1.hbm.mem = true := by
  induction ps generalizing r with
  | nil => exact hw
  | cons p ps ih => exact ih _ (r.1.writePiece_wf p.1 p.2 hw)

/-- A store by local address keeps the canonical form of HBM. -/
theorem State.writeMem_wf (s : State) (a : Nat) (bs : List Byte) (hw : Mem.wf s.hbm.mem = true) :
    Mem.wf (s.writeMem a bs).1.hbm.mem = true := State.foldl_writePiece_wf _ (s, true) hw

/-! ### The other memories -/

theorem applyUpds_wf (us : List Upd) (m : Mem) (n : Nat) (acc : Option Nat) (hw : Mem.wf m = true) :
    Mem.wf (applyUpds m n acc us) = true := by
  unfold applyUpds
  induction us generalizing m with
  | nil => exact hw
  | cons u us ih =>
    refine ih _ ?_
    split <;> exact Mem.wf_mstore _ _ _ _ hw

theorem swf_append {α : Type} [DecidableEq α] (d : α) (m m' : SMap α) (hm : swf d m = true) (hm' : swf d m' = true)
    (h : ∀ e ∈ m, above e.1 m') : swf d (m ++ m') = true := by
  induction m with
  | nil => exact hm'
  | cons e m ih =>
    obtain ⟨k, v⟩ := e
    obtain ⟨hv, ha, hw⟩ := (swf_cons d k v m).1 hm
    refine (swf_cons d k v (m ++ m')).2 ⟨hv, ?_, ih hw fun e he => h e (by simp [he])⟩
    intro e he
    rcases List.mem_append.1 he with he | he
    · exact ha e he
    · exact h (k, v) (by simp) e he

theorem swf_shift {α : Type} [DecidableEq α] (d : α) (m : SMap α) (lo off : Nat) (hm : swf d m = true)
    (hlo : ∀ e ∈ m, lo ≤ e.1) : swf d (m.map fun e => (e.1 - lo + off, e.2)) = true := by
  induction m with
  | nil => rfl
  | cons e m ih =>
    obtain ⟨k, v⟩ := e
    obtain ⟨hv, ha, hw⟩ := (swf_cons d k v m).1 hm
    have hk := hlo (k, v) (by simp)
    refine (swf_cons d _ v _).2 ⟨hv, ?_, ih hw fun e he => hlo e (by simp [he])⟩
    intro e he
    obtain ⟨e', he', rfl⟩ := List.mem_map.1 he
    have := ha e' he'
    have := hlo e' (by simp [he'])
    dsimp only at *
    omega

/-- Moving the staged firmware into the running area keeps the canonical form. -/
theorem State.areaSwitch_wf (s : State) (hw : Mem.wf s.retA = true) : Mem.wf s.areaSwitch.retA = true := by
  unfold State.areaSwitch
  refine swf_append _ _ _ (swf_filter _ _ _ hw) (swf_shift _ _ _ _ (swf_filter _ _ _ hw) ?_) ?_
  · intro e he
    simpa using (List.mem_filter.1 he).2
  · intro e he e' he'
    obtain ⟨x, hx, rfl⟩ := List.mem_map.1 he'
    have h1 := (List.mem_filter.1 he).2
    simp only [decide_eq_true_eq] at h1
    dsimp only
    omega

/-! ### The instruction step of a core -/

/-- The core does not execute. -/
theorem State.coreStep_stays {s : State} {c word : Nat} {body : State → CRes} (h : s.coreRuns c = false) :
    s.coreStep c word body = s := by
  simp [State.coreStep, h]

/-- A pending enabled interrupt is taken in place of the instruction (R326). -/
theorem State.coreStep_irq {s : State} {c word i : Nat} {body : State → CRes} (h : s.coreRuns c = true)
    (hi : (s.core c).irq = some i) : s.coreStep c word body = s.takeIrq c i := by
  simp [State.coreStep, h, hi]

/-- The instruction is fetched and executed. -/
theorem State.coreStep_runs {s s1 : State} {c word : Nat} {body : State → CRes} (h : s.coreRuns c = true)
    (hi : (s.core c).irq = none) (hf : s.coreFetch c = (s1, .ok [])) :
    s.coreStep c word body = (body s1).finish c word := by
  simp [State.coreStep, h, hi, hf]

/-- Everything an instruction step can do. -/
theorem State.coreStep_cases (s : State) (c word : Nat) (body : State → CRes) :
    s.coreStep c word body = s ∨
    (∃ i, (s.core c).irq = some i ∧ s.coreStep c word body = s.takeIrq c i) ∨
    (∃ s1 cause detail val, s.coreFetch c = (s1, .trap cause detail val) ∧
      s.coreStep c word body =
        (s1.syncTrap c cause detail val (s1.free1 % 2 ^ 32) (s1.core c).pc.toNat).freed) ∨
    (∃ s1, s.coreFetch c = (s1, .waits) ∧ s.coreStep c word body = s1) ∨
    (∃ s1 m, s.coreFetch c = (s1, m) ∧ s.coreStep c word body = (body s1).finish c word) := by
  unfold State.coreStep
  split
  · exact .inl rfl
  · split
    · rename_i i hi; exact .inr (.inl ⟨i, hi, rfl⟩)
    · split
      · rename_i h; exact .inr (.inr (.inl ⟨_, _, _, _, h, rfl⟩))
      · rename_i h; exact .inr (.inr (.inr (.inl ⟨_, h, rfl⟩)))
      · rename_i h; exact .inr (.inr (.inr (.inr ⟨_, _, h, rfl⟩)))

@[simp] theorem State.setPc_eq (s : State) (c v : Nat) :
    s.setPc c v = s.modCore c fun k => { k with pc := BitVec.ofNat 64 v } := rfl

/-- An instruction that completes leaves the pc four bytes on, and all else as its body left it. -/
theorem CRes.finish_done (s : State) (c word : Nat) :
    (CRes.done s).finish c word = s.modCore c fun k => { k with pc := k.pc + 4 } := by
  have h : BitVec.ofNat 64 ((s.core c).pc.toNat + 4) = (s.core c).pc + 4 := by
    apply BitVec.eq_of_toNat_eq; simp
  simp [CRes.finish, State.modCore, h]

/-- A synchronous cause writes one core and nothing else (R327, R329). -/
theorem State.syncTrap_eq (s : State) (c cause detail val word ret : Nat) :
    s.syncTrap c cause detail val word ret =
      s.setCore c
        (if (s.core c).xact then
          { s.core c with run := .frozen, haltFurrow := s.furrow, shadow := s.shadowsOf c (s.core c) cause detail val word }
        else (s.core c).trap cause detail val ret) := by
  unfold State.syncTrap
  dsimp only
  split <;> rfl

/-- However an instruction ends, its end writes one core and nothing else. -/
theorem CRes.finish_frame (r : CRes) (c word : Nat) :
    ∃ (s : State) (k : Cpu),
      (r = .done s ∨ (∃ t, r = .jump s t) ∨ (∃ x d v, r = .trap s x d v) ∨ (∃ x d v, r = .trapNext s x d v) ∨
        r = .waits s ∨ (∃ va, r = .stall s va)) ∧
      (r.finish c word = s ∨ r.finish c word = s.setCore c k) := by
  cases r with
  | done s => exact ⟨s, _, .inl rfl, .inr rfl⟩
  | jump s t => exact ⟨s, _, .inr (.inl ⟨t, rfl⟩), .inr rfl⟩
  | trap s x d v => exact ⟨s, _, .inr (.inr (.inl ⟨x, d, v, rfl⟩)), .inr (State.syncTrap_eq ..)⟩
  | trapNext s x d v => exact ⟨s, _, .inr (.inr (.inr (.inl ⟨x, d, v, rfl⟩))), .inr (State.syncTrap_eq ..)⟩
  | waits s => exact ⟨s, s.core c, .inr (.inr (.inr (.inr (.inl rfl)))), .inl rfl⟩
  | stall s va => exact ⟨s, _, .inr (.inr (.inr (.inr (.inr ⟨va, rfl⟩)))), .inr rfl⟩

/-! ### A core's registers -/

@[simp] theorem Cpu.reg_zero (k : Cpu) : k.reg 0 = 0 := by simp [Cpu.reg]

@[simp] theorem Cpu.setReg_zero (k : Cpu) (v : Nat) : k.setReg 0 v = k := by simp [Cpu.setReg]

/-- Writing an integer register touches the three register stores and nothing else of the core. -/
theorem Cpu.setReg_eq (k : Cpu) (r v : Nat) :
    ∃ g w t, k.setReg r v = { k with g := g, win := w, trapw := t } := by
  unfold Cpu.setReg
  dsimp only
  split
  · exact ⟨k.g, k.win, k.trapw, rfl⟩
  · split
    · exact ⟨_, k.win, k.trapw, rfl⟩
    · split
      · exact ⟨k.g, k.win, _, rfl⟩
      · split <;> exact ⟨k.g, _, k.trapw, rfl⟩

/-- An integer register reads back the 64 bits written; g0 reads zero. -/
theorem Cpu.reg_setReg (k : Cpu) {r : Nat} (v : Nat) (h : r ≠ 0) : (k.setReg r v).reg r = v % 2 ^ 64 := by
  by_cases h1 : r < 16
  · simp [Cpu.setReg, Cpu.reg, h, h1]
  · by_cases h2 : k.xact = true
    · simp [Cpu.setReg, Cpu.reg, h, h1, h2]
    · by_cases h3 : r < 24
      · simp [Cpu.setReg, Cpu.reg, h, h1, h2, h3]
      · simp [Cpu.setReg, Cpu.reg, h, h1, h2, h3]

/-- The two windows a core sees are different storage: writing one integer register leaves every other. -/
theorem Cpu.reg_setReg_ne (k : Cpu) {r j : Nat} (v : Nat) (h : j ≠ r) (hr : r < 40) (hj : j < 40) :
    (k.setReg r v).reg j = k.reg j := by
  by_cases h0 : r = 0
  · simp [Cpu.setReg, h0]
  by_cases h1 : r < 16
  · simp only [Cpu.setReg, h0, h1, if_true, if_false, Cpu.reg]
    split
    · rfl
    · split
      · rw [sget_sput_ne _ _ _ h]
      · rfl
  · by_cases h2 : k.xact = true
    · simp only [Cpu.setReg, h0, h1, h2, if_true, if_false, Cpu.reg]
      split
      · rfl
      · split
        · rfl
        · rw [sget_sput_ne _ _ _ (by omega)]
    · have hp : winPrev k.wsel < 11 ∧ winPrev k.wsel ≠ k.wsel := by unfold winPrev; omega
      by_cases h3 : r < 24
      · simp only [Cpu.setReg, h0, h1, h2, h3, if_true, if_false, Cpu.reg, Bool.false_eq_true]
        split
        · rfl
        · split
          · rfl
          · split
            · rw [sget_sput_ne _ _ _ (by omega)]
            · rw [sget_sput_ne _ _ _ (by omega)]
      · simp only [Cpu.setReg, h0, h1, h2, h3, if_false, Cpu.reg, Bool.false_eq_true]
        split
        · rfl
        · split
          · rfl
          · split
            · rw [sget_sput_ne _ _ _ (by omega)]
            · rw [sget_sput_ne _ _ _ (by omega)]

/-- A register operation that computes: its result, and the flags it adds. -/
theorem State.coreAlu_done {s s1 : State} {c op fn : Nat} {rd ra rb : BitVec 6} {w32 un : Bool}
    {f : Nat → Nat → Nat → Option IRes} {r g : Nat} (h : s.coreRuns c = true) (hi : (s.core c).irq = none)
    (hf : s.coreFetch c = (s1, .ok [])) (h1 : rd.toNat < 40) (h2 : ra.toNat < 40) (h3 : rb.toNat < 40)
    (hr : f (if w32 then 32 else 64) ((s1.core c).reg ra.toNat % 2 ^ (if w32 then 32 else 64))
      ((s1.core c).reg rb.toNat % 2 ^ (if w32 then 32 else 64)) = some (r, g)) :
    s.coreAlu c op fn rd ra rb w32 un f =
      (s1.setCore c (((s1.core c).setReg rd.toNat (if w32 then sext32 r else r)).orFlag g)).modCore c
        fun k => { k with pc := k.pc + 4 } := by
  unfold State.coreAlu
  rw [State.coreStep_runs h hi hf]
  simp only [regOk, h1, h2, h3, decide_true, Bool.and_self, Bool.or_true, Bool.not_true, Bool.false_eq_true, if_false, hr]
  exact CRes.finish_done _ _ _

/-! ### Interrupts and handles -/

/-- An interrupt writes one core. -/
theorem State.raiseIrq_eq (s : State) (c i val : Nat) : ∃ k, s.raiseIrq c i val = s.setCore c k := ⟨_, rfl⟩

theorem State.foldl_cores_eq (cs : List Nat) (f : State → Nat → State)
    (hf : ∀ s c, ∃ m, f s c = { s with cores := m }) (s : State) : ∃ m, cs.foldl f s = { s with cores := m } := by
  induction cs generalizing s with
  | nil => exact ⟨_, rfl⟩
  | cons c cs ih =>
    obtain ⟨m, h⟩ := hf s c
    obtain ⟨m', h'⟩ := ih { s with cores := m }
    exact ⟨m', by rw [List.foldl_cons, h, h']⟩

/-- An interrupt to a partition writes cores alone. -/
theorem State.raisePart_eq (s : State) (p i val : Nat) : ∃ m, s.raisePart p i val = { s with cores := m } :=
  State.foldl_cores_eq _ _ (fun _ _ => ⟨_, rfl⟩) s

/-- A handle that moves changes the handle table alone. -/
theorem State.hmove_eq (s : State) (i : Nat) (st : HState) : ∃ m, s.hmove i st = { s with handles := m } := by
  unfold State.hmove State.modHslot
  split <;> exact ⟨_, rfl⟩

/-! ### Status records -/

theorem State.foldl_writePiece_eq (ps : List (Nat × List Byte)) (r : State × Bool) :
    ∃ h d c t, (ps.foldl (fun r p => let w := r.1.writePiece p.1 p.2; (w.1, r.2 && w.2)) r).1 =
      { r.1 with hbm := h, digRun := d, ckpt := c, tiles := t } := by
  induction ps generalizing r with
  | nil => exact ⟨_, _, _, _, rfl⟩
  | cons p ps ih =>
    have hw : ∃ h d c t, (r.1.writePiece p.1 p.2).1 = { r.1 with hbm := h, digRun := d, ckpt := c, tiles := t } := by
      rcases r.1.writePiece_cases p.1 p.2 with ⟨-, e⟩ | ⟨k, o, -, e⟩ | ⟨k, o, -, e⟩ | e <;> rw [e]
      · by_cases hb : p.2 = []
        · rw [hb]; exact ⟨_, _, _, _, rfl⟩
        · obtain ⟨d, c, e⟩ := r.1.hbmPut_eq p.1 p.2 hb
          rw [e]; exact ⟨_, _, _, _, rfl⟩
      all_goals exact ⟨_, _, _, _, rfl⟩
    obtain ⟨h, d, c, t, e⟩ := hw
    obtain ⟨h', d', c', t', e'⟩ := ih ((r.1.writePiece p.1 p.2).1, r.2 && (r.1.writePiece p.1 p.2).2)
    refine ⟨h', d', c', t', ?_⟩
    rw [List.foldl_cons, e', e]

/-- All that a store by local address can write: HBM with what goes with it, and tiles. -/
theorem State.writeMem_eq (s : State) (a : Nat) (bs : List Byte) :
    ∃ h d c t, (s.writeMem a bs).1 = { s with hbm := h, digRun := d, ckpt := c, tiles := t } :=
  State.foldl_writePiece_eq _ (s, true)

/-- All that a write to an address of a command can write: memory, or something put out. -/
theorem State.dmaWrite_eq (s : State) (q a : Nat) (bs : List Byte) :
    ∃ h d c t o, s.dmaWrite q a bs = { s with hbm := h, digRun := d, ckpt := c, tiles := t, out := o } := by
  unfold State.dmaWrite
  split
  · exact ⟨_, _, _, _, _, rfl⟩
  · obtain ⟨h, d, c, t, e⟩ := s.writeMem_eq (bits a 47 0) bs
    exact ⟨h, d, c, t, s.out, by rw [e]⟩
  · exact ⟨_, _, _, _, _, rfl⟩

/-- anchored_through moves in a queue alone. -/
theorem State.anchor_eq (s : State) (q : Nat) : ∃ m, s.anchor q = { s with queues := m } := by
  unfold State.anchor
  dsimp only
  split <;> exact ⟨_, rfl⟩

/-- A final record releases the journal entry, or tells the buddy. -/
theorem State.entryFinal_eq (s : State) (q seq : Nat) :
    ∃ m o, s.entryFinal q seq = { s with queues := m, out := o } := by
  unfold State.entryFinal
  dsimp only
  split
  · exact ⟨_, _, rfl⟩
  · split
    · obtain ⟨m, e⟩ := State.anchor_eq
        (s.setQueue q { s.queue q with entries := (s.queue q).entries.filter fun e => e.seq != seq }) q
      exact ⟨m, s.out, by rw [e]; rfl⟩
    · obtain ⟨m, e⟩ := State.anchor_eq
        ((s.setQueue q ((s.queue q).modEntry seq fun e => { e with stage := .done })).emit (.mirror 0x31 [q, seq])) q
      exact ⟨m, _, by rw [e]; rfl⟩

theorem State.entryFinal_of {s u : State} (q seq : Nat)
    (hu : ∃ h d c t o m, u = { s with hbm := h, digRun := d, ckpt := c, tiles := t, out := o, queues := m }) :
    ∃ h d c t o m,
      u.entryFinal q seq = { s with hbm := h, digRun := d, ckpt := c, tiles := t, out := o, queues := m } := by
  obtain ⟨h, d, c, t, o, m, rfl⟩ := hu
  obtain ⟨m', o', e⟩ := State.entryFinal_eq { s with hbm := h, digRun := d, ckpt := c, tiles := t, out := o, queues := m } q seq
  exact ⟨h, d, c, t, o', m', e⟩

/-- All that a status record can write (R94, R95): the ring in memory, the queue, what is put out. -/
theorem State.writeRec_eq (s : State) (r : Rec) :
    ∃ h d c t o m, s.writeRec r = { s with hbm := h, digRun := d, ckpt := c, tiles := t, out := o, queues := m } := by
  unfold State.writeRec
  dsimp only
  obtain ⟨h, d, c, t, o, e⟩ := s.dmaWrite_eq r.queue
    (s.fld (aIntkQCqBase r.queue) 63 12 * 4096 + 32 * (s.queue r.queue).cqPos)
    (recBytes r s.furrow s.quality (s.queue r.queue).cqPhase)
  rw [e]
  split <;> split
  all_goals first
    | exact ⟨h, d, c, t, _, _, rfl⟩
    | exact State.entryFinal_of _ _ ⟨h, d, c, t, _, _, rfl⟩

theorem State.postRec_eq (s : State) (r : Rec) :
    ∃ h d c t o m, s.postRec r = { s with hbm := h, digRun := d, ckpt := c, tiles := t, out := o, queues := m } := by
  unfold State.postRec
  split
  · exact s.writeRec_eq r
  · exact ⟨_, _, _, _, _, _, rfl⟩

/-- All that the end of a command can write beside its own effect. -/
theorem State.finish_eq (s : State) (q seq status handle detail : Nat) :
    ∃ h d c t o m,
      s.finish q seq status handle detail = { s with hbm := h, digRun := d, ckpt := c, tiles := t, out := o, queues := m } := by
  unfold State.finish
  dsimp only
  split
  · obtain ⟨m, o, e⟩ := State.entryFinal_eq (s.modQueue q fun v => v.modEntry seq fun e => { e with stage := .started }) q seq
    exact ⟨s.hbm, s.digRun, s.ckpt, s.tiles, o, m, by rw [e]; rfl⟩
  · obtain ⟨h, d, c, t, o, m, e⟩ := State.postRec_eq
      (s.modQueue q fun v => v.modEntry seq fun e => { e with stage := .started })
      (State.mkRec (s.modQueue q fun v => v.modEntry seq fun e => { e with stage := .started }) q seq status handle detail true)
    exact ⟨h, d, c, t, o, m, by rw [e]; rfl⟩

/-- A start row starts the entry at the head of the queue, or does nothing. -/
theorem startRow_cases (chk : State → Cmd → Chk) (eff : State → Cmd → State) (op : Nat) (s : State) (q : Nat) :
    startRow chk eff op s q = s ∨
      ∃ e, q < 64 ∧ s.headEntry q = some e ∧ (pOpcode e.pkt = op ∨ listedOp (pOpcode e.pkt) = false) ∧
        startRow chk eff op s q = startEntry chk eff 8 s (s.cmdOf q e) := by
  unfold startRow
  split
  · exact .inl rfl
  · rename_i hq
    split
    · rename_i e he
      split
      · rename_i ho
        exact .inr ⟨e, by omega, he, by simpa using ho, rfl⟩
      · exact .inl rfl
    · exact .inl rfl

end Sys2Proof.Machine
end

