-- ==== Sys2Proof/WellFormed.lean ====
section
/-! DEFINITION. Which commands are well formed: every number names something that the GX4 has (R31 and R80 queues, R3 tiles,
R313 cores, R19 links, R18 stacks, R376 requesters, R373 holders). A command that names nothing changes nothing. -/

namespace Sys2Proof

/-- Whether every number of the command lies in its range. -/
def Instr.wf : Instr → Bool
  | .dmwrIntake _ _ _ _ => true
  | .postedWriteBar2 _ _ => true
  | .commandDatagram _ _ => true
  | .labCmd _ => true
  | .labMem _ => true
  | .idcode => true
  | .bypass _ => true
  | .extest _ => true
  | .samplePreload _ _ => true
  | .hostBar4Access _ _ _ _ => true
  | .registerWrite _ _ _ _ => true
  | .timeNowRead => true
  | .pkgAddrWrite _ => true
  | .globalDetWrite _ => true
  | .furrowCfgWrite _ => true
  | .furrowEpochWrite _ => true
  | .queueEnable q _ => q < 64
  | .cqHeadWrite q _ => q < 64
  | .coreStart c => c < 96
  | .coreHalt c => c < 96
  | .invalidateAll level => level < 5
  | .cleanAndInvalidateAll level => level < 5
  | .invalidateAllDone => true
  | .cacheModeWrite _ => true
  | .bootResetWarm => true
  | .bootResetCold => true
  | .linkReset n => n < 64
  | .nop q => q < 64
  | .flush q => q < 64
  | .suspend q => q < 64
  | .resume q => q < 64
  | .cancel q => q < 64
  | .queryHandle q => q < 64
  | .timeSet q => q < 64
  | .timeSetTimeout => true
  | .furrowSet q => q < 64
  | .barrier q => q < 64
  | .barrierArrival cs rank _ _ => cs < 64 && rank < 2 ^ 14
  | .partCreate q => q < 64
  | .partReset q => q < 64
  | .partitionClearDone p => p < 16
  | .partDelete q => q < 64
  | .memCopy q => q < 64
  | .memFill q => q < 64
  | .progLoad q => q < 64
  | .progRun q => q < 64
  | .trainStep q => q < 64
  | .programHalted t => t < 624
  | .solveBatch q => q < 64
  | .problemStop h _ => h < 4096
  | .collSetup q => q < 64
  | .setupSummary cs rank _ => cs < 64 && rank < 2 ^ 14
  | .setupVerdict cs _ _ => cs < 64
  | .summaryTimeout cs => cs < 64
  | .collStep q => q < 64
  | .doneNotice cs rank _ _ => cs < 64 && rank < 2 ^ 14
  | .slip cs rank _ _ => cs < 64 && rank < 2 ^ 14
  | .readyWordReport cs slice _ => cs < 64 && slice < 512
  | .collTeardown q => q < 64
  | .snapshot q => q < 64
  | .snapshotCaptureDone h => h < 4096
  | .hostCopyDone h => h < 4096
  | .restore q => q < 64
  | .mirrorCfg q => q < 64
  | .mirrorDelta q => q < 64
  | .takeover q => q < 64
  | .takeoverTimeout => true
  | .capSet q => q < 64
  | .phaseTable q => q < 64
  | .fwStage q => q < 64
  | .fwActivate q => q < 64
  | .healthRead q => q < 64
  | .errlogRead q => q < 64
  | .repair q => q < 64
  | .detSet q => q < 64
  | .digestRead q => q < 64
  | .remoteOp q => q < 64
  | .imageRelay q => q < 64
  | .relayTimeout h => h < 4096
  | .debugHalt q => q < 64
  | .scan q => q < 64
  | .scanDone q _ _ _ => q < 64
  | .anchorConfirm q _ _ => q < 64
  | .receiptWrite q => q < 64
  | .msixHoldExpiry q => q < 64
  | .journalEntry q _ _ => q < 64
  | .retireMark q _ => q < 64
  | .heartbeatSend => true
  | .heartbeat _ => true
  | .buddyLossDeclare => true
  | .imageChunk p _ _ => p < 16
  | .seal p _ _ _ => p < 16
  | .sealAnswer p _ => p < 16
  | .takeoverChunk p _ _ => p < 16
  | .journalTransfer _ _ => true
  | .furrowBoundary => true
  | .balerRelease t => t < 624
  | .balerRowArrival t _ _ => t < 624
  | .beaconSend => true
  | .beacon n _ => n < 64
  | .ptpSync port _ _ => port < 2
  | .ptpAnnounce port => port < 2
  | .ptpDelayReq port => port < 2
  | .ptpDelayResp port _ => port < 2
  | .peerDelayMessage port => port < 2
  | .ppsInEdge _ => true
  | .sourceLoss src => (1 ≤ src && src ≤ 5)
  | .holdoverLimit => true
  | .slewComplete => true
  | .ppsOutPulse => true
  | .ppsOutPulseEnd => true
  | .bundleIssue t => t < 624
  | .fwaitRelease t => t < 624
  | .safepointSave t => t < 624
  | .sync t _ => t < 624
  | .engineComplete t _ => t < 624
  | .bayld t => t < 624
  | .mmul t => t < 624
  | .mmult t => t < 624
  | .conv t => t < 624
  | .limb t => t < 624
  | .drain t => t < 624
  | .floatArithmetic t => t < 624
  | .integerArithmetic t => t < 624
  | .vCompare t => t < 624
  | .maskLogic t => t < 624
  | .reduce t => t < 624
  | .vConvert t => t < 624
  | .split t => t < 624
  | .finish t => t < 624
  | .vMove t => t < 624
  | .vset t => t < 624
  | .vctl t => t < 624
  | .move t => t < 624
  | .gather t => t < 624
  | .scatter t => t < 624
  | .tedder t => t < 624
  | .tokenDeadlock t => t < 624
  | .tileExceptionEntry t => t < 624
  | .enter c => c < 96
  | .leave c => c < 96
  | .leaveJ c => c < 96
  | .fspill c => c < 96
  | .spill c => c < 96
  | .fill c => c < 96
  | .add c _ _ _ _ => c < 96
  | .addu c _ _ _ _ => c < 96
  | .sub c _ _ _ _ => c < 96
  | .subu c _ _ _ _ => c < 96
  | .and c _ _ _ _ => c < 96
  | .or c _ _ _ _ => c < 96
  | .xor c _ _ _ _ => c < 96
  | .slt c _ _ _ _ => c < 96
  | .sltu c _ _ _ _ => c < 96
  | .sadd c _ _ _ _ => c < 96
  | .ssub c _ _ _ _ => c < 96
  | .saddu c _ _ _ _ => c < 96
  | .ssubu c _ _ _ _ => c < 96
  | .neg c _ _ _ _ => c < 96
  | .abs c _ _ _ _ => c < 96
  | .cneg c _ _ _ _ => c < 96
  | .cabs c _ _ _ _ => c < 96
  | .min c _ _ _ _ => c < 96
  | .max c _ _ _ _ => c < 96
  | .minu c _ _ _ _ => c < 96
  | .maxu c _ _ _ _ => c < 96
  | .sll c _ _ _ _ => c < 96
  | .srl c _ _ _ _ => c < 96
  | .sra c _ _ _ _ => c < 96
  | .rol c _ _ _ _ => c < 96
  | .ror c _ _ _ _ => c < 96
  | .mul c _ _ _ _ => c < 96
  | .mulh c _ _ _ _ => c < 96
  | .mulhu c _ _ _ _ => c < 96
  | .div c _ _ _ _ => c < 96
  | .divu c _ _ _ _ => c < 96
  | .rem c _ _ _ _ => c < 96
  | .remu c _ _ _ _ => c < 96
  | .cdiv c _ _ _ _ => c < 96
  | .cdivu c _ _ _ _ => c < 96
  | .crem c _ _ _ _ => c < 96
  | .cremu c _ _ _ _ => c < 96
  | .addi c _ _ _ => c < 96
  | .andi c _ _ _ => c < 96
  | .ori c _ _ _ => c < 96
  | .xori c _ _ _ => c < 96
  | .lui c _ _ => c < 96
  | .auipc c _ _ => c < 96
  | .lb c _ _ _ => c < 96
  | .lbu c _ _ _ => c < 96
  | .lh c _ _ _ => c < 96
  | .lhu c _ _ _ => c < 96
  | .lw c _ _ _ => c < 96
  | .lwu c _ _ _ => c < 96
  | .ld c _ _ _ => c < 96
  | .ldAq c _ _ _ => c < 96
  | .sb c _ _ _ => c < 96
  | .sh c _ _ _ => c < 96
  | .sw c _ _ _ => c < 96
  | .sd c _ _ _ => c < 96
  | .swRl c _ _ _ => c < 96
  | .sdRl c _ _ _ => c < 96
  | .atomic c _ _ _ _ => c < 96
  | .fenceAcq c => c < 96
  | .fenceRel c => c < 96
  | .fenceFull c => c < 96
  | .tlbinv c _ _ => c < 96
  | .branch c _ _ _ _ => c < 96
  | .call c _ => c < 96
  | .jmpl c _ _ _ => c < 96
  | .syscall c _ => c < 96
  | .brk c => c < 96
  | .xret c => c < 96
  | .mfsr c _ _ => c < 96
  | .mtsr c _ _ => c < 96
  | .wfi c => c < 96
  | .scalarFp c _ _ _ _ => c < 96
  | .fusedMultiplyAdd c _ _ _ _ _ _ => c < 96
  | .convert c _ _ _ _ _ _ _ => c < 96
  | .fpCompare c _ _ _ _ => c < 96
  | .furrowTimer c => c < 96
  | .interruptEntry c => c < 96
  | .doubleTrapMonitor c => c < 96
  | .cleanVa c _ => c < 96
  | .invVa c _ => c < 96
  | .clinvVa c _ => c < 96
  | .zeroVa c _ => c < 96
  | .invzeroVa c _ => c < 96
  | .cleanVaMem c _ => c < 96
  | .clinvVaMem c _ => c < 96
  | .win c _ _ => c < 96
  | .cleanSw c _ => c < 96
  | .invSw c _ => c < 96
  | .clinvSw c _ => c < 96
  | .vcfg c _ _ _ _ _ => c < 96
  | .twillInteger c _ => c < 96
  | .twillFp c _ => c < 96
  | .twillCompare c _ => c < 96
  | .wmul c _ => c < 96
  | .wmulu c _ => c < 96
  | .wmacc c _ => c < 96
  | .wmaccu c _ => c < 96
  | .dot4 c _ => c < 96
  | .dot4u c _ => c < 96
  | .dot2 c _ => c < 96
  | .twillConvert c _ => c < 96
  | .vld c _ => c < 96
  | .vst c _ => c < 96
  | .vgather c _ => c < 96
  | .vscatter c _ => c < 96
  | .twillMove c _ => c < 96
  | .twillReduce c _ => c < 96
  | .readShared req _ => req < 100
  | .readUnique req _ => req < 100
  | .upgrade req _ => req < 100
  | .cleanEvictionNotice holder _ _ => holder < 14
  | .writeback holder _ => holder < 14
  | .writebackData holder _ _ => holder < 14
  | .snoop cluster _ _ => cluster < 14
  | .evictAck owner _ => owner < 110
  | .refillChunk c _ chunk _ => c < 98 && chunk < 4
  | .hostCxlMem _ _ _ _ => true
  | .snpdata _ => true
  | .snpinv _ => true
  | .snpcur _ => true
  | .hbmRead _ bad => bad ≤ 4
  | .hbmWrite _ _ => true
  | .narrowRequest _ _ _ _ => true
  | .coalescerTimeout _ => true
  | .scrubRead _ bad _ => bad ≤ 4
  | .hbmTempSample stack temp => stack < 8 && temp < 256
  | .migrationCopy stack => stack < 8
  | .linkTrained n _ => n < 64
  | .linkTrainRetry n => n < 64
  | .laneFail n lane => n < 64 && lane < 5
  | .flitReceive n _ => n < 64
  | .nack n _ => n < 64
  | .linkDown n => n < 64
  | .d2dModuleFail conn module => conn < 14 && module < 8
  | .fabricRead _ _ => true
  | .fabricWrite _ _ => true
  | .burstWrite _ _ => true
  | .integerAdd _ _ => true
  | .signedMinMax _ _ => true
  | .unsignedMinMax _ _ => true
  | .swap _ _ => true
  | .compareAndSwap _ _ => true
  | .floatAdd _ _ => true
  | .floatMaximumMinimum _ _ => true
  | .orderedFloatAdd _ _ => true
  | .commandPacket n _ _ => n < 64
  | .commandAnswer src slot gen answer => src < 2 ^ 16 && slot < 4096 && gen < 2 ^ 24 && answer ≤ 2
  | .fabricResponse src slot gen tag _ _ => src < 2 ^ 16 && slot < 4096 && gen < 2 ^ 24 && tag ≤ 1
  | .reissueTimeout _ => true
  | .fabPoisonTimeout _ => true
  | .slotHoldExpiry dst slot => dst < 2 ^ 16 && slot < 4096
  | .digestChunkHash p chunk => p < 16 && chunk < 2 ^ 36
  | .tileFault t _ => t < 624
  | .lockstepInjection reported => reported < 4
  | .stewardMismatch outcome => (1 ≤ outcome && outcome ≤ 4)
  | .powerTick _ => true
  | .vrAlert => true
  | .floorExit => true
  | .dieTempSample temp => temp < 256
  | .coldBoot rep => rep.flash.all fun (e : Nat × List Byte) => e.1 + e.2.length ≤ 0x10000000
  | .pwrokLow => true
  | .warmReset => true
  | .i3cRead _ => true
  | .i3cWrite _ _ => true
  | .pwrokRise board pkg => board < 8 && pkg < 4
  | .vrAlertRelease => true
  | .restoreCopyDone h => h < 4096
  | .fwStageDone => true
  | .sealCopyDone p => p < 16
  | .memCopyFillDone h => h < 4096
  | .commitPhaseEnd h => h < 4096
  | .windowOperationDone n => n < 8
  | .shareWindowEnd _ => true
  | .externalInterrupt c _ => c < 96
  | .cxlHostResponse _ _ _ => true
  | .dmaReadCompletion q _ _ => q < 64
  | .dynamicAddressAssignment _ => true

end Sys2Proof
end

