-- ==== Sys2Proof/Tests/Slice0.lean ====
section
/-! SUPPORT. Tests: ill-formed commands, the worked examples of the spec, and for every statement of Obligations.lean states and operands
that meet its hypotheses. -/

namespace Sys2Proof.Tests

open Sys2Proof Sys2Proof.Machine

set_option Elab.async false

/-! ### States to try the package on -/

/-- Reset with the firmware running. -/
def upS : State := { State.reset with boot := { State.reset.boot with phase := 7 } }

/-- A running thread on core 0, its pc in HBM. -/
def coreS (f : Cpu → Cpu) : State := upS.setCore 0 (f { Cpu.zero with run := .running, pc := 0x1000 })

/-- Partition 0 on four tiles of die 0, its image of 100 bundles, safe point 5 leading to phase 3. -/
def partS : State :=
  let s := { upS with ras := { upS.ras with map := (List.range 8).map fun i => (i, i + 1) } }
  let s := ((s.setFld (aTilePart 0 0) 7 0 0).setFld (aTilePart 0 0) 15 8 4).setFlag (aTilePart 0 0) 16
  { s with
    retB := mstore (mstore (mstore s.retB (imageBase 0 + 4) 2 100) (imageBase 0 + 8) 2 1) (imageBase 0 + 1088) 4 (5 + 3 * 65536) }

/-- `partS` with tile 0 running. -/
def tileS (f : Tile → Tile) : State := partS.modTile 0 fun t => f { t with run := .running, stopped := false, gated := false }

/-- Package 1, link 0 UP to package 2, and a key of partition 0 for all of package 2. -/
def netS : State :=
  let s := upS.setFld aDevPkgAddr 15 0 1
  let s := ((s.setFlag (aFabLinkCfg 0) 63).setFld (aFabLinkStatus 0) 2 0 2).setFld (aFabLinkStatus 0) 63 48 2
  let s := (((s.setFlag (aFabKeyA 0) 63).setFlag (aFabKeyA 0) 62).setFlag (aFabKeyA 0) 61).setFlag (aFabKeyA 0) 60
  ((s.setFld (aFabKeyA 0) 15 0 2).setFld (aFabKeyA 0) 31 16 2).setFld (aFabKeyB 0) 53 27 0x7ffffff

/-- Queue 0 enabled, its completion ring in host memory, for `s`. -/
def enQ (s : State) : State :=
  ((((s.wr (aIntkQCfg 0) 0).setFld (aIntkQCfg 0) 35 32 8).setFld (aIntkQCfg 0) 31 28 8).setFlag (aIntkQCfg 0) 63).setFld
    (aIntkQCqBase 0) 63 12 1

/-- A packet for queue 0 with sequence 5: opcode, flags, parameter length, target, and parameters as offset and value. -/
def pk (op flags len target : Nat) (ps : List (Nat × Nat)) : W512 :=
  BitVec.ofNat 512
    (op + flags * 2 ^ 24 + 5 * 2 ^ 32 + len * 2 ^ 80 + target * 2 ^ 96 + (ps.map fun e => e.2 * 2 ^ (8 * e.1)).sum)

/-- The entry of a packet with its fetched data. -/
def ent (p : W512) (data : List (List Byte)) : Entry :=
  { seq := 5, pkt := p, stage := .waiting, anchored := true, restated := false, handle := 0, data := data, recs := [] }

/-- `s` with that entry alone in queue 0. -/
def withE (s : State) (e : Entry) : State := (enQ s).modQueue 0 fun v => { v with entries := [e], nextSeq := 6 }

/-- An operation of partition 0 that began with the packet `p`. -/
def opRec (op : Nat) (p : W512) (st : HState) (tiles : List Nat) : HRec :=
  { gen := 1, part := 0, state := st, opcode := BitVec.ofNat 16 op, lastFurrow := 1, queue := 0, seq := 4, pkt := p, data := []
    startFurrow := 1, tiles := tiles, safeNo := 0, suspFurrow := 4, resumeAt := none, chunks := 0, ending := none, late := false
    sealDone := false, hostDone := false, restated := false, undo := []
    job := { buf := [], left := 0, writing := false, unpop := false } }

/-- The handle word of slot 3, generation 1, partition 0. -/
def hw3 : Nat := handleWord 1 0 3

/-- `s` with operation `h` in slot 3. -/
def withH (s : State) (h : HRec) : State := { s with handles := [(3, h)] }

/-- The header of a read of 64 bytes at address 0 of package 2, sent by the engine of that number. -/
def reqHdr (engine : Nat) : FabHdr :=
  { op := 2, size := 6, oclass := 0, resp := false, dst := 2, src := 1, engine := BitVec.ofNat 12 engine, part := 0, slot := 0, hops := 0, gen := 0
    addr := 0, crcOk := true }

/-- `s` with one request under way, with index 0, for `why`. -/
def withOut (s : State) (engine : Nat) (why : OutFor) : State :=
  { s with fab := { s.fab with outst := [{ idx := 0, hdr := reqHdr engine, data := 0, link := 0, via := none, reissued := false, isFor := why }] } }

/-- The bytes that may be set are those named. -/
theorem restZero_of {p : W512} {named : List (Nat × Nat)}
    (h : ∀ k, k < 56 → 16 ≤ k → (∀ r ∈ named, k < r.1 ∨ r.1 + r.2 ≤ k) → bytesOf p k 1 = 0) : RestZero p named :=
  fun k h1 h2 => h k h2 h1

/-! ### Commands that name nothing, and worked examples of the spec -/

/-- WellFormed refuses a number beyond each range. -/
theorem test_ill_formed :
    (∀ i ∈ [Instr.queueEnable 64 0, .cqHeadWrite 64 0, .coreStart 96, .invalidateAll 5, .linkReset 64, .nop 64, .barrierArrival 64 0 0 0,
        .barrierArrival 0 16384 0 0, .partitionClearDone 16, .programHalted 624, .problemStop 4096 0, .readyWordReport 0 512 0,
        .ptpSync 2 0 0, .sourceLoss 0, .sourceLoss 6, .bundleIssue 624, .add 96 0 0 0 false, .hbmTempSample 8 0,
        .imageChunk 16 0 0, .anchorConfirm 64 0 true, .d2dModuleFail 14 0,
        .lockstepInjection 4, .dieTempSample 256, .digestChunkHash 16 0, .cleanEvictionNotice 14 0 0, .evictAck 110 0, .hbmRead 0 5,
        .commandAnswer 0 4096 0 0, .laneFail 0 5], Instr.wf i = false) ∧
      (∀ i ∈ [Instr.queueEnable 63 0, .coreStart 95, .invalidateAll 4, .barrierArrival 63 16383 0 0, .programHalted 623,
        .sourceLoss 5, .hbmTempSample 7 0], Instr.wf i = true) := by decide +kernel

/-- The table gives no row bits, so no word spells a command. -/
theorem test_no_words : ∀ n ∈ [0, 8, 32, 64], decodeTableWord n 5 = none ∧ upS.withFetchWord n 5 = upS := by decide +kernel

/-- The command at the front runs, and the rest of the queue is kept. -/
theorem test_front_runs :
    step { upS with pending := [.dynamicAddressAssignment 9, .idcode] } = .next { upS with i3cAddr := 9, pending := [.idcode] } := rfl

/-- On an empty queue one nanosecond of the reference passes. -/
theorem test_tick : (match step State.reset with
    | .next t => t.time.refNs
    | _ => 0) = State.reset.time.refNs + 1 := by decide +kernel

/-! ### Worked examples of the spec -/

/-- Chapter 1: the store of tile 2.07.11, its register page, and the same store from another package. -/
theorem test_tile_address :
    (let s := { upS with ras := { upS.ras with map := [(2 * 156 + 95, 96)] } }
     s.region 0x008097C00000 = .tileStore (2 * 156 + 95) 0 ∧ s.region 0x008097F00000 = .tilePage (2 * 156 + 95) 0) ∧
      (upS.setFld aDevPkgAddr 15 0 1).dest 0x0123008097C00000 = .remote 0x0123 0x008097C00000 := by decide +kernel

/-- Chapter 6, the activation batch: source format FP32, destination format, rounding mode, source bits, result bits and flags. -/
theorem test_convert_batch : ∀ r ∈ [(5, 0, 0x43EB0000, 0x7E, fOF ||| fNX), (4, 0, 0xC47A0000, 0xE4, fNX), (2, 0, 0x477FF000, 0x7C00, fOF ||| fNX),
      (2, 1, 0x477FF000, 0x7BFF, fNX), (8, 0, 0x3E99999A, 0x1, fUF ||| fNX), (8, 0, 0x7FC00000, 0x7, fNV ||| fOF),
      (6, 0, 0x7F800000, 0x1F, fOF ||| fNX), (5, 0, 0x80000000, 0x80, 0), (5, 0, 0x39800000, 0x00, fUF ||| fNX), (10, 0, 0x43964000, 0x7F, fNV),
      (10, 0, 0x7FC00000, 0x00, fNV)],
    convElem (cvtFmt 0) (cvtFmt r.1) r.2.1 false 0 0 0 r.2.2.1 = (r.2.2.2.1, r.2.2.2.2) := by decide +kernel

/-- Chapter 6: 0.3 under stochastic rounding goes up below 2,576,980,480. -/
theorem test_stochastic_rounding :
    convElem (cvtFmt 0) (cvtFmt 8) 4 false 2576980479 0 0 0x3E99999A = (1, fUF ||| fNX) ∧
      convElem (cvtFmt 0) (cvtFmt 8) 4 false 2576980480 0 0 0x3E99999A = (0, fUF ||| fNX) := by decide +kernel

/-- Chapter 7: the outlier's block through the Tedder, its scale and its elements. -/
theorem test_tedder_outlier :
    (let xs := tedderBlock (0x42350000 :: List.replicate 31 0x3F000000)
     let g := match fdecode fp32 (xs.getD 0 0) with
       | .fin _ m e => groupScale false 5 m e
       | _ => groupScale false 5 0 0
     g.code = 0x7A ∧ [0, 1, 31].map (fun i => match fdecode fp32 (xs.getD i 0) with
       | .fin n m e => groupElem 5 0 0 n m e g
       | _ => (0, 0)) = [(0x7B, fNX), (0x78, fNX), (0x78, fNX)]) := by decide +kernel

/-- Chapter 9: the Kestlewick patch's descriptor and layout record. -/
theorem test_patch :
    (let d : XDesc := ⟨0x2980888000000000, 0x11800380, 0, 0x2DFF80⟩
     let x : XIns := { op := 1, d := d, srcAdd := 0, dstAdd := 0, lay :=
       [0x00001F0000000004, 0x00001F0000004000, 0x00005F0004000000, 0, 0, 0x180, 0x3000, 4, 0, 0, 0, 0] }
     d.ok 1 = true ∧ x.fault = none ∧ x.total = 32 * 32 * 96 ∧
       [0, 1, 32, 1024, 98303].map (fun v => Tile.zero.elemAddr x false v) =
         [0x11800380, 0x11800384, 0x11800380 + 16384, 0x11800380 + 67108864, 0x11800380 + 124 + 31 * 16384 + 95 * 67108864].map some ∧
       [0, 1, 32, 1024].map (fun v => Tile.zero.elemAddr x true v) = [0, 384, 12288, 4].map some) := by decide +kernel

/-- Chapter 11: where its first cell lies. -/
theorem test_patch_stack : hbmStack 0x11800380 = 4 ∧ hbmPc 0x11800380 = 8 := by decide +kernel

/-- Chapter 19: the record of a fault of tile 2.07.11 under logical index 95 names 0x025F5F00. -/
theorem test_fault_location :
    locTile { upS with ras := { upS.ras with map := (List.range 144).map fun i => (312 + i, i + 1) } } (2 * 156 + 95) = 0x025F5F00 := by
  decide +kernel

/-- Chapter 20: a cap of 3,000 W and 880 W beside the tiles grant 111 tiles on every die. -/
theorem test_grants :
    (let s := (List.range 4).foldl (fun (s : State) d => ((s.setFld (aTilePart 0 d) 15 8 144).setFld (aTilePart 0 d) 7 0 0).setFlag (aTilePart 0 d) 16) upS
     let s := ((s.setFld aPwrCap 20 16 4).setFld aPwrCap 11 0 3000).setFld aPwrMeasure 15 0 3000
     match exec (.powerTick { tileMw := 2120000, nontileMw := 880000, partTileMw := [], partCoreMw := [] }) s with
     | .next t => t.rd (aPwrPart 0) % 2 ^ 32
     | _ => 0) = 0x6F6F6F6F := by decide +kernel

/-! ### Cores: the hypotheses of the statements are met -/

/-- A thread with vectors on: 32-bit lanes in one register, all 16 of them, and values in its registers. -/
def vecS : State :=
  coreS fun k => ({ k with tw := true, vcfg := 2064 }.setReg 39 0x2000).setReg 1 16

/-- CoreAluResults, CoreAluIllegal, CoreImmediates, CoreControlFlow: registers 0 and 39, 40 and 63 at the edges of their ranges. -/
theorem witness_core_alu : Fetched (coreS id) 0 (coreS id) ∧ Fetched (upS.setCore 95 { Cpu.zero with run := .running }) 95
      (upS.setCore 95 { Cpu.zero with run := .running }) ∧
    (∀ r ∈ [(0 : BitVec 6), 39], r.toNat < 40) ∧ (∀ r ∈ [(40 : BitVec 6), 63], 40 ≤ r.toNat) ∧ (coreS id |>.core 0).wsel ≤ 10 := by
  unfold Fetched; decide +kernel

/-- CoreLoads: one access that HBM answers, one that traps (LD.AQ misaligned), and one that another package serves. -/
theorem witness_core_loads :
    Fetched (netS.setCore 0 { Cpu.zero with run := .running }) 0 (netS.setCore 0 { Cpu.zero with run := .running }) ∧
    ((coreS id).coreLoad 0 0x2000 8 true false).2 = .ok (zeros 8) ∧ ((coreS id).coreLoad 0 0x2001 8 true false).2 = .trap 0x09 0 0x2001 ∧
    ((netS.setCore 0 { Cpu.zero with run := .running }).coreLoad 0 (2 * 2 ^ 48 + 64) 8 false false).2 = .remote 2 64 := by
  unfold Fetched; decide +kernel

/-- CoreStores and CoreAtomics: the same three outcomes, with no release before them and with one that waits. -/
theorem witness_core_stores :
    (let s := netS.setCore 0 { Cpu.zero with run := .running }
     (s.coreStore 0 (hbmEnd - 1) [1] false false).2 = .ok [] ∧ (s.coreStore 0 (2 * 2 ^ 48) [1] false false).2 = .remote 2 0 ∧
       (s.coreRmw 0 6 8 0x2000 1 2).2 = .ok (zeros 8) ∧ (s.coreRmw 0 0 4 0x2002 1 2).2 = .trap 0x09 0 0x2002 ∧
       s.waitsFor (coreEngine 0) = false ∧ (withOut s (coreEngine 0) (.core 0 0 8)).waitsFor (coreEngine 0) = true) ∧
    bit (6 : BitVec 8).toNat 4 = false ∧ (6 : BitVec 8).toNat % 16 ≤ 6 ∧ bit (0x66 : BitVec 8).toNat 5 = true ∧
      bit (0x66 : BitVec 8).toNat 4 = false := by decide +kernel

/-- CoresReachMemory: the last bytes of populated HBM. -/
theorem witness_plain_hbm : CachesOff (coreS id) ∧ PlainHbm (coreS id) 0 (hbmEnd - 8) (hbmEnd - 8) 8 ∧ (hbmEnd - 8) % 8 = 0 := by
  unfold CachesOff PlainHbm; decide +kernel

/-- CoreFences: a translation that TLBINV drops by its page and one that it keeps. -/
theorem witness_core_fences :
    (let e : TlbEnt := { vpn := 5, asid := 3, level := 0, leaf := 1 }
     let s := coreS fun k => ({ k with tlb := [e, { e with vpn := 6 }] }.setReg 1 0x5000).setReg 2 3
     Fetched s 0 s ∧ (s.core 0).reg 1 % 2 ^ 48 / 4096 = e.vpn ∧ (s.core 0).reg 2 % 2048 = e.asid) := by
  unfold Fetched; decide +kernel

/-- CoreTraps: while a trap is handled XRET returns, to an aligned and to a misaligned XPC; outside it is illegal. -/
theorem witness_core_traps :
    Fetched (coreS fun k => { k with xact := true, xpc := 0x40 }) 0 (coreS fun k => { k with xact := true, xpc := 0x40 }) ∧
    Fetched (coreS fun k => { k with xact := true, xpc := 0x42 }) 0 (coreS fun k => { k with xact := true, xpc := 0x42 }) := by
  unfold Fetched; decide +kernel

/-- CoreInterrupts: interrupt 4 alone, and 0 before 4. -/
theorem witness_core_interrupts : ∀ p ∈ [((16 : BitVec 5), 4), (17, 0)],
    (let s := coreS fun k => { k with ie := true, ip := p.1, ier := 31 }
     s.coreRuns 0 = true ∧ (s.core 0).ie = true ∧ (s.core 0).xact = false ∧ (s.core 0).ip.getLsbD p.2 = true ∧
       (s.core 0).ier.getLsbD p.2 = true ∧ ∀ j, j < p.2 → ((s.core 0).ip.getLsbD j && (s.core 0).ier.getLsbD j) = false) := by
  decide +kernel

/-- CoreSystemReads and CoreSystemWrites: a register that is listed and one that is not, a user below its privilege, a value that R323 excludes, and
a core of the same partition to interrupt. -/
theorem witness_core_system :
    (∀ v ∈ [(0 : BitVec 2), 1], Fetched (coreS fun k => { k with priv := v }) 0 (coreS fun k => { k with priv := v })) ∧
    (∃ r ∈ srRows (coreS id) 0, (0x033 : BitVec 12).toNat = r.1) ∧
    (0x019 : BitVec 12).toNat ∉ 0x018 :: (srRows (coreS id) 0).map (fun r => r.1) ∧
    (∃ r ∈ mtsrRows (coreS id), (0x033 : BitVec 12).toNat = r.1 ∧ r.2.2.1 0x91 = true ∧ r.2.2.1 0xA1 = false) ∧
    (coreS id).corePart 95 = (coreS id).corePart 0 := by
  unfold Fetched; decide +kernel

/-- CoreFloat: with vectors on and off, the last function and register, a convert between two types and a compare. -/
theorem witness_core_float : Fetched vecS 0 vecS ∧ (vecS.core 0).tw = true ∧ Fetched (coreS id) 0 (coreS id) ∧
    (coreS id |>.core 0).tw = false ∧ (0x88 : BitVec 8).toNat % 128 < 9 ∧ (0x88 : BitVec 8).toNat % 128 ∈ [4, 7, 8] ∧
    numTy 0 = some (.flt fp64) ∧ (numTy 7).isSome = true ∧ (3 : BitVec 8).toNat % 128 < 4 := by
  unfold Fetched; decide +kernel

/-- CoreWindows, CoreWindowTraps: one window and ten, an empty area and a full one, and a trap in progress. -/
theorem witness_core_windows :
    (∀ e ∈ [(1, false), (9, false), (10, false), (2, true)],
      Fetched (coreS fun k => { k with wsel := 10, resident := e.1, xact := e.2 }) 0
        (coreS fun k => { k with wsel := 10, resident := e.1, xact := e.2 })) ∧
    (let k := ((coreS fun k => { k with resident := 10, splimit := 0x180, spptr := 0x180 }).core 0)
     k.xact = false ∧ k.resident = 10 ∧ k.splimit.toNat < k.spptr.toNat + 128 ∧ k.spbase.toNat ≤ k.spptr.toNat) := by
  unfold Fetched; decide +kernel

/-- CoreSpillEngine: a spill that ends at SPLIMIT, and a fill down to SPBASE. -/
theorem witness_spill :
    (let s := coreS fun k => { k with resident := 10, hi := 9, lo := 1, spptr := 0x2000, splimit := 0x2080 }
     s.engineRuns 0 = true ∧ CachesOff s ∧ (s.core 0).hi < (s.core 0).resident ∧
       (s.core 0).spptr.toNat + 128 ≤ (s.core 0).splimit.toNat ∧ PlainHbm s 0 (s.core 0).spptr.toNat 0x2000 128) ∧
    (let s := coreS fun k => { k with resident := 1, hi := 9, lo := 2, spptr := 0x2080, spbase := 0x2000 }
     s.engineRuns 0 = true ∧ CachesOff s ∧ (s.core 0).resident < (s.core 0).lo ∧ (s.core 0).spbase.toNat < (s.core 0).spptr.toNat ∧
       PlainHbm s 0 ((s.core 0).spptr.toNat - 128) 0x2000 128) := by
  unfold CachesOff PlainHbm; decide +kernel

/-- CoreCacheByAddress: an address of local HBM, the first one beyond it, and one that does not translate; a line that a writeback holds back. -/
theorem witness_cache_va :
    Fetched (coreS id) 0 (coreS id) ∧ ((coreS id).translate 0 (hbmEnd - 1) .read false).2 = .ok (hbmEnd - 1) ∧
    (coreS id).dest hbmEnd = .here hbmEnd ∧
    ((coreS fun k => { k with ptroot := 0x800 }).translate 0 (2 ^ 48 - 1) .write false).2 ≠ .ok (2 ^ 48 - 1) ∧
    ({ coreS id with cache := { (coreS id).cache with dir := [(5, { st := .e, holders := [0], wb := true, waiting := [] })] } }.maintHeld
      5).2 = true := by
  unfold Fetched; decide +kernel

/-- CacheMaintenance, CoreCacheBySet: the last line of HBM; the last way of a level and one beyond it. -/
theorem witness_cache_set : hbmEnd / 64 - 1 < hbmEnd / 64 ∧ swKey 0 (2 * 2 ^ 60 + 2047 * 2 ^ 32 + 15) ≠ none ∧
    swKey 0 (2 * 2 ^ 60 + 2048 * 2 ^ 32) = none ∧ swKey 0 16 = none ∧ swKey 0 (4 * 2 ^ 60 + 47 * 2 ^ 54) ≠ none := by decide +kernel

/-- A vector instruction's fields. -/
def vf (fn : BitVec 8) (vd va vb : BitVec 5) : VRFields := { vd := vd, va := va, vb := vb, mask := 0, mz := false, fn := fn }

/-- TwillConfig, TwillIntegers, TwillFloats, TwillCompares, TwillProducts, TwillConvertsMovesReduces: lanes of 32 bits, the last function and register
of each. -/
theorem witness_twill : Fetched vecS 0 vecS ∧ (vecS.core 0).tw = true ∧ (vecS.core 0).vw = 32 ∧ (vecS.core 0).vg = 1 ∧
    (vecS.core 0).vl = 16 ∧ InGroup 31 1 ∧ InGroup 30 2 ∧ (vf 21 31 0 31).fn.toNat % 128 < 22 ∧ (vf 10 31 0 31).fn.toNat < 11 ∧
    (vf 5 3 0 31).fn.toNat % 128 < 6 ∧ (vf 0x84 3 0 31).fn.getLsbD 7 = true ∧ numTy ((vf 0x40 0 0 2).vb.toNat / 2) = some (.flt fp32) ∧
    (numTy ((vf 0x40 0 0 2).fn.toNat / 16)).isSome = true ∧ (NumTy.flt fp32).width = 32 ∧ (vf 5 0 0 0).fn.toNat < 6 := by
  unfold Fetched InGroup; decide +kernel

/-- TwillMemory: sixteen words side by side in HBM. -/
theorem witness_twill_memory : ∃ f : VMFields, ∃ a : Nat → Nat, Fetched vecS 0 vecS ∧ CachesOff vecS ∧ (vecS.core 0).tw = true ∧
    (vecS.core 0).vjob = none ∧ f.low = 0 ∧ f.ra.toNat < 40 ∧ InGroup f.vd.toNat (vecS.core 0).vg ∧ f.rb.toNat < 40 ∧
    ∀ i, i < 16 → PlainHbm vecS 0 (((vecS.core 0).reg f.ra.toNat + i * 4) % 2 ^ 64) (a i) 4 := by
  refine ⟨{ vd := 31, ra := 39, rb := 0, scale := 0, mask := 0, mz := false, ff := true, low := 0 }, fun i => 0x2000 + i * 4, ?_⟩
  unfold Fetched CachesOff InGroup PlainHbm; decide +kernel

/-- CoreEvents: a halted thread, one that waits, one whose timer is due, and a frozen one. -/
theorem witness_core_events :
    upS.up = true ∧ (upS.core 95).run = .halted ∧ (coreS fun k => { k with run := .wfi }).core 0 = { Cpu.zero with run := .wfi, pc := 0x1000 } ∧
    ((coreS id).core 0).fcmp.toNat ≤ (coreS id).furrow ∧ ((coreS fun k => { k with run := .frozen }).core 0).run = .frozen := by
  decide +kernel

/-! ### Tiles: the hypotheses of the statements are met -/

/-- A slot of a bundle: opcode, take, post and operand field. -/
def sw (op tk po low : Nat) : Nat := op * 2 ^ 27 + tk * 2 ^ 23 + po * 2 ^ 19 + low

/-- A queued instruction, the `ord`-th bundle's, with rs 0 and rt 0. -/
def qe (op tk po low ord : Nat) : QEnt :=
  { word := BitVec.ofNat 32 (sw op tk po low), bundle := ord + 40, ord := ord, x := 0, y := 0, sr := false }

/-- Tile 0 at a bundle of one S slot, with one of token 3 and 255 of token 5. -/
def bundleS (op tk po low : Nat) (f : Tile → Tile) : State :=
  tileS fun t => f { t with pc := 7, issued := 9, bundles := [(7, BitVec.ofNat 128 (sw op tk po low))], tok := [(3, 1), (5, 255)] }

/-- TileBundleIssue, TileWaits: tile 0 may issue every S slot, a load from the last word of the program area, FWAIT and SAFEPT among them. -/
theorem witness_bundle : ∀ op ∈ [1, 2, 4, 5, 6, 8, 9, 10, 11, 12, 13, 14], MayIssue (bundleS op 3 5 (op / 12) fun t => t.setSreg 0 (progEnd - 8)) 0 0 := by
  unfold MayIssue; decide +kernel

/-- TileBundleHeld: past the image's 100 bundles; a reserved code in slot 1; a missing token. -/
theorem witness_bundle_held :
    (let s := bundleS 1 3 0 0 fun t => { t with pc := 100 }
     s.tilePart? 0 = some 0 ∧ s.tileRuns 0 = true ∧ (s.tile 0).stopped = false ∧ s.winBusy 0 false = false ∧ s.imageCount 0 = (s.tile 0).pc) ∧
    (let b := BitVec.ofNat 128 (sw 1 0 0 0 + 2 ^ 32 * sw 31 0 0 0)
     slotIllegal b 0 = false ∧ slotIllegal b 1 = true) ∧
    (let s := bundleS 1 4 0 0 id
     (s.tile 0).pc < s.imageCount 0 ∧ (s.tile 0).canTake 4 = false) := by decide +kernel

/-- TileWaits: a held wait whose furrow is now, and one for the next; a drained tile at a safe point. -/
theorem witness_waits :
    (let s := tileS fun t => { t with fwait := .hold upS.furrow true, atSafe := true }
     s.tileRuns 0 = true ∧ upS.furrow ≤ s.progFurrow (s.tile 0) ∧ s.progFurrow (s.tile 0) < upS.furrow + 1 ∧ (s.tile 0).drained = true) := by
  decide +kernel

/-- TileEngines: for each engine a SYNC at the head of its queue, and a started instruction with a SYNC behind it and one without. -/
theorem witness_engines : ∀ e ∈ [Engine.m, Engine.v, Engine.x],
    (let s := tileS fun t => ({ t with tok := [(3, 1)] }.setQueued e [qe 0 3 5 0 3]).setBegun e [qe 1 0 0 0 1, qe 1 0 5 0 2]
     s.tileRuns 0 = true ∧ (s.tile 0).queued e = [qe 0 3 5 0 3] ∧ (s.tile 0).canTake 3 = true ∧ slotOp (qe 0 3 5 0 3).word = 0 ∧
       (s.tile 0).begun e = [qe 1 0 0 0 1, qe 1 0 5 0 2] ∧ slotOp (qe 1 0 5 0 2).word ≠ 0) := by decide +kernel

/-- TileExceptions: three engines stalled on token 4, and an exception that waits for its entry. -/
theorem witness_exceptions :
    (let s := tileS fun t => { t with qm := [qe 1 4 0 0 8], qv := [qe 1 4 0 0 6], qx := [qe 1 4 0 0 7], issued := 9, stopped := true }
     s.tilePart? 0 = some 0 ∧ s.tileStuck 0 0 = true ∧
       ∃ st ∈ (s.tile 0).stalled, ∀ y ∈ (s.tile 0).stalled, y ≠ st → st.1 < y.1) ∧
    (tileS fun t => { t with excPend := some (5, 7) }).tile 0 ≠ (tileS id).tile 0 := by decide +kernel

/-- Tile 0 with an M instruction at the head of its queue and descriptor 0: formats, rows, word 0's other bits, and the words of geometry. -/
def matS (op low act wt rows w0 : Nat) (g : List Nat) (f : Tile → Tile) : State :=
  tileS fun t => f { t with
    qm := [qe op 0 0 low 3]
    dsc := ((2 ^ 60 + act * 2 ^ 56 + wt * 2 ^ 52 + rows * 2 ^ 40 + w0) :: 0 :: 256 * 2 ^ 22 :: 0 :: g).zipIdx.map fun e =>
      (e.2, BitVec.ofNat 64 e.1) }

/-- The instruction at the head of that queue starts. -/
def StartsM (s : State) (op low : Nat) : Prop := MStarts s 0 op (qe op 0 0 low 3) ((s.tile 0).mdesc (qe op 0 0 low 3).word)

/-- TileBayLoad; TileMatrixMultiply for both products, with keep and without, and for rows that begin where the program area ends; TileDrain. -/
theorem witness_products :
    StartsM (matS 1 8 7 7 1 0 [] id) 1 8 ∧ StartsM (matS 2 0 7 7 128 (2 ^ 38) [] id) 2 0 ∧ StartsM (matS 3 1 0 0 128 0 [] id) 3 1 ∧
    ((matS 2 0 7 7 128 (2 ^ 38) [] id).mRows 0 ((matS 2 0 7 7 128 (2 ^ 38) [] id |>.tile 0).mdesc (qe 2 0 0 0 3).word) 0).isSome = true ∧
    ((matS 2 0 7 7 128 (2 ^ 38) [] id).mRows 0 ((matS 2 0 7 7 128 (2 ^ 38) [] id |>.tile 0).mdesc (qe 2 0 0 0 3).word) progEnd) = none ∧
    ((matS 2 0 7 7 128 (2 ^ 38) [] id |>.tile 0).mdesc (qe 2 0 0 0 3).word).dstFits 0 128 = true ∧
    StartsM (matS 6 0 7 7 1 (2 ^ 38) [] id) 6 0 ∧ StartsM (matS 6 1 10 10 1 0 [] id) 6 1 ∧
    (∀ r, r < 1 → sget false ((matS 6 1 10 10 1 0 [] fun t => { t with mx := { t.mx with combFresh := [(0, true)] } }).tile 0).mx.combFresh r = true) := by
  unfold StartsM MStarts; decide +kernel

/-- MatrixColumnOrder: an integer act and a float one. -/
theorem witness_columns :
    (let d : MDesc := ⟨7 * 2 ^ 56 + 7 * 2 ^ 52, 0, 0, 0⟩
     d.group = 0 ∧ d.act = 7) ∧ mxFloat 0 ≠ none := by decide +kernel

/-- TileConvolution: 1 by 1 positions, padding that puts a row outside, and a tap at the last position inside. -/
theorem witness_convolution :
    (let g := [1 + 2 ^ 12 + 2 ^ 24 + 2 ^ 36 + 2 ^ 48, 1 + 2 ^ 30, 64, 0]
     let s := matS 4 1 7 7 1 0 g id
     StartsM s 4 1 ∧ ((s.tile 0).geo (qe 4 0 0 1 3).word).isSome = true ∧ (((s.tile 0).geo (qe 4 0 0 1 3).word).getD ⟨0, 0, 0, 0⟩).pad 0 = 1) := by
  unfold StartsM MStarts; decide +kernel

/-- TileLimbProducts: eight planes from the tile store, seven from the registers. -/
theorem witness_limb : ∀ e ∈ [(10, 0), (11, 2 ^ 39)],
    (let s := matS 5 1 e.1 e.1 64 e.2 [] fun t => t
     let d := (s.tile 0).mdesc (qe 5 0 0 1 3).word
     StartsM s 5 1 ∧ ∀ i, i < (if d.act = 10 then 8 else 7) → ∀ r, r < d.rows →
       (if d.inReg then 4096 * (d.actAddr % 16) + 8192 * i + 64 * r else d.actAddr + 8192 * i + r * d.actStride) + 64
         ≤ if d.inReg then 65536 else progEnd) := by
  unfold StartsM MStarts; decide +kernel

/-- Partition 0's Baler on, batches of two rows, token 3. -/
def balS (f : Tile → Tile) : State :=
  let s := tileS f
  ((s.setFlag (aBayBalerCfg 0) 63).setFld (aBayBalerCfg 0) 43 37 2).setFld (aBayBalerCfg 0) 47 44 3

/-- TileBaler: a free slot, all slots taken, nothing to release in deterministic mode, and a full batch outside it. -/
theorem witness_baler :
    (let s := balS fun t => { t with bal := { t.bal with waiting := [(0, 1), (1, 1)] } }
     s.tilePart? 0 = some 0 ∧ s.up = true ∧ s.flag (aBayBalerCfg 0) 63 = true ∧ (s.tile 0).retired = false ∧
       0 ∉ (s.tile 0).bal.used ∧ s.globalDet = false ∧ (s.tile 0).bal.formed = [] ∧ s.fld (aBayBalerCfg 0) 43 37 = 2 ∧
       (s.tile 0).bal.batches = [] ∧ (s.tile 0).run = .running ∧ sget 0 (s.tile 0).tok (s.fld (aBayBalerCfg 0) 47 44) < 255) ∧
    (∀ n, n < 256 → n ∈ ((balS fun t => { t with bal := { t.bal with used := List.range 256 } }).tile 0).bal.used) ∧
    ((balS id).setFlag aDevMode 0).globalDet = true := by decide +kernel

/-- Tile 0 with a V instruction at the head of its queue, its mode and its scalar operand. -/
def vecT (op low mode x : Nat) : State :=
  tileS fun t => { t with qv := [{ qe op 0 0 low 3 with x := BitVec.ofNat 64 x }], vec := { t.vec with mode := BitVec.ofNat 27 mode } }

/-- TileVectorArithmetic, TileVectorMasks, TileVectorReduce, TileVectorConvert, TileCombiner, TileVectorMoves: every V opcode starts. -/
theorem witness_vector : ∀ op ∈ [1, 2, 3, 4, 5, 6, 7, 8, 9, 10],
    VStarts (vecT op 64 0 0) 0 op { qe op 0 0 64 3 with x := 0 } := by
  unfold VStarts; decide +kernel

/-- A float and an integer mode, 64-bit elements, stochastic rounding, group quantisation, a convert that fits and one that does not. -/
theorem witness_vector_modes :
    (∃ m ∈ List.range 8, ((vecT 1 0 m 0).tile 0).vec.fmt.isSome = true) ∧ (∃ m ∈ List.range 8, ((vecT 1 0 m 0).tile 0).vec.fmt = none) ∧
    (∃ m ∈ List.range 8, ((vecT 1 0 m 0).tile 0).vec.width = 64) ∧ (∃ m ∈ List.range 64, ((vecT 1 0 m 0).tile 0).vec.rmode = 4) := by
  decide +kernel

/-- Tile 0 with an X instruction at the head of its queue: descriptor words, and the first word of its layout record at 0. -/
def shS (op : Nat) (w : List Nat) (lay0 : Nat) : State :=
  tileS fun t => { t with
    qx := [qe op 0 0 0 3], dsc := w.zipIdx.map fun e => (e.2, BitVec.ofNat 64 e.1), store := mstore t.store 0 8 lay0 }

/-- TileShuttleTransfers: each opcode, one element of four bytes (a TEDDER block of 32) from the tile store to the registers. -/
theorem witness_shuttle : ∀ op ∈ [1, 2, 3, 4],
    (let s := shS op [(op + 1) * 2 ^ 60 + 2 * 2 ^ 58 + 2 ^ 55 + 2 ^ 36, 4096, 0, 0] (if op = 4 then 31 * 2 ^ 40 + 4 else 0)
     let h := qe op 0 0 0 3
     let ins := (s.tile 0).xins h ((s.tile 0).layWords ((s.tile 0).xdesc h.word))
     XStarts s 0 0 op h ins ∧ ins.d.dst ≤ 1 ∧ ins.d.accOp = 0 ∧ ins.d.stream = false ∧ s.xOpen 0 h.ord = false ∧ (s.tile 0).jobs = [] ∧
       0 < ins.ext (ins.perm 0)) := by
  unfold XStarts; decide +kernel

/-- TileShuttleFaults: a descriptor of zeros, a record past the program area, a source past it, and another package's memory without a window. -/
theorem witness_shuttle_faults :
    (let f := fun (w : List Nat) =>
       let s := shS 1 w 0
       let h := qe 1 0 0 0 3
       let d := (s.tile 0).xdesc h.word
       let ins := (s.tile 0).xins h ((s.tile 0).layWords d)
       (s.engHead 0 .x == some h && !s.xWaits 0 h, d.ok 1, decide (d.layout + 96 ≤ progEnd), ins.fault, s.xAllowed 0 (s.tile 0) ins)
     let w0 := 2 * 2 ^ 60 + 2 * 2 ^ 58 + 2 ^ 55 + 2 ^ 36
     (f [0]).1 = true ∧ (f [0]).2.1 = false ∧ (f [w0, 0, 0, progEnd - 64]).2.1 = true ∧ (f [w0, 0, 0, progEnd - 64]).2.2.1 = false ∧
       f [w0, progEnd, 0, 0] = (true, true, true, some 2, true) ∧ f [w0 + 2 * 2 ^ 38, 2 ^ 48, 0, 0] = (true, true, true, none, false)) := by
  decide +kernel

/-! ### Intake, registers and time: the hypotheses of the statements are met -/

/-- IntakeJudgement: each row of R81's table has a packet: shape wrong, both pairs out, a duplicate, ahead of its number, accepted; a region of BAR2, and
none. -/
theorem witness_intake :
    (let s := (enQ upS).modQueue 0 fun v => { v with nextSeq := 5 }
     s.boot.alive = true ∧ s.boot.labBlown = false ∧ s.qEnabled 0 = true ∧ s.qEnabled 63 = false ∧ s.fld aRasSteward 55 54 = 1 ∧
       pQueue (pk 1 0 0 0 []) = 0 ∧ pSeq (pk 1 0 0 0 []) = (s.queue 0).nextSeq ∧ s.unanchored < s.fld aIntkCfg 12 0 ∧
       s.fld aRasSteward 57 56 ≠ 1 ∧ (s.setFld aRasSteward 55 54 3).fld aRasSteward 55 54 ≠ 1 ∧
       s.regionQueue none 0 = some 0 ∧ s.regionQueue none (64 * 0x40000 - 1) ≠ none ∧ s.regionQueue none (2 ^ 40) = none) := by decide +kernel

/-- TestPort: the fuse blown and not, and addresses of HBM, of a register and of nothing. -/
theorem witness_test_port :
    upS.boot.labBlown = false ∧ upS.boot.alive = true ∧ upS.region 0x2000 = .hbm ∧
      upS.region (0x8200000000 + 8) = .ctl 8 ∧ upS.region hbmEnd = .none := by decide +kernel

/-- AnchorsAndReceipts: with a buddy and without, a receipt that is due, a vector that is held and none. -/
theorem witness_anchors :
    (let s := (withE upS (ent (pk 1 0 0 0 []) [])).modQueue 0 fun v => { v with receipt := some (7, 2), msixDue := true }
     s.up = true ∧ s.buddy = 0 ∧ (s.setFld aFabCfg 63 48 2).buddy ≠ 0 ∧ (s.queue 0).receipt = some (7, 2) ∧ s.qEnabled 0 = true ∧
       (s.queue 0).msixDue = true ∧ (s.queue 1).msixDue = false) := by decide +kernel

/-- HostMemory: the last block of HBM clean and poisoned, an address that nothing answers, and the control window with a listed size and another. -/
theorem witness_host_memory :
    (let a := hbmEnd - 64
     let s := { upS with hbm := { upS.hbm with poison := [(a / 64, true)] } }
     s.up = true ∧ s.findLine 4 (s.slice (a / 64)) (a / 64) = none ∧ s.dirOf (a / 64) = none ∧ s.hbm.poisoned a = true ∧
       upS.hbm.poisoned a = false ∧ s.region hbmEnd = .none ∧ s.region 0x8200000000 = .ctl 0 ∧ ctlAligned 0 8 = true ∧ ctlAligned 2 2 = false) := by
  decide +kernel

/-- RegisterWrites, RegisterEffects: a register and an offset with none; each accepted and each refused write. -/
theorem witness_registers :
    upS.up = true ∧ ctlAligned aDevMode 8 = true ∧ (regDesc aDevMode).isSome = true ∧ regDesc 0xFFF8 = none ∧ ctlAligned 2 8 = false ∧
    netS.linkUp 0 = true ∧ HState.running.live = true ∧ upS.sched = [] ∧ upS.time.step = none ∧ upS.handles = [] ∧
    upS.epoch % 2 ^ 8 = 0 ∧ upS.epoch % 2 ^ 20 = 0 ∧ (1 : W64).toNat % upS.furrowLen ≠ 0 ∧
    (upS.wr aCacheStatus 0).levelOn 4 = false ∧ (upS.wr aCacheStatus 0).levelClean 4 = false ∧
    (enQ upS).flag (aIntkQCfg 0) 63 = true ∧ (enQ upS).flag (aIntkQCfg 63) 63 = false ∧ (upS.queue 63).held = [] ∧ upS.cache.ctl = none ∧
    upS.fab.outst = [] ∧ netS.flag (aFabLinkCfg 0) 63 = true ∧ netS.fld (aFabLinkCfg 0) 2 0 ≤ 4 ∧ (netS.link 0).dead = false := by
  decide +kernel

/-- CounterRuns: an offset on its way out, a pulse that is high, and holdover. -/
theorem witness_counter :
    (let s := { upS with time := { upS.time with slew := 1, ppsEvent := some (3, 2), freqCorr := -5 }, pins := { upS.pins with ppsOut := true } }
     s.boot.alive = true ∧ s.furrowDue = false ∧ s.pending = [] ∧ s.time.slew ≠ 0 ∧ -5 ≤ s.time.freqCorr ∧
       (s.time.ns / 10 ^ 9 + 1) * 10 ^ 9 < 2 ^ 64 ∧ 3 * 10 ^ 9 + s.fld aTimePpsCfg 29 1 < 2 ^ 64) ∧
    (upS.setFld aTimeStatus 1 0 1).quality = 1 := by decide +kernel

/-- A beacon with its four times. -/
def bMsg : BeaconMsg := {
  t1 := 100, t2 := 400, t3 := 500, t4 := 800, quality := 2, rootRank := 0, rootPkg := 2, hops := 0, peerPkg := 2, rootLive := true
  optical := false, step := none }

/-- TimeSources, SourceOrder: the followed neighbour is link 0 and its class is selected; a second link is not; a port with a Sync and a Delay_Req. -/
theorem witness_sources :
    (let u := ({ netS with time := { netS.time with nbr := sins netS.time.nbr 0 bMsg } } : State).reselect
     netS.up = true ∧ netS.linkUp 0 = true ∧ netS.linkUp 63 = false ∧ bMsg.step = none ∧
       (u.followed false).map Prod.fst = some 0 ∧ u.source = 1) ∧
    (let s := { upS with time := { upS.time with ptp := [(1, { PtpPort.zero with sync := some (1, 2), req := some 3 })] } }
     (s.port 1).sync = some (1, 2) ∧ (s.port 1).req = some 3 ∧ (s.setFld aTimeStatus 9 7 4).source = 4) ∧
    upS.bestSource = 0 := by decide +kernel

/-- PulsePerSecond: no TIME_SET, one, and two. -/
theorem witness_pps :
    upS.boot.alive = true ∧ upS.time.timeSet = [] ∧
    (let s := { upS with time := { upS.time with timeSet := [(0, 5, 9, none)], ppsAssigned := some (10 ^ 9, 0) } }
     s.time.timeSet = [(0, 5, 9, none)] ∧ s.ptpOk 0 = false ∧ s.ptpOk 1 = false) := by decide +kernel

/-- FurrowBegins: nothing waits; a step and a scheduled CAP_SET for the next furrow. -/
theorem witness_furrow :
    NothingWaits upS ∧ nextBoundary upS < 2 ^ 64 ∧ reached (furrowAdd upS.furrow 1) (furrowAdd upS.furrow 1) = true ∧
    (let p := pk 0x0701 1 40 0xFFFFFFFF [(16, 1200), (18, 16), (56, 1)]
     let s := { withE upS { ent p [] with stage := .scheduled } with sched := [{ furrow := furrowAdd upS.furrow 1, row := 7, kind := .cmd 0 5 }] }
     s.buddy = 0 ∧ ((s.queue 0).entry? 5).isSome = true ∧ pOpcode p = 0x0701 ∧ pPtr p = false ∧ pQuiet (p ||| BitVec.ofNat 512 (4 * 2 ^ 24)) = true ∧
       s.baseChk 0 p = .ok ∧ pParamLen p ≤ 40 ∧ bytesOf p 16 2 = 1200 ∧ bytesOf p 18 1 = 16 ∧
       ∀ k, k < 56 → 19 ≤ k → bytesOf p k 1 = 0) := by
  unfold NothingWaits; decide +kernel

/-! ### Commands: the hypotheses of the statements are met -/

/-- `s` with that command alone in queue 0, its parameters in the packet. -/
def cmdS (s : State) (op target : Nat) (ps : List (Nat × Nat)) : State := withE s (ent (pk op 0 40 target ps) [])

/-- It is the next command of its queue and passes the checks that all opcodes share. -/
def StartsCmd (s : State) (op target : Nat) (ps : List (Nat × Nat)) : Prop :=
  Begins (cmdS s op target ps) 0 op (ent (pk op 0 40 target ps) [])

/-- The same for a command whose parameters are fetched, or that is scheduled: flags, parameter length and data. -/
def HeadCmd (s : State) (op flags len target : Nat) (ps : List (Nat × Nat)) (data : List (List Byte)) : Prop :=
  let e := ent (pk op flags len target ps) data
  (withE s e).headEntry 0 = some e ∧ (withE s e).baseChk 0 e.pkt = .ok ∧ pOpcode e.pkt = op

/-- An operation of partition 0 in slot 3. -/
def runS (op : Nat) (st : HState) (tiles : List Nat) : State := withH partS (opRec op 0 st tiles)

/-- CommandStarts: a head entry, none, and each failed check of R84: a flag, an opcode, at_furrow, the port, the handle, the target, the length. -/
theorem witness_starts :
    StartsCmd partS 1 0 [] ∧ partS.headEntry 0 = none ∧ partS.headEntry 63 = none ∧ Listed 1 ∧ ¬ Listed 0x1000 ∧
    FlagsBad (pk 1 16 0 0 []) ∧ ¬ FlagsBad (pk 1 0 0 0 []) ∧ pAtFurrow (pk 6 1 0 0 []) = true ∧
    ((portMatrix.getD 13 []).getD 0 0).testBit 1 = false ∧ partS.handle? 0 = none ∧ partS.targetOk (pk 0x0201 0 0 16 []) = false ∧
    40 < pParamLen (pk 1 0 41 0 []) ∧ pointerForm 1 = false ∧
    HeadCmd partS 0x0601 1 40 0 [(26, 1), (56, 900)] [] ∧ aheadOf 900 partS.furrow < 2 ^ 47 ∧
    partS.time.ns + (partS.setFld aTimeStatus 9 7 3).guard ≤ ((partS.setFld aTimeStatus 9 7 3).boundary 900).toNat ∧
    (partS.setFld aTimeStatus 9 7 3).boundary 0 < (partS.setFld aTimeStatus 9 7 3).time.ns + (partS.setFld aTimeStatus 9 7 3).guard := by
  unfold StartsCmd Begins HeadCmd Listed FlagsBad; decide +kernel

/-- ParameterFetch: an address of the host, one of local memory, one of neither; an entry that waits for its data. -/
theorem witness_fetch :
    HeadCmd partS 0x0401 8 72 0 [(16, 4096)] [] ∧ HeadCmd partS 0x0401 8 72 0 [(16, 2 ^ 63 + hbmEnd)] [] ∧ pointerForm 0x0401 = true ∧
    dmaKind 0 4096 = some true ∧ dmaKind 0 (2 ^ 63 + hbmEnd) = some false ∧ dmaKind 0 (2 ^ 63 + 2 ^ 48) = none ∧
    (partS.readMem false hbmEnd 64).unpop = true ∧
    (let e := { ent (pk 0x0401 8 72 0 [(16, 4096)]) [] with stage := .fetching }
     ((withE partS e).queue 0).entries.find? (fun x => x.stage == .fetching) = some e) := by
  unfold HeadCmd; decide +kernel

/-- StatusRecords, HandleCommands' NOP and FLUSH: no parameter bytes, a ring in host memory that has room, no hold, quiet and not. -/
theorem witness_records :
    StartsCmd partS 1 0 [] ∧ RestZero (pk 1 0 40 0 []) [] ∧ pQuiet (pk 1 0 40 0 []) = false ∧ pQuiet (pk 1 4 40 0 []) = true ∧
    ((cmdS partS 1 0 []).queue 0).entry? 5 = some (ent (pk 1 0 40 0 []) []) ∧
    (let s := cmdS partS 1 0 []
     dmaKind (s.qPort 0) (s.fld (aIntkQCqBase 0) 63 12 * 4096 + 32 * (s.queue 0).cqPos) = some true ∧ s.fld aIntkCfg 44 13 = 0) ∧
    StartsCmd partS 2 0 [(16, 1)] ∧ RestZero (pk 2 0 40 0 [(16, 1)]) [(16, 2)] := by
  refine ⟨?_, restZero_of (by decide +kernel), by decide +kernel, by decide +kernel, by decide +kernel, by decide +kernel, ?_,
    restZero_of (by decide +kernel)⟩ <;> · unfold StartsCmd Begins; decide +kernel

/-- HandleCommands: each command on an operation of each state, a program and none. -/
theorem witness_handles :
    (∀ op ∈ [3, 4, 5, 6], ∀ st ∈ [HState.running, .suspending, .suspended, .done, .cancelled], StartsCmd (runS 0x0203 st []) op hw3 []) ∧
    (runS 0x0302 .running [0]).handle? hw3 = some (3, opRec 0x0302 0 .running [0]) ∧ (opRec 0x0302 0 .running [0]).isProg = true ∧
    (opRec 0x0203 0 .running []).isProg = false ∧ (runS 0x0203 .running []).ctl = [] ∧ RestZero (pk 3 0 40 hw3 []) [] := by
  refine ⟨?_, by decide +kernel, by decide +kernel, by decide +kernel, by decide +kernel, restZero_of (by decide +kernel)⟩
  unfold StartsCmd Begins; decide +kernel

/-- SettingCommands: each of its commands is the next one, the lab's on the lab's port; an image of 16 phase words and a scan that waits. -/
theorem witness_settings :
    (∀ c ∈ [(0x0101, [(16, 2 ^ 64 - 1)]), (0x0102, [(16, 20), (24, 2 ^ 20)]), (0x0102, [(16, 21), (17, 1), (24, 1)]), (0x0901, [(24, 4096)]),
        (0x0902, [(20, 1024), (24, 4096)]), (0x0A01, [(16, 1)]), (0x0A02, [(24, 4096)]), (0x0701, [(16, 3600), (18, 16)]), (0x0701, [(16, 1199)])],
      StartsCmd partS c.1 0xFFFFFFFF c.2) ∧
    (∀ c ∈ [(0x0D01, [(16, 1)]), (0x0D02, [(16, 3), (17, 155), (24, 4096)])],
      let s := (cmdS partS c.1 0 c.2).setFld (aIntkQCfg 0) 62 60 5
      Begins s 0 c.1 (ent (pk c.1 0 40 0 c.2) [])) ∧
    HeadCmd partS 0x0702 8 128 0 [(16, 4096)] [zeros 128] ∧ (partS.setFlag aDevMode 0).globalDet = true ∧ partS.globalDet = false ∧
    (partS.source = 0 ∧ (partS.setFld aTimeStatus 9 7 3).source = 3) ∧
    (partS.tile 467).retired = false ∧ partS.tilePart? 467 = none ∧ partS.tilePart? 0 = some 0 ∧ partS.flag aPwrStatus 49 = false := by
  unfold StartsCmd Begins HeadCmd; decide +kernel

/-- Its named bytes are the only ones set. -/
theorem witness_settings_rest :
    RestZero (pk 0x0102 0 40 0 [(16, 20), (24, 2 ^ 20)]) [(16, 2), (24, 8)] ∧ RestZero (pk 0x0701 0 40 0 [(16, 3600), (18, 16)]) [(16, 3)] ∧
    RestZero (pk 0x0D02 0 40 0 [(16, 3), (17, 155), (24, 4096)]) [(16, 2), (24, 8)] :=
  ⟨restZero_of (by decide +kernel), restZero_of (by decide +kernel), restZero_of (by decide +kernel)⟩

/-- PartitionCommands: a partition that exists and one that does not, runs that end with the active tiles, beyond them and on another's; a queue of the
partition that is enabled; a partition that is being cleared. -/
theorem witness_partitions :
    (let s := { partS with boot := { partS.boot with active := 144 } }
     s.partExists 0 = true ∧ s.partExists 1 = false ∧ s.active = 144 ∧ s.partRun 0 0 = some (0, 4) ∧
     StartsCmd s 0x0201 1 [(16, 4), (17, 140)] ∧ StartsCmd s 0x0201 1 [(16, 4), (17, 141)] ∧ StartsCmd s 0x0201 1 [(16, 3), (17, 1)] ∧
     StartsCmd s 0x0202 0 [] ∧ StartsCmd s 0x0205 0 [] ∧ s.handles = [] ∧ s.qPart 9 = 0 ∧ s.qEnabled 9 = false) ∧
    StartsCmd (runS 0x0203 .running []) 0x0205 0 [] ∧
    ((enQ partS).setFlag (aIntkQCfg 9) 63).qEnabled 9 = true ∧
    (({ partS with parts := [(0, { Part.zero with clearing := true })] } : State).part 0).clearing = true ∧ (partS.part 15).clearing = false := by
  unfold StartsCmd Begins; decide +kernel

/-- A valid image of two bundles. -/
def img0 : List Byte :=
  leBytes 4 0x4D475250 ++ leBytes 2 2 ++ leBytes 2 1 ++ leBytes 2 0 ++ zeros 1142 ++ leBytes 16 5 ++ leBytes 16 77

/-- ProgramCommands: that image, one whose header is wrong, one whose M descriptor is; a loaded partition with a latest image; four tiles of which three are
halted; a window with one dirty line. -/
theorem witness_programs :
    img0.length = 1184 ∧ imgHeadOk img0 = true ∧ imgBadM img0 = none ∧ imgBadX img0 = none ∧ imgHeadOk (img0.set 0 0) = false ∧
    (imgBadM ((img0.set 1159 24).set 1158 64)).isSome = true ∧
    HeadCmd partS 0x0301 0 40 0 [(16, 4096), (24, 1184)] [img0] ∧
    (let s := { partS with parts := [(0, { Part.zero with loaded := true, imgLen := 1184 })] }
     let l := (s.setFlag (aCkptPartLatest 0) 49).setFld (aCkptPartLatest 0) 47 0 7
     StartsCmd s 0x0302 0 [(16, 1), (40, 2 ^ 64 - 1)] ∧ StartsCmd l 0x0303 0 [(16, 1), (48, 7)] ∧ l.latestImage 0 = 7 ∧ (s.part 0).loaded = true ∧
       s.partTiles 0 ≠ [] ∧ (partS.part 0).loaded = false) ∧
    (let s := ([1, 2, 3].foldl (fun (s : State) k => s.modTile k fun t => { t with run := .halted }) (runS 0x0302 .running [0, 1, 2, 3])).modTile 0
       fun t => { t with run := .running, stopped := true }
     (s.tile 0).run = .running ∧ (s.tile 0).stopped = true ∧ (s.tile 3).run = .halted ∧ (s.tile 0).ex = [] ∧ s.cache.wins = [] ∧
       ∀ w, w < 8 → s.flag (aCacheWinBase w) 0 = false) ∧
    (let s := ((partS.setFld (aCacheWinBase 2) 47 12 3).setFld (aCacheWinLimit 2) 47 12 3)
     keyLevel (lineKey 4 (s.slice 255) 0 0) = 4 ∧ keyInst (lineKey 4 (s.slice 255) 0 0) = s.slice 255 ∧
       64 * s.fld (aCacheWinBase 2) 47 12 ≤ 255 ∧ 255 ≤ 64 * s.fld (aCacheWinLimit 2) 47 12 + 63) := by
  unfold HeadCmd StartsCmd Begins; decide +kernel

/-- MemoryCommands: ranges that meet, that touch and that end with HBM; a fill; a slot left and none; a transfer to do. -/
theorem witness_memory :
    StartsCmd partS 0x0203 0 [(16, 0x2000), (24, 0x2fff), (32, 4096)] ∧
    StartsCmd partS 0x0203 0 [(16, hbmEnd - 8192), (24, hbmEnd - 4096), (32, 4096)] ∧
    StartsCmd partS 0x0204 0 [(16, hbmEnd - 8), (24, 8), (32, 77)] ∧ freeSlot 4096 partS 0 = some 0 ∧
    RestZero (pk 0x0203 0 40 0 [(16, hbmEnd - 8192), (24, hbmEnd - 4096), (32, 4096)]) [(16, 24)] ∧
    (∀ op ∈ [0x0203, 0x0204],
      let p := pk op 0 40 0 [(16, 0x2000), (24, 0x40), (32, 0x10)]
      let r := { opRec op 0 .running [] with pkt := p }
      FreshTransfer (withH partS r) 3 r 0x2000 0x40 ∧ FreshTransfer (withH partS r) 3 r 0x40 0x10) := by
  refine ⟨?_, ?_, ?_, by decide +kernel, restZero_of (by decide +kernel), ?_⟩ <;>
    first
      | (unfold StartsCmd Begins; decide +kernel)
      | (unfold FreshTransfer; decide +kernel)

/-- The words of a batch: one real 1 by 1 system. -/
def batchW : List Nat := [2 ^ 60 + 2 ^ 40 + 2 ^ 24 + 1, 0x3000, 0x3100, 0x3200, 0x3300, 0x3400, 0x3500, 0, 0]

/-- `partS` with that batch running under slot 3, its problems of `stopped` done, and the commit phase begun when `late`. -/
def batchS (stopped : SMap Bool) (late : Bool) : State :=
  { withH partS { opRec 0x0401 0 .running [0, 1, 2, 3] with late := late } with
    batches := [(3, { handle := 7, part := 0, desc := batchW.map (BitVec.ofNat 64), stopped := stopped, tau := 0 })] }

/-- SolverCommands: a descriptor that passes, one whose word 3 fails, a length that is wrong; a problem to stop; a commit phase that ends. -/
theorem witness_solver :
    HeadCmd partS 0x0401 8 72 0 [(16, 4096)] [batchW.flatMap (leBytes 8)] ∧ (∀ i, i < 9 → partS.batchWordOk batchW i = true) ∧
    partS.batchWordOk (batchW.set 3 1) 3 = false ∧ (∀ j, j < 3 → partS.batchWordOk (batchW.set 3 1) j = true) ∧
    HeadCmd partS 0x0401 8 71 0 [(16, 4096)] [zeros 71] ∧
    (let s := batchS [] false
     (sfind? s.batches 3).isSome = true ∧ (s.hslot 3).map HRec.state = some .running ∧ s.winBusy 0 false = false ∧ s.digRun = [] ∧
       BDesc.count batchW = 1 ∧ BDesc.base batchW 6 + BDesc.xLen batchW + 16 ≤ 0x3600) ∧
    ((batchS [(0, true)] true).hslot 3).map HRec.late = some true := by
  unfold HeadCmd; decide +kernel

/-! ### Collectives, Granary, boot, coherence, memory, fabric, repair and power: the hypotheses of the statements are met -/

/-- Descriptor of a collective over packages: op, members, count, and furrows of a step. -/
def collD (op n count f : Nat) : List Nat := [op * 2 ^ 60 + n * 2 ^ 16, count, 8192, 40960, 409600, 819200, 0, f * 2 ^ 56]

/-- A set-up summary of three ranks. -/
def sumC (etype : Nat) : Summary :=
  { op := 1, alg := 0, redop := 0, etype := BitVec.ofNat 3 etype, count := 64, root := 0, n := 3, s := 250, digest := 9 }

/-- A collective of three packages that is being set up, at that rank. -/
def collC (op rank : Nat) : Coll :=
  { run := .setup, handle := 0, part := 0, queue := 0, seq := 5, sum := sumC 0, alg := 0
    desc := (collD op 3 96 3).map (BitVec.ofNat 64), members := [1, 2, 3], rank := rank, sums := if rank = 0 then [(0, sumC 0)] else []
    nextRun := 4, commits := 4, cmd := (0, 7), runNo := 4, step := 0, stepAt := 0, reissue := 0, slipped := false, finished := false
    doneFrom := [], slipRank := none, got := [], sent := [], held := [], ready := [], arrivals := [] }

/-- `s` with that collective in slot 3, and its operation in slot 3 of the handles. -/
def withC (s : State) (k : Coll) (f : HRec → HRec) : State :=
  { withH s (f (opRec 0x0501 0 .running [])) with colls := [(3, k)] }

/-- That collective, idle under its handle. -/
def idleC (op : Nat) : Coll := { collC op 1 with run := .idle, handle := BitVec.ofNat 32 hw3 }

/-- CollectiveSetup: a descriptor that passes and one whose word 1 fails, a length that is wrong, summaries that agree and not, and teardown. -/
theorem witness_collective_setup :
    (let data := [(collD 1 2 64 250).flatMap (leBytes 8), leBytes 2 1 ++ leBytes 2 2]
     let ms := memberTable 2 (leBytes 2 1 ++ leBytes 2 2)
     let s := (partS.setFld aDevPkgAddr 15 0 1).setFld aTimeStatus 9 7 3
     HeadCmd s 0x0501 8 64 0 [] data ∧ HeadCmd s 0x0501 8 63 0 [] data ∧
       descBad ((collD 1 2 64 250).map (BitVec.ofNat 64)) = none ∧ (descBad ((collD 1 2 63 250).map (BitVec.ofNat 64))).isSome = true ∧
       dmaKind 0 8192 = some true ∧ (ms.filter fun m => m == s.pkgId).length = 1 ∧ (algOf 1 0 ms).isSome = true ∧
       2 * s.noticeFurrows ms + 1 ≤ 250 ∧ s.colls = []) ∧
    ((collC 1 0).n = 3 ∧ (sins (collC 1 0).sums 2 (sumC 0)).length < 3 ∧ (sins (sins (collC 1 0).sums 1 (sumC 0)) 2 (sumC 0)).length = 3 ∧
      (sumC 0).etype ≠ (sumC 1).etype) ∧
    (let s := withC partS (idleC 1) id
     StartsCmd s 0x0503 hw3 [] ∧ s.handle? hw3 = some (3, opRec 0x0501 0 .running []) ∧ (idleC 1).handle.toNat = hw3) := by
  unfold HeadCmd StartsCmd Begins; decide +kernel

/-- CollectiveRuns: COLL_STEP with its furrow and its run's number and without; a step in progress, with reports of the last rank; barriers. -/
theorem witness_collective_runs :
    (let s := withC partS (idleC 1) id
     HeadCmd s 0x0502 0 40 hw3 [] [] ∧ HeadCmd s 0x0502 1 40 hw3 [(16, 4), (56, 900)] [] ∧ (idleC 1).op ≠ 6 ∧ (idleC 1).nextRun = 4 ∧
       s.sched = [] ∧ aheadOf 900 s.furrow < 2 ^ 47) ∧
    (idleC 6).op = 6 ∧ StartsCmd (withC partS (idleC 6) id) 0x0103 hw3 [(16, 4)] ∧ (sfind? (idleC 6).arrivals (4 * 16384 + 1)).isNone = true ∧
    freeSlot 4096 (withC partS (idleC 6) id) 0 = some 0 ∧ 2 < (collC 1 1).n := by
  unfold HeadCmd StartsCmd Begins; decide +kernel

/-- The collective's part of a furrow boundary: a step whose decision is due, slipped for the third and the fourth time, and its result. -/
theorem witness_collective_decision :
    (let k := { collC 1 0 with run := .run, stepAt := furrowAdd upS.furrow (2 ^ 48 - 2), slipped := true, reissue := 3 }
     let s := { upS with colls := [(3, k)] }
     NothingWaits { s with colls := [] } ∧ nextBoundary s < 2 ^ 64 ∧ aheadOf (furrowAdd s.furrow 1) k.stepAt = k.s ∧
       (s.stepResult { k with step := 1, got := [(1, [(0, 5)]), (2, [(0, 2 ^ 100 + 77)])], held := [(0, zeros 128)] }).2.isSome = true) := by
  unfold NothingWaits; decide +kernel

/-- SnapshotCommands: image numbers above and not above the latest, a rank below the count and not, 4,096 packages; its operation's two ends. -/
theorem witness_snapshot :
    (let s := ((partS.setFlag (aCkptPartLatest 0) 49).setFld (aCkptPartLatest 0) 47 0 5).setFld aTimeStatus 9 7 3
     HeadCmd s 0x0601 0 40 0 [(26, 1)] [] ∧ HeadCmd s 0x0601 1 40 0 [(16, 5), (26, 1), (56, 900)] [] ∧
       HeadCmd s 0x0601 1 40 0 [(16, 6), (24, 3), (26, 3), (56, 900)] [] ∧ HeadCmd s 0x0601 1 40 0 [(16, 6), (24, 4095), (26, 4096), (56, 900)] [] ∧
       s.lateOrFull 900 = none) ∧
    (let r := { opRec 0x0601 0 .running [] with pkt := pk 0x0601 1 40 0 [(16, 6), (22, 1), (26, 1)], late := true }
     r.opcode = 0x0601 ∧ bit (r.parm 22 1) 0 = true ∧ bit ((opRec 0x0601 0 .running []).parm 22 1) 0 = false ∧ partS.mirroring = false ∧
       ((partS.setFld aFabCfg 63 48 2).setFlag aCkptMirror 63).mirroring = true) := by
  unfold HeadCmd; decide +kernel

/-- Partition 0 with a region of one page at 0x40000, slot 0 at 0x100000, and image 5 of that page in the slot. -/
def imageS : State :=
  let s := ((partS.setFld (aCkptRegionBase 0 0) 1 0 1).setFld (aCkptRegionBase 0 0) 47 12 0x40).setFld (aCkptRegionLen 0 0) 27 0 1
  let s := (s.setFld (aCkptSlotBase 0 0) 47 12 0x100).setFld (aCkptSlotLen 0 0) 24 0 8
  let img := s.imageOf 0 { image := 5, furrow := 4, quality := 0, pos := 3, rank := 0, count := 1, dedupe := false }
  { s.hbmPut 0x100000 img with ckpt := { s.ckpt with slots := [(0, 6)] }, digRun := [] }

/-- RestoreCommands: an image that is there and one that is not; its two entries; its operation. -/
theorem witness_restore :
    StartsCmd imageS 0x0602 0 [(16, 5)] ∧ StartsCmd imageS 0x0602 0 [(16, 6), (22, 2)] ∧ imageS.slotOf 0 5 = some 0 ∧ imageS.slotOf 0 6 = none ∧
    imageS.hbm.poison = [] ∧ (opRec 0x0602 0 .running []).parm 22 1 = 0 ∧
    (partS.imageCheck 0 (zeros 4096)).1 ≠ 0 ∧ freeSlot 4096 imageS 0 = some 0 := by
  unfold StartsCmd Begins; decide +kernel

/-- Package 1 with package 2 for its buddy, its mirror area on. -/
def buddyS : State := (partS.setFld aFabCfg 63 48 2).setFlag aCkptMirror 63

/-- MirrorHeld, MirrorKept, TakeoverCommands: a buddy, a partition with a sealed image that is copied and one with none, seals of the right count and
another; an area that passes and one in the middle of a page; a spare and no spare; a takeover. -/
theorem witness_mirror :
    buddyS.up = true ∧ buddyS.buddy ≠ 0 ∧ buddyS.pairInService = true ∧ buddyS.flag aCkptMirror 63 = true ∧ (buddyS.mirror 15).image = none ∧
    (buddyS.mirror 15).chunks.length = 0 ∧
    StartsCmd buddyS 0x0603 0xFFFFFFFF [(16, 0x100000), (24, 1), (28, 262144), (32, 1)] ∧ StartsCmd buddyS 0x0603 0xFFFFFFFF [(16, 1)] ∧
    inHbm 0x100 262145 = true ∧ buddyS.areaMeets 0x100 262145 = false ∧
    (let s := { buddyS with ckpt := { buddyS.ckpt with sending := [(15, [])], trying := some 0 } }
     (sfind? s.ckpt.sending 15).isSome = true ∧ s.latestImage 15 = 0 ∧ s.handles = [] ∧ s.ckpt.lost = false ∧ s.flag (aCkptSpare 1) 63 = false) ∧
    partS.flag aCkptCfg 63 = false ∧ (partS.setFlag aCkptCfg 63).flag aCkptCfg 63 = true ∧ partS.ckpt.takeover = none ∧
    bit 0x8001 15 = true ∧ at_ (({ partS with ckpt := { partS.ckpt with takeover := some (2, 0x8001, 0, 5) } } : State).takenImage 15) 24 1
      ≠ partS.active % 256 := by
  unfold StartsCmd Begins; decide +kernel

/-- The same for commands of the buddy's port: MIRROR_DELTA and TAKEOVER. -/
theorem witness_buddy_port : ∀ c ∈ [(0x0C01, 0), (0x0C02, 0xFFFFFFFF)],
    Begins ((cmdS partS c.1 c.2 [(16, 5)]).setFld (aIntkQCfg 0) 62 60 4) 0 c.1 (ent (pk c.1 0 40 c.2 [(16, 5)]) []) := by
  unfold Begins; decide +kernel

/-- BootRows: without power and with it, before the boot and after, no good pair, and no image in the flash. -/
theorem witness_boot :
    State.reset.pins.pwrok = true ∧ State.reset.boot.alive = true ∧ State.reset.boot.phase < 7 ∧ State.reset.boot.noFirmware = false ∧
    ({ State.reset with boot := { State.reset.boot with flash := [] } } : State).bootFrom = none ∧ upS.up = true ∧ upS.boot.phase = 7 ∧
    ({ upS.pins with pwrok := false } : Pins).pwrok = false ∧ upS.pins.vrAlertN = true := by decide +kernel

/-- BootRows, FirmwareCommands: if a signature verifies, an image is valid. Which ones do is not known to the model. -/
theorem witness_firmware_image (h : ∀ a b, Config.signatureValid a b = true) :
    upS.fwValid (leBytes 4 0x57465847 ++ zeros 252) = true ∧ upS.fwValid [] = false := by
  unfold State.fwValid; simp only [h]; decide +kernel

/-- FirmwareCommands: staging, activation with nothing staged and with an image, its furrow, and a relay of two packages. -/
theorem witness_firmware :
    HeadCmd partS 0x0802 0 40 0xFFFFFFFF [] [] ∧ HeadCmd partS 0x0802 1 40 0xFFFFFFFF [(56, 900)] [] ∧ partS.boot.stagedValid = false ∧
    (let s := { upS with boot := { upS.boot with stagedValid := true } }
     NothingWaits s ∧ s.actOpcode = false ∧ s.activePair = some 0 ∧ s.pairState 1 = 0) ∧
    (let table := leBytes 2 1 ++ leBytes 2 2
     HeadCmd partS 0x0B02 8 32 0xFFFFFFFF [] [zeros 32, table] ∧ dmaKind 0 0 = some true) ∧
    (opRec 0x0B02 0 .running []).opcode = 0x0B02 := by
  unfold HeadCmd NothingWaits; decide +kernel

/-- Every cache level on, one line, and what the directory says of it. -/
def cacheS (lines : SMap CLine) (d : SMap DirEnt) : State :=
  { (((((upS.setFlag aCacheMode 1).setFlag aCacheMode 2).setFlag aCacheMode 3).setFlag aCacheMode 4).setFlag aCacheMode 5) with
    cache := { upS.cache with lines := lines, dir := d } }

/-- CoherenceRequests, CoherenceEvictions, HostCoherence: a line that nothing holds, one owned by cluster 0, one that is written back, one on its way out
of the last core; the last line of HBM and the first beyond it. -/
theorem witness_coherence :
    (let s := cacheS [] []
     s.up = true ∧ s.levelOn 2 = true ∧ s.levelOn 4 = true ∧ s.evictRoom 95 = true ∧ s.hbm.poisoned (hbmEnd - 64) = false ∧ s.cache.dir = [] ∧
       s.findLine 4 (s.slice (hbmEnd / 64 - 1)) (hbmEnd / 64 - 1) = none) ∧
    (let key := lineKey 2 0 ((cacheS [] []).setOf 2 5) 0
     let s := cacheS [(key, { line := 5, st := .o, data := 7, chunks := 0, hit := false })] [(5, { st := .o, holders := [0, 1], wb := false, waiting := [] })]
     s.findLine 2 0 5 = some (key, { line := 5, st := .o, data := 7, chunks := 0, hit := false }) ∧ s.findLine 2 95 5 = none ∧
       keyLevel key = 2 ∧ keyInst key = 0 ∧ heldBy 0 5 key { line := 5, st := .o, data := 7, chunks := 0, hit := false } = true) ∧
    (let s := cacheS [] [(5, { st := .e, holders := [11], wb := true, waiting := [] })]
     let v : Evict := { owner := 95, line := 5, data := 7, dirty := true, gone := false, acked := false }
     let t := { s with cache := { s.cache with evict := [v] } }
     t.evicting 11 5 = true ∧ s.stillHolds 11 5 = false ∧ evictHolder 95 = 11 ∧ (s.dirOf 5).map DirEnt.wb = some true) := by decide +kernel

/-- StackedMemory: a good block, a poisoned one, a coalescer at work, a stopped stack, a migration. -/
theorem witness_hbm :
    upS.boot.alive = true ∧ upS.hbmServes (hbmEnd - 1) = true ∧ upS.hbm.poisoned 0 = false ∧
    ({ upS.hbm with poison := [(0, true)] } : HbmS).poisoned 63 = true ∧ (upS.stack 7).stopped = false ∧
    (({ upS with hbm := { upS.hbm with stk := [(7, { mig := [(255, 5859374)], ce := [], stopped := true })] } } : State).stack 7).mig
      = [(255, 5859374)] := by decide +kernel

/-- A request of package 2 for this package: read, write or atomic of eight bytes. -/
def inHdr (op gen : Nat) : FabHdr :=
  { reqHdr 7 with op := BitVec.ofNat 8 op, size := 3, dst := 1, src := 2, gen := BitVec.ofNat 24 gen }

/-- The completion cache covers every package. -/
def ccS : State := netS.setFld aFabCcRange 63 48 65535

/-- FabricTarget: intact and not, newer by one and by half the range, a repeat and a stale one, the last eight bytes of HBM. -/
theorem witness_fabric_target :
    Intact ccS (inHdr 3 1) ∧ Newer ccS (inHdr 3 1) ∧ Newer ccS (inHdr 3 (2 ^ 23)) ∧ ¬ Newer ccS (inHdr 3 (2 ^ 23 + 1)) ∧
    OneBlock ccS (hbmEnd - 8) 8 ∧ (inHdr 3 1).hops ≠ 15 ∧ ccS.fab.order.length < 16384 ∧ ccS.fab.orderWait = [] ∧ ccS.handles = [] ∧
    (let s := ccS.setCc (inHdr 3 1) { gen := 1, fin := true, status := 5, data := 6 }
     (sget CCEnt.zero s.fab.cc (ccKey (inHdr 3 1))).fin = true ∧ (sget CCEnt.zero s.fab.cc (ccKey (inHdr 3 1))).gen = (inHdr 3 1).gen) := by
  unfold Newer OneBlock Intact; decide +kernel

/-- FabricIssuer: a request under way and none, a slot that is held, REMOTE_OP to here and to the neighbour. -/
theorem witness_fabric_issuer :
    (let s := withOut netS 7 .nobody
     s.up = true ∧ ∃ o, s.fab.outst = [o] ∧ o.link < 64 ∧ o.isFor = .nobody ∧ o.hdr.op ≠ 1) ∧
    (let s := { netS with fab := { netS.fab with slots := [(2 * 4096 + 4095, { gen := 3, busy := true, poisoned := true })] } }
     (sget SlotS.zero s.fab.slots (2 * 4096 + 4095)).poisoned = true) ∧
    remoteSize 2 3 = true ∧ netS.dest (2 * 2 ^ 48 + 64) = .remote 2 64 ∧ netS.dest 64 = .here 64 ∧ netS.keyOk 0 2 64 2 = true ∧ netS.fab.outst = [] ∧
    StartsCmd netS 0x0B01 0xFFFFFFFF [(16, 64), (24, 2), (25, 3)] ∧ netS.buddy = 0 ∧ netS.flag aCkptCfg 63 = false := by
  refine ⟨⟨by decide +kernel, _, rfl, by decide +kernel⟩, by decide +kernel, by decide +kernel, by decide +kernel, by decide +kernel,
    by decide +kernel, by decide +kernel, ?_, by decide +kernel⟩
  unfold StartsCmd Begins; decide +kernel

/-- LinkLife: link 0 training and UP; a peer that is none, and one with two lanes of zero eye. -/
theorem witness_links :
    netS.boot.alive = true ∧ netS.linkUp 0 = true ∧ (netS.link 63).dead = false ∧ netS.pkgId ≠ 0 ∧
    (let s := netS.setFld (aFabLinkStatus 0) 2 0 1
     let rep := fun (peer : Nat) (e : List Nat) => ({ peerPkg := BitVec.ofNat 16 peer, peerChassis := 0, peerLink := 63, bootOk := true, eyes := e, txLocal := 0
                                                      rxLocal := 0, txRemote := 0, rxRemote := 0 } : TrainReport)
     s.fld (aFabLinkStatus 0) 2 0 = 1 ∧ s.flag (aFabLinkCfg 0) 63 = true ∧ s.trainRefused 0 (rep 0 [64, 64, 64, 64, 64]) = true ∧
       s.trainRefused 0 (rep 1 [64, 64, 64, 64, 64]) = true ∧ s.trainRefused 0 (rep 2 [64, 64, 64, 64, 64]) = false ∧
       (s.badLanes 0 (rep 2 [64, 64, 64, 64, 64])).length = 0 ∧ (s.badLanes 0 (rep 2 [0, 0, 64, 64, 64])).length = 2) ∧
    (netS.setFld (aFabLinkStatus 0) 2 0 5).fld (aFabLinkStatus 0) 2 0 = 5 ∧ netS.flag (aFabLinkStatus 0) 7 = false ∧ (netS.link 0).nackRun = 0 := by
  decide +kernel

/-- FaultsAndRepair: a tile of partition 0 with a spare on its die, one that is not mapped; each kind of REPAIR; a chunk to hash. -/
theorem witness_repair :
    (partS.tile 1).retired = false ∧ partS.tilePart? 1 = some 0 ∧ partS.logical? 1 ≠ none ∧ partS.faultOp 1 = none ∧ (partS.spare? 0).isSome = true ∧
    partS.spare? 3 ≠ some 0 ∧ partS.logical? 623 = none ∧
    (∀ ps ∈ [[(16, 5)], [(16, 0), (17, 3), (18, 155)], [(16, 1), (17, 7), (18, 31)], [(16, 2)], [(16, 3)], [(16, 4)]],
      StartsCmd partS 0x0903 0xFFFFFFFF ps) ∧
    partS.pcRetired 7 31 = false ∧ partS.fld (aHbmStackStatus 7) 29 28 < 2 ∧ partS.activePair = some 0 ∧ partS.pairState 1 = 0 ∧
    netS.flag (aFabLinkStatus 0) 7 = false ∧ bit (sget 0 partS.fab.d2d 13) 0 = false ∧ partS.breachOf 2 0 1 = none ∧
    (((partS.setFld (aDetRegionBase 0 0) 1 0 1).setFld (aDetRegionBase 0 0) 47 12 3).setFld (aDetRegionLen 0 0) 27 0 1).inRegion
      aDetRegionBase aDetRegionLen 0 3 = true := by
  unfold StartsCmd Begins; decide +kernel

/-- PowerAndHeat: a die with tiles of a partition; each thermal step; the floor's hold. -/
theorem witness_power :
    partS.boot.alive = true ∧ partS.partExists 0 = true ∧ 0 < partS.tileCount 0 0 ∧ upS.pins.pwrok = true ∧ upS.pwr.tripped = false ∧
    upS.floored = false ∧ upS.pins.vrAlertN = true ∧ ({ upS.pwr with alertHold := true } : PwrS).alertHold = true ∧ upS.thermStep = 0 ∧
    (upS.setFld aPwrStatus 51 50 3).thermStep = 3 := by decide +kernel

/-- RateKept, UnpoweredStays, StoresKeepForm, EveryStepGoesOn: states and steps that meet them. -/
theorem witness_invariants :
    rateOk upS ∧ rateOk State.reset ∧ Mem.wf upS.hbm.mem = true ∧
    Unpowered { upS with pins := { upS.pins with pwrok := false }, boot := { upS.boot with alive := false } } := by
  refine ⟨by unfold rateOk; decide +kernel, by unfold rateOk; decide +kernel, by decide +kernel, by decide +kernel, by decide +kernel, ?_⟩
  intro b p h; exact absurd h (by simp [upS, State.reset])

/-- IntegerEdges: both edges of one bit and of 64. -/
theorem witness_integers : sint 1 1 = -1 ∧ sint 64 (2 ^ 63) = -(2 : Int) ^ 63 ∧ sint 64 (2 ^ 64 - 1) = -1 := by decide +kernel

/-- BootAndReset, RegisterCommands: two journal entries of which one has its retire mark; the record waits for enable, then takes slot 0 (R120, R543). -/
theorem test_queue_resumes :
    let s := upS.takeQueue [{ queue := 3, seq := 5, pkt := 1, retired := false }, { queue := 3, seq := 4, pkt := 1, retired := true }] 3 5
    let v := s.queue 3
    v.nextSeq = 6 ∧ v.anch = 5 ∧ (v.entries.map fun e => (e.seq, e.restated)) = [(5, true)] ∧
      (v.held.map fun r => (r.status, r.seq, r.queue)) = [(0x030C, 6, 3)] ∧ s.fld (aIntkQCqHead 3) 14 0 = 0 ∧
      (match exec (.queueEnable 3 (BitVec.ofNat 64 (2 ^ 63 + 6 * 2 ^ 32 + 6 * 2 ^ 28))) s with
        | .next t => decide ((t.queue 3).held = [] ∧ (t.queue 3).cqPos = 1 ∧ t.qEnabled 3 = true)
        | _ => false) = true := by
  decide +kernel

/-- FaultsAndRepair: 64 corrected errors of a tile within a day are counted, the next one makes it a fault (R467); an old one is forgotten. -/
theorem test_corrected_tile_errors :
    let s (n : Nat) : State := { partS with time := { partS.time with refNs := 86400000000000 }, ras := { partS.ras with tileCe := (0, 0) :: List.replicate n (0, 1) } }
    ((s 63).tileCorrected 0).ras.tileCe.length = 64 ∧ (((s 63).tileCorrected 0).tile 0).retired = false ∧
      (((s 64).tileCorrected 0).tile 0).retired = true := by
  decide +kernel

end Sys2Proof.Tests
end

section
/-! SUPPORT. Register fields: what a field reads after a write of the same, of another field, and of another register. -/

namespace Sys2Proof.Machine

/-! ### Fields of a number -/

theorem bit_eq_testBit (x i : Nat) : bit x i = x.testBit i := by
  rw [bit, Nat.shiftRight_eq_div_pow, Nat.testBit_eq_decide_div_mod_eq]
  rfl

theorem testBit_bits (x hi lo i : Nat) : (bits x hi lo).testBit i = (decide (i < hi + 1 - lo) && x.testBit (lo + i)) := by
  simp [bits, Nat.testBit_mod_two_pow, Nat.testBit_shiftRight]

/-- A number with a field replaced, as the digits above the field, the field, and the digits below it. -/
theorem setBits_eq (x hi lo v : Nat) :
    setBits x hi lo v =
      2 ^ lo * (2 ^ (hi + 1 - lo) * (x / 2 ^ lo / 2 ^ (hi + 1 - lo)) + v % 2 ^ (hi + 1 - lo)) + x % 2 ^ lo := by
  have h1 := Nat.div_add_mod x (2 ^ lo)
  have h2 := Nat.div_add_mod (x / 2 ^ lo) (2 ^ (hi + 1 - lo))
  have h3 : x = 2 ^ lo * (2 ^ (hi + 1 - lo) * (x / 2 ^ lo / 2 ^ (hi + 1 - lo))) +
      2 ^ lo * (x / 2 ^ lo % 2 ^ (hi + 1 - lo)) + x % 2 ^ lo := by
    rw [← Nat.mul_add, h2, h1]
  simp only [setBits, bits, Nat.shiftRight_eq_div_pow, Nat.shiftLeft_eq, Nat.mul_add]
  rw [Nat.mul_comm (x / 2 ^ lo % _), Nat.mul_comm (v % _)]
  omega

theorem testBit_setBits (x hi lo v i : Nat) :
    (setBits x hi lo v).testBit i = if lo ≤ i ∧ i ≤ hi then v.testBit (i - lo) else x.testBit i := by
  rw [setBits_eq, Nat.testBit_two_pow_mul_add _ (Nat.mod_lt _ (Nat.two_pow_pos lo))]
  by_cases hlo : i < lo
  · rw [if_pos hlo, if_neg (by omega), Nat.testBit_mod_two_pow, decide_eq_true hlo, Bool.true_and]
  · rw [if_neg hlo, Nat.testBit_two_pow_mul_add _ (Nat.mod_lt _ (Nat.two_pow_pos _))]
    by_cases hhi : i ≤ hi
    · rw [if_pos (by omega), if_pos (by omega), Nat.testBit_mod_two_pow, decide_eq_true (by omega), Bool.true_and]
    · rw [if_neg (by omega), if_neg (by omega), Nat.testBit_div_two_pow, Nat.testBit_div_two_pow]
      congr 1; omega

theorem bits_setBits_self (x hi lo v : Nat) : bits (setBits x hi lo v) hi lo = v % 2 ^ (hi + 1 - lo) := by
  apply Nat.eq_of_testBit_eq
  intro i
  rw [testBit_bits, testBit_setBits, Nat.testBit_mod_two_pow]
  by_cases h : i < hi + 1 - lo
  · rw [if_pos (by omega), Nat.add_sub_cancel_left]
  · simp [h]

theorem bits_setBits_disjoint {x hi lo v hi' lo' : Nat} (h : hi' < lo ∨ hi < lo') :
    bits (setBits x hi lo v) hi' lo' = bits x hi' lo' := by
  apply Nat.eq_of_testBit_eq
  intro i
  rw [testBit_bits, testBit_bits, testBit_setBits]
  by_cases hi : i < hi' + 1 - lo'
  · rw [if_neg (by omega)]
  · simp [hi]

theorem setBits_lt {x hi lo v n : Nat} (hx : x < 2 ^ n) (hn : hi < n) : setBits x hi lo v < 2 ^ n := by
  apply Nat.lt_pow_two_of_testBit
  intro i hi'
  rw [testBit_setBits, if_neg (by omega)]
  exact Nat.testBit_lt_two_pow (lt_of_lt_of_le hx (Nat.pow_le_pow_right (by decide) hi'))

theorem bits_lt (x hi lo : Nat) : bits x hi lo < 2 ^ (hi + 1 - lo) := Nat.mod_lt _ (Nat.two_pow_pos _)

/-! ### Fields of a stored register -/

theorem State.rd_lt (s : State) (o : Nat) : s.rd o < 2 ^ 64 := by
  unfold State.rd
  split
  · exact BitVec.isLt _
  · exact regReset_lt o

theorem State.rd_setFld_self (s : State) {o hi lo v : Nat} (h : hi < 64) :
    (s.setFld o hi lo v).rd o = setBits (s.rd o) hi lo v := by
  rw [State.setFld, State.rd_wr, Nat.mod_eq_of_lt (setBits_lt (s.rd_lt o) h)]

/-- A field reads back the low bits written. -/
theorem State.fld_setFld_self (s : State) {o hi lo v : Nat} (h : hi < 64) :
    (s.setFld o hi lo v).fld o hi lo = v % 2 ^ (hi + 1 - lo) := by
  rw [State.fld, s.rd_setFld_self h, bits_setBits_self]

/-- The other fields of a register stay. -/
theorem State.fld_setFld_disjoint (s : State) {o hi lo v hi' lo' : Nat} (h : hi < 64) (hd : hi' < lo ∨ hi < lo') :
    (s.setFld o hi lo v).fld o hi' lo' = s.fld o hi' lo' := by
  rw [State.fld, s.rd_setFld_self h, bits_setBits_disjoint hd, State.fld]

theorem State.flag_setFld (s : State) {o hi lo v i : Nat} (h : hi < 64) :
    (s.setFld o hi lo v).flag o i = if lo ≤ i ∧ i ≤ hi then v.testBit (i - lo) else s.flag o i := by
  rw [State.flag, s.rd_setFld_self h, bit_eq_testBit, testBit_setBits, State.flag, bit_eq_testBit]

/-- Fields of a register that reads as before. -/
theorem State.fld_of_rd {s t : State} {o : Nat} (h : t.rd o = s.rd o) (hi lo : Nat) : t.fld o hi lo = s.fld o hi lo := by
  rw [State.fld, h, State.fld]

theorem State.flag_of_rd {s t : State} {o : Nat} (h : t.rd o = s.rd o) (i : Nat) : t.flag o i = s.flag o i := by
  rw [State.flag, h, State.flag]

theorem State.rd_of_regs {s t : State} (h : t.regs = s.regs) (o : Nat) : t.rd o = s.rd o := by
  rw [State.rd, h, State.rd]

theorem State.rd_setFlag_ne (s : State) {o j : Nat} (i : Nat) (h : j ≠ o) : (s.setFlag o i).rd j = s.rd j :=
  s.rd_setFld_ne i i 1 h

theorem State.rd_countFld_ne (s : State) {o j : Nat} (hi lo n : Nat) (h : j ≠ o) : (s.countFld o hi lo n).rd j = s.rd j :=
  s.rd_setFld_ne hi lo _ h

theorem State.flag_setFlag_self (s : State) {o i : Nat} (h : i < 64) : (s.setFlag o i).flag o i = true := by
  rw [State.setFlag, s.flag_setFld h, if_pos ⟨le_rfl, le_rfl⟩, Nat.sub_self]
  rfl

end Sys2Proof.Machine
end

section
/-! SUPPORT. What error records, timing events, time selection and the sending of waiting requests write, said once each. -/

namespace Sys2Proof.Machine

/-! ### Registers after a write of something else -/

@[simp] theorem State.rd_emit (s : State) (o : Out) (j : Nat) : (s.emit o).rd j = s.rd j := State.rd_of_regs rfl j
@[simp] theorem State.rd_freed (s : State) (j : Nat) : s.freed.rd j = s.rd j := State.rd_of_regs rfl j
@[simp] theorem State.rd_withRas (s : State) (x : RasS) (j : Nat) : ({ s with ras := x } : State).rd j = s.rd j := State.rd_of_regs rfl j
@[simp] theorem State.rd_withTime (s : State) (x : TimeS) (j : Nat) : ({ s with time := x } : State).rd j = s.rd j := State.rd_of_regs rfl j
@[simp] theorem State.rd_withFab (s : State) (x : FabS) (j : Nat) : ({ s with fab := x } : State).rd j = s.rd j := State.rd_of_regs rfl j
@[simp] theorem State.rd_setLink (s : State) (n : Nat) (l : LinkS) (j : Nat) : (s.setLink n l).rd j = s.rd j := State.rd_of_regs rfl j

@[simp] theorem State.rd_raisePart (s : State) (p i v j : Nat) : (s.raisePart p i v).rd j = s.rd j := by
  obtain ⟨m, h⟩ := s.raisePart_eq p i v
  rw [h]; exact State.rd_of_regs rfl j
@[simp] theorem State.raisePart_fab (s : State) (p i v : Nat) : (s.raisePart p i v).fab = s.fab := by
  obtain ⟨m, h⟩ := s.raisePart_eq p i v
  rw [h]
@[simp] theorem State.raisePart_tiles (s : State) (p i v : Nat) : (s.raisePart p i v).tiles = s.tiles := by
  obtain ⟨m, h⟩ := s.raisePart_eq p i v
  rw [h]
@[simp] theorem State.raisePart_handles (s : State) (p i v : Nat) : (s.raisePart p i v).handles = s.handles := by
  obtain ⟨m, h⟩ := s.raisePart_eq p i v
  rw [h]
@[simp] theorem State.raisePart_ras (s : State) (p i v : Nat) : (s.raisePart p i v).ras = s.ras := by
  obtain ⟨m, h⟩ := s.raisePart_eq p i v
  rw [h]

/-! ### Error records (R482) -/

/-- Of the registers an error record writes RAS_STATUS alone. -/
theorem State.rd_errRecord (s : State) (e : Err) {j : Nat} (h : j ≠ aRasStatus) : (s.errRecord e).rd j = s.rd j := by
  unfold State.errRecord
  dsimp only
  split <;> simp [State.rd_setFlag_ne _ _ h, State.rd_setFld_ne _ _ _ _ h, apply_ite (State.rd · j)]

@[simp] theorem State.errRecord_fab (s : State) (e : Err) : (s.errRecord e).fab = s.fab := by
  unfold State.errRecord
  dsimp only
  split <;> simp [apply_ite State.fab]

@[simp] theorem State.errRecord_tiles (s : State) (e : Err) : (s.errRecord e).tiles = s.tiles := by
  unfold State.errRecord
  dsimp only
  split <;> simp [apply_ite State.tiles]

@[simp] theorem State.errRecord_handles (s : State) (e : Err) : (s.errRecord e).handles = s.handles := by
  unfold State.errRecord
  dsimp only
  split <;> simp [apply_ite State.handles]

/-- Of the record of faults an error record writes the list of records alone. -/
theorem State.errRecord_ras (s : State) (e : Err) : ∃ recs, (s.errRecord e).ras = { s.ras with recs := recs } := by
  unfold State.errRecord
  dsimp only
  split <;> simp only [State.raisePart_ras, State.emit_ras, State.setFlag_ras, State.setFld_ras] <;> split <;> exact ⟨_, rfl⟩

@[simp] theorem State.errRecord_map (s : State) (e : Err) : (s.errRecord e).ras.map = s.ras.map := by
  obtain ⟨_, h⟩ := s.errRecord_ras e; rw [h]
@[simp] theorem State.errRecord_badPcs (s : State) (e : Err) : (s.errRecord e).ras.badPcs = s.ras.badPcs := by
  obtain ⟨_, h⟩ := s.errRecord_ras e; rw [h]

/-! ### Timing events (R438) -/

/-- `t` is `s` but for its registers. -/
def State.RegsOnly (s t : State) : Prop := ∃ r, t = { s with regs := r }

theorem State.RegsOnly.trans {s t u : State} (h : s.RegsOnly t) (h' : t.RegsOnly u) : s.RegsOnly u := by
  obtain ⟨r, rfl⟩ := h
  obtain ⟨r', rfl⟩ := h'
  exact ⟨r', rfl⟩

theorem State.RegsOnly.fab {s t : State} (h : s.RegsOnly t) : t.fab = s.fab := by
  obtain ⟨r, rfl⟩ := h
  rfl

theorem State.regsOnly_wr (s : State) (o v : Nat) : s.RegsOnly (s.wr o v) := ⟨_, rfl⟩

theorem State.regsOnly_setFld (s : State) (o hi lo v : Nat) : s.RegsOnly (s.setFld o hi lo v) := s.regsOnly_wr _ _

theorem detPut_regsOnly (fuel : Nat) (s : State) (pos w0 w1 : Nat) : s.RegsOnly (detPut fuel s pos w0 w1) := by
  have put (s : State) (n x y : Nat) : s.RegsOnly ((s.wr (aDetEvent0 n) x).wr (aDetEvent1 n) y) :=
    (s.regsOnly_wr _ _).trans (State.regsOnly_wr _ _ _)
  induction fuel generalizing s pos with
  | zero => exact put s pos w0 w1
  | succ n ih =>
    unfold detPut
    dsimp only
    split
    · exact (put s pos _ _).trans (ih _ _)
    · exact put s pos w0 w1

/-- The ring of timing events lies in the DET block. -/
theorem rd_detPut (fuel : Nat) (s : State) {pos : Nat} (w0 w1 : Nat) {j : Nat} (hp : pos < 64) (hj : j / 0x100000 ≠ 13) :
    (detPut fuel s pos w0 w1).rd j = s.rd j := by
  have put (s : State) {n : Nat} (x y : Nat) (hn : n < 64) : ((s.wr (aDetEvent0 n) x).wr (aDetEvent1 n) y).rd j = s.rd j := by
    rw [State.rd_wr_ne _ _ (by unfold aDetEvent1; omega), State.rd_wr_ne _ _ (by unfold aDetEvent0; omega)]
  induction fuel generalizing s pos with
  | zero => exact put s w0 w1 hp
  | succ n ih =>
    unfold detPut
    dsimp only
    split
    · rw [ih _ (Nat.mod_lt _ (by decide)), put _ _ _ hp]
    · exact put s w0 w1 hp

/-- A timing event writes registers alone. -/
theorem State.regsOnly_detEvent (s : State) (kind : Nat) (part : Option Nat) (detail : Nat) :
    s.RegsOnly (s.detEvent kind part detail) :=
  (((detPut_regsOnly 63 s _ _ _).trans (State.regsOnly_setFld _ _ _ _ _)).trans (State.regsOnly_setFld _ _ _ _ _)).trans
    (State.regsOnly_setFld _ _ _ _ _)

/-- A timing event leaves the registers of every other block. -/
theorem State.rd_detEvent (s : State) (kind : Nat) (part : Option Nat) (detail : Nat) {j : Nat} (hj : j / 0x100000 ≠ 13) :
    (s.detEvent kind part detail).rd j = s.rd j := by
  have hs : j ≠ aDetStatus := by rintro rfl; exact hj rfl
  unfold State.detEvent
  dsimp only
  rw [State.rd_setFlag_ne _ _ hs, State.rd_countFld_ne _ _ _ _ hs, State.rd_setFld_ne _ _ _ _ hs]
  exact rd_detPut _ _ _ _ (bits_lt _ 21 16) hj

@[simp] theorem State.detEvent_fab (s : State) (k : Nat) (p : Option Nat) (d : Nat) : (s.detEvent k p d).fab = s.fab := by
  obtain ⟨_, h⟩ := s.regsOnly_detEvent k p d; rw [h]
@[simp] theorem State.detEvent_tiles (s : State) (k : Nat) (p : Option Nat) (d : Nat) : (s.detEvent k p d).tiles = s.tiles := by
  obtain ⟨_, h⟩ := s.regsOnly_detEvent k p d; rw [h]
@[simp] theorem State.detEvent_handles (s : State) (k : Nat) (p : Option Nat) (d : Nat) : (s.detEvent k p d).handles = s.handles := by
  obtain ⟨_, h⟩ := s.regsOnly_detEvent k p d; rw [h]
@[simp] theorem State.detEvent_ras (s : State) (k : Nat) (p : Option Nat) (d : Nat) : (s.detEvent k p d).ras = s.ras := by
  obtain ⟨_, h⟩ := s.regsOnly_detEvent k p d; rw [h]

/-! ### Time selection (R44 to R46) -/

/-- The hops and the root's rank stand in TIME_STATUS. -/
theorem State.rd_setHops (s : State) {j : Nat} (hj : j ≠ aTimeStatus) : s.setHops.rd j = s.rd j := by
  unfold State.setHops
  split
  · rw [State.rd_setFld_ne _ _ _ _ hj, State.rd_setFld_ne _ _ _ _ hj]
  · split
    · rw [State.rd_setFld_ne _ _ _ _ hj, State.rd_setFld_ne _ _ _ _ hj]
    · rfl

theorem State.regsOnly_setHops (s : State) : s.RegsOnly s.setHops := by
  unfold State.setHops
  split
  · exact (s.regsOnly_setFld _ _ _ _).trans (State.regsOnly_setFld _ _ _ _ _)
  · split
    · exact (s.regsOnly_setFld _ _ _ _).trans (State.regsOnly_setFld _ _ _ _ _)
    · exact ⟨_, rfl⟩

/-- The fields that a switch of source writes. -/
def State.switched (s : State) (src : Nat) : State := (s.setFld aTimeStatus 9 7 src).setFlag aTimeStatus 59

/-- What a new selection of the time source can do. -/
theorem State.reselect_cases (s : State) :
    s.reselect = s.elect.setHops ∨ ∃ src x,
      s.reselect = { s.elect.setHops.switched src with time := x } ∨
        ∃ y, s.reselect = { ({ s.elect.setHops.switched src with time := x } : State).setFld aTimeStatus 1 0 1 with time := y } := by
  unfold State.reselect
  dsimp only
  generalize s.elect.setHops = u
  split
  · exact .inl rfl
  · refine .inr ⟨u.bestSource, { (u.switched u.bestSource).time with inBand := 0 }, ?_⟩
    split
    · exact .inr ⟨_, rfl⟩
    · exact .inl rfl

/-- Of the registers a new selection of the time source writes TIME_STATUS alone. -/
theorem State.rd_reselect (s : State) {j : Nat} (hj : j ≠ aTimeStatus) : s.reselect.rd j = s.rd j := by
  have sel (u : State) (src : Nat) : (u.switched src).rd j = u.rd j := by
    rw [State.switched, State.rd_setFlag_ne _ _ hj, State.rd_setFld_ne _ _ _ _ hj]
  have base : s.elect.setHops.rd j = s.rd j := s.elect.rd_setHops hj
  rcases s.reselect_cases with e | ⟨src, x, e | ⟨y, e⟩⟩ <;> rw [e]
  · exact base
  · rw [State.rd_withTime, sel, base]
  · rw [State.rd_withTime, State.rd_setFld_ne _ _ _ _ hj, State.rd_withTime, sel, base]

/-- All that a new selection of the time source writes. -/
theorem State.reselect_eq (s : State) : ∃ r t, s.reselect = { s with regs := r, time := t } := by
  have sel (u : State) (src : Nat) : u.RegsOnly (u.switched src) := (u.regsOnly_setFld _ _ _ _).trans (State.regsOnly_setFld _ _ _ _ _)
  obtain ⟨r, hu⟩ := s.elect.regsOnly_setHops
  rcases s.reselect_cases with e | ⟨src, x, h⟩
  · exact ⟨r, s.elect.time, e.trans hu⟩
  · obtain ⟨r1, hv⟩ := sel s.elect.setHops src
    rw [hu] at hv
    rcases h with e | ⟨y, e⟩
    · exact ⟨r1, x, by rw [e, hu, hv]; rfl⟩
    · obtain ⟨r2, hw⟩ := State.regsOnly_setFld { s.elect.setHops.switched src with time := x } aTimeStatus 1 0 1
      exact ⟨r2, y, by rw [e, hw, hu, hv]; rfl⟩

@[simp] theorem State.reselect_fab (s : State) : s.reselect.fab = s.fab := by
  obtain ⟨_, _, h⟩ := s.reselect_eq; rw [h]

/-! ### Sending what waits (R400, R401) -/

theorem State.sendPacket_regs (s : State) (link : Nat) (via : Option Nat) (h : FabHdr) (st : Option Nat) (d : List Byte) :
    (s.sendPacket link via h st d).regs = s.regs :=
  (State.emit_regs _ _).trans (State.setLink_regs _ _ _)

theorem State.launchOn_regs (s : State) (o : Outst) (p : Path) : (s.launchOn o p).regs = s.regs := by
  unfold State.launchOn
  split
  · simp only [State.sendPacket_regs, State.setOutst_regs]
  · split
    · rfl
    · simp only [State.sendPacket_regs, State.setOutst_regs, State.takeSlot]

theorem State.freshPath_regs (s : State) (engine pkg oclass : Nat) : (s.freshPath engine pkg oclass).1.regs = s.regs := by
  unfold State.freshPath
  split
  · dsimp only
    split
    · rfl
    · split <;> rfl
  · rfl

theorem State.regs_ite {s t u : State} {c : Prop} [Decidable c] (ht : t.regs = s.regs) (hu : u.regs = s.regs) :
    (if c then t else u).regs = s.regs := by
  split
  · exact ht
  · exact hu

theorem State.launch_regs (s : State) (o : Outst) : (s.launch o).regs = s.regs := by
  have hf := s.freshPath_regs o.stream.1 o.stream.2.1 o.stream.2.2
  refine State.regs_ite rfl (State.regs_ite rfl ?_)
  split
  · exact State.regs_ite (s.launchOn_regs o _) rfl
  · split
    · next h => rw [h] at hf; exact (State.launchOn_regs _ _ _).trans hf
    · next h => rw [h] at hf; exact hf

/-- Sending what waits writes no register. -/
theorem State.pump_regs (s : State) : s.pump.regs = s.regs := by
  have run (os : List Outst) (s : State) : (os.foldl State.launch s).regs = s.regs := by
    induction os generalizing s with
    | nil => rfl
    | cons o os ih => exact (ih _).trans (s.launch_regs o)
  exact run _ s

@[simp] theorem State.rd_pump (s : State) (j : Nat) : s.pump.rd j = s.rd j := State.rd_of_regs s.pump_regs j

/-- With nothing outstanding there is nothing to send. -/
theorem State.pump_of_idle {s : State} (h : s.fab.outst = []) : s.pump = s := by simp [State.pump, h]

end Sys2Proof.Machine
end

section
/-! SUPPORT and the proof of LinkLife. Training, lane failure, loss and the flits of a link (R35, R387 to R392). -/

namespace Sys2Proof.Machine

/-! ### The registers of a link -/

theorem linkStatus_ne_fabStatus (n : Nat) : aFabLinkStatus n ≠ aFabStatus := by unfold aFabLinkStatus aFabStatus; omega
theorem linkStatus_ne_rasStatus {n : Nat} (h : n < 64) : aFabLinkStatus n ≠ aRasStatus := by unfold aFabLinkStatus aRasStatus; omega
theorem linkStatus_ne_intkStatus (n : Nat) : aFabLinkStatus n ≠ aIntkStatus := by unfold aFabLinkStatus aIntkStatus; omega
theorem linkStatus_ne_timeStatus (n : Nat) : aFabLinkStatus n ≠ aTimeStatus := by unfold aFabLinkStatus aTimeStatus; omega
theorem linkStatus_ne_linkAsym {n : Nat} (m : Nat) (h : m < 64) : aFabLinkStatus n ≠ aTimeLinkAsym m := by
  unfold aFabLinkStatus aTimeLinkAsym; omega
theorem linkStatus_block {n : Nat} (h : n < 64) : aFabLinkStatus n / 0x100000 ≠ 13 := by unfold aFabLinkStatus; omega

theorem State.linkUp_of_fld {s : State} {n : Nat} (h : s.fld (aFabLinkStatus n) 2 0 = 2) : s.linkUp n = true := by
  simp [State.linkUp, h]

theorem State.not_linkUp_of_fld {s : State} {n : Nat} (h : s.fld (aFabLinkStatus n) 2 0 = 4) : s.linkUp n = false := by
  simp [State.linkUp, h]

/-! ### The state of a link (R387) -/

theorem State.regsOnly_setLinkState (s : State) (n st : Nat) : s.RegsOnly (s.setLinkState n st) := by
  unfold State.setLinkState
  split
  · exact ⟨_, rfl⟩
  · exact (s.regsOnly_setFld _ _ _ _).trans (State.regsOnly_setFld _ _ _ _ _)

theorem State.fld_setLinkState_self (s : State) (n : Nat) {st : Nat} (h : st < 8) :
    (s.setLinkState n st).fld (aFabLinkStatus n) 2 0 = st := by
  unfold State.setLinkState
  split
  · assumption
  · rw [State.fld_of_rd (State.rd_setFlag_ne _ _ (linkStatus_ne_fabStatus n)), State.fld_setFld_self _ (by decide)]
    exact Nat.mod_eq_of_lt h

/-- The other fields of a link's status stay when its state changes. -/
theorem State.fld_setLinkState_above (s : State) (n st hi : Nat) {lo : Nat} (h : 3 ≤ lo) :
    (s.setLinkState n st).fld (aFabLinkStatus n) hi lo = s.fld (aFabLinkStatus n) hi lo := by
  unfold State.setLinkState
  split
  · rfl
  · rw [State.fld_of_rd (State.rd_setFlag_ne _ _ (linkStatus_ne_fabStatus n)), State.fld_setFld_disjoint _ (by decide) (.inr h)]

/-! ### Training (R387, R388) -/

/-- The peer's numbers as a training report brings them. -/
def State.peerNamed (s : State) (n : Nat) (rep : TrainReport) : State :=
  (s.setFld (aFabLinkStatus n) 63 48 rep.peerPkg.toNat).setFld (aFabLinkStatus n) 47 42 rep.peerLink.toNat

/-- A link with one bad lane uses its spare lane. -/
def State.spareUsed (s : State) (n : Nat) (bad : List Nat) : State :=
  match bad with
  | [l] => if l < 4 then (s.setFld (aFabLinkStatus n) 7 7 1).setFld (aFabLinkStatus n) 10 8 l else s
  | _ => s

theorem State.peerNamed_pkg (s : State) (n : Nat) (rep : TrainReport) :
    (s.peerNamed n rep).fld (aFabLinkStatus n) 63 48 = rep.peerPkg.toNat := by
  rw [State.peerNamed, State.fld_setFld_disjoint _ (by decide) (.inr (by decide)), State.fld_setFld_self _ (by decide)]
  exact Nat.mod_eq_of_lt rep.peerPkg.isLt

theorem State.peerNamed_link (s : State) (n : Nat) (rep : TrainReport) :
    (s.peerNamed n rep).fld (aFabLinkStatus n) 47 42 = rep.peerLink.toNat := by
  rw [State.peerNamed, State.fld_setFld_self _ (by decide)]
  exact Nat.mod_eq_of_lt rep.peerLink.isLt

theorem State.rd_peerNamed (s : State) {n j : Nat} (rep : TrainReport) (h : j ≠ aFabLinkStatus n) :
    (s.peerNamed n rep).rd j = s.rd j := by
  rw [State.peerNamed, State.rd_setFld_ne _ _ _ _ h, State.rd_setFld_ne _ _ _ _ h]

theorem State.peerNamed_trainRefused (s : State) (n : Nat) (rep : TrainReport) :
    (s.peerNamed n rep).trainRefused n rep = s.trainRefused n rep := by
  have hc : (s.peerNamed n rep).rd (aFabLinkCfg n) = s.rd (aFabLinkCfg n) :=
    s.rd_peerNamed rep (by unfold aFabLinkCfg aFabLinkStatus; omega)
  have hp : (s.peerNamed n rep).rd aDevPkgAddr = s.rd aDevPkgAddr :=
    s.rd_peerNamed rep (by unfold aDevPkgAddr aFabLinkStatus; omega)
  have hb : (s.peerNamed n rep).rd aFabCfg = s.rd aFabCfg := s.rd_peerNamed rep (by unfold aFabCfg aFabLinkStatus; omega)
  simp only [State.trainRefused, State.pkgId, State.buddy, State.fld_of_rd hc, State.fld_of_rd hp, State.fld_of_rd hb]

theorem State.peerNamed_badLanes (s : State) (n : Nat) (rep : TrainReport) :
    (s.peerNamed n rep).badLanes n rep = s.badLanes n rep := by
  have hf : (s.peerNamed n rep).flag (aFabLinkStatus n) 7 = s.flag (aFabLinkStatus n) 7 := by
    rw [State.peerNamed, State.flag_setFld _ (by decide), if_neg (by decide), State.flag_setFld _ (by decide), if_neg (by decide)]
  have ho : (s.peerNamed n rep).fld (aFabLinkStatus n) 10 8 = s.fld (aFabLinkStatus n) 10 8 := by
    rw [State.peerNamed, State.fld_setFld_disjoint _ (by decide) (.inl (by decide)),
      State.fld_setFld_disjoint _ (by decide) (.inl (by decide))]
  simp only [State.badLanes, hf, ho]

theorem State.fld_spareUsed (s : State) (n : Nat) (bad : List Nat) (hi : Nat) {lo : Nat} (h : 11 ≤ lo) :
    (s.spareUsed n bad).fld (aFabLinkStatus n) hi lo = s.fld (aFabLinkStatus n) hi lo := by
  unfold State.spareUsed
  split
  · split
    · rw [State.fld_setFld_disjoint _ (by decide) (.inr (by omega)), State.fld_setFld_disjoint _ (by decide) (.inr (by omega))]
    · rfl
  · rfl

section Training
variable {s : State} {n : Nat} {rep : TrainReport} (ha : s.boot.alive = true) (hn : n < 64)
  (hst : s.fld (aFabLinkStatus n) 2 0 = 1) (hen : s.flag (aFabLinkCfg n) 63 = true) (hid : s.pkgId ≠ 0)
  (hd : (s.link n).dead = false)
include ha hn hst hen hid hd

/-- Training that is refused: the peer's numbers and REFUSED, with link_refused. -/
theorem linkTrained_refused (hr : s.trainRefused n rep = true) :
    exec (.linkTrained n rep) s = .next (((s.peerNamed n rep).setLinkState n 5).setFlag aFabStatus 61) := by
  rw [← State.peerNamed_trainRefused] at hr
  unfold State.peerNamed at hr ⊢
  show execLinkTrained n rep s = _
  unfold execLinkTrained
  dsimp only
  rw [if_neg (by simp [ha, hn, hst, hen, hid, hd]), if_pos hr]

/-- Training that finds two bad lanes: DOWN until the next cold boot, with an error record. -/
theorem linkTrained_dead (hr : s.trainRefused n rep = false) (hb : 2 ≤ (s.badLanes n rep).length) :
    exec (.linkTrained n rep) s =
      .next ((((s.peerNamed n rep).setLinkState n 4).errRecord
        { event := (s.peerNamed n rep).free1 % 256, cls := 3, sev := some 2, part := none, loc := n, addr := 0
          data := [] }).freed.setLink n { LinkS.zero with dead := true }) := by
  rw [← State.peerNamed_trainRefused] at hr
  rw [← State.peerNamed_badLanes] at hb
  unfold State.peerNamed at hr hb ⊢
  show execLinkTrained n rep s = _
  unfold execLinkTrained
  dsimp only
  rw [if_neg (by simp [ha, hn, hst, hen, hid, hd]), if_neg (by simp [hr]), if_pos hb]

/-- Training that succeeds: the spare lane for a bad one, the calibrated asymmetry, an empty link that is UP, and what waited for it
leaves. -/
theorem linkTrained_up (hr : s.trainRefused n rep = false) (hb : (s.badLanes n rep).length ≤ 1) :
    let u := (s.peerNamed n rep).spareUsed n (s.badLanes n rep)
    exec (.linkTrained n rep) s =
      .next ((((u.setFld (aTimeLinkAsym n) 15 0 (wrapInt 16 (asymOf rep u.free1))).freed.setLink n LinkS.zero).setLinkState n 2).pump) := by
  rw [← State.peerNamed_trainRefused] at hr
  rw [← State.peerNamed_badLanes] at hb ⊢
  unfold State.peerNamed at hr hb ⊢
  show execLinkTrained n rep s = _
  unfold execLinkTrained State.spareUsed
  dsimp only
  rw [if_neg (by simp [ha, hn, hst, hen, hid, hd]), if_neg (by simp [hr]), if_neg (by omega)] <;> rfl

end Training

/-! ### Failure and loss (R388, R392) -/

theorem State.rd_buddyGone (s : State) (n : Nat) {j : Nat} (h : j ≠ aIntkStatus) : (s.buddyGone n).rd j = s.rd j := by
  unfold State.buddyGone
  dsimp only
  split
  · exact State.rd_setFlag_ne _ _ h
  · rfl

theorem State.buddyGone_fab (s : State) (n : Nat) : (s.buddyGone n).fab = s.fab := by
  unfold State.buddyGone
  dsimp only
  split
  · exact (s.regsOnly_setFld _ _ _ _).fab
  · rfl

/-- What a link held when it is lost, with no request outstanding: nothing is left of it, and nothing is sent again. -/
theorem State.linkLost_of_idle {s : State} (n : Nat) (h : s.fab.outst = []) :
    (s.linkLost n).fab = (s.setLink n { LinkS.zero with dead := (s.link n).dead }).fab ∧
      ∀ j, j ≠ aIntkStatus → j ≠ aTimeStatus → (s.linkLost n).rd j = s.rd j := by
  have hl : (s.buddyGone n).link n = s.link n := by rw [State.link, State.buddyGone_fab, State.link]
  have hf : ((s.buddyGone n).setLink n { LinkS.zero with dead := (s.link n).dead }).fab =
      (s.setLink n { LinkS.zero with dead := (s.link n).dead }).fab := by simp only [State.setLink, State.buddyGone_fab]
  have ho : ((s.buddyGone n).setLink n { LinkS.zero with dead := (s.link n).dead }).fab.outst = [] := by rw [hf]; exact h
  unfold State.linkLost
  dsimp only
  rw [hl, ho, List.filter_nil, List.foldl_nil, State.reselect_fab]
  refine ⟨hf, fun j h1 h2 => ?_⟩
  rw [State.rd_reselect _ h2, State.rd_withTime, State.rd_setLink, State.rd_buddyGone _ _ h1]

/-- The loss of a link with no request outstanding: DOWN, and empty. -/
theorem State.linkFails_of_idle {s : State} {n : Nat} (hn : n < 64) (h : s.fab.outst = []) :
    (s.linkFails n).fld (aFabLinkStatus n) 2 0 = 4 ∧ (s.linkFails n).fab = (s.setLink n { LinkS.zero with dead := (s.link n).dead }).fab := by
  unfold State.linkFails
  dsimp only
  generalize hu : ((s.setLinkState n 4).errRecord _).detEvent 6 none n = u
  have hf : u.fab = s.fab := by rw [← hu, State.detEvent_fab, State.errRecord_fab, (s.regsOnly_setLinkState n 4).fab]
  have hs : u.fld (aFabLinkStatus n) 2 0 = 4 := by
    rw [← hu, State.fld_of_rd (State.rd_detEvent _ _ _ _ (linkStatus_block hn)),
      State.fld_of_rd (State.rd_errRecord _ _ (linkStatus_ne_rasStatus hn)), State.fld_setLinkState_self _ _ (by decide)]
  obtain ⟨hfab, hrd⟩ := State.linkLost_of_idle n (hf ▸ h)
  refine ⟨(State.fld_of_rd (hrd _ (linkStatus_ne_intkStatus n) (linkStatus_ne_timeStatus n)) 2 0).trans hs, ?_⟩
  rw [hfab, State.setLink, State.setLink, State.link, State.link, hf]

/-- A first failing lane moves to the spare (R388). -/
theorem State.laneFails_first {s : State} {n lane : Nat} (hn : n < 64) (hl : lane < 4) (h : s.flag (aFabLinkStatus n) 7 = false) :
    (s.laneFails n lane).flag (aFabLinkStatus n) 7 = true ∧ (s.laneFails n lane).fld (aFabLinkStatus n) 10 8 = lane := by
  have hrd := State.rd_detEvent (((s.setFld (aFabLinkStatus n) 7 7 1).setFld (aFabLinkStatus n) 10 8 lane)) 6 none n (linkStatus_block hn)
  have he : s.laneFails n lane = ((s.setFld (aFabLinkStatus n) 7 7 1).setFld (aFabLinkStatus n) 10 8 lane).detEvent 6 none n := by
    rw [State.laneFails, if_neg (by simp [h]), if_neg (by omega)]
  rw [he, State.flag_of_rd hrd, State.fld_of_rd hrd]
  constructor
  · rw [State.flag_setFld _ (by decide), if_neg (by decide), State.flag_setFld _ (by decide), if_pos (by decide)]
    rfl
  · rw [State.fld_setFld_self _ (by decide)]
    exact Nat.mod_eq_of_lt (by omega)

/-! ### Flits (R390, R391) -/

section Flits
variable {s : State} {n : Nat} (ha : s.boot.alive = true) (hn : n < 64) (hu : s.linkUp n = true)
include ha hn hu

/-- A good flit that is not the next data flit acknowledges and returns credits. -/
theorem flitReceive_ack {flit : Flit} (hf : flit.fecOk = true) (hc : flit.crcOk = true) (hx : flit.fecCorrected = false)
    (hk : flit.kind ≠ 1) :
    exec (.flitReceive n flit) s =
      .next (s.setLink n { (s.link n).acked flit.ack with credits := (s.link n).credits + flit.credits.toNat }) := by
  show execFlitReceive n flit s = _
  have hk' : (flit.kind != 1) = true := bne_iff_ne.2 hk
  rw [execFlitReceive, if_neg (by simp [ha, hn, hu])]
  simp only [hf, hc, hx, hk', Bool.and_self, Bool.not_true, Bool.false_eq_true, if_false, if_true]

/-- The next data flit is taken. -/
theorem flitReceive_next {flit : Flit} (hf : flit.fecOk = true) (hc : flit.crcOk = true) (hx : flit.fecCorrected = false)
    (hk : flit.kind = 1) (hs : flit.seq = (s.link n).rxNext) :
    ∃ l0 l, exec (.flitReceive n flit) s = .next ((s.setLink n l0).setLink n l) ∧ l.rxNext = (s.link n).rxNext + 1 ∧ l.nackRun = 0 := by
  refine ⟨{ (s.link n).acked flit.ack with credits := (s.link n).credits + flit.credits.toNat },
    { (s.link n).acked flit.ack with
      credits := (s.link n).credits + flit.credits.toNat, rxNext := (s.link n).rxNext + 1, nackRun := 0 }, ?_, rfl, rfl⟩
  show execFlitReceive n flit s = _
  simp [execFlitReceive, ha, hn, hu, hf, hc, hx, hk, hs, LinkS.acked]

/-- A damaged flit is answered with a nack, unless one is under way. -/
theorem flitReceive_damaged {flit : Flit} (hf : flit.fecOk = true) (hc : flit.crcOk = false) (hx : flit.fecCorrected = false)
    (hr : (s.link n).nackRun = 0) :
    exec (.flitReceive n flit) s = .next ((s.countFld (aFabLinkErr n) 31 16 1).sendNack n) := by
  show execFlitReceive n flit s = _
  simp [execFlitReceive, ha, hn, hu, hf, hc, hx, hr]

/-- A nack sends again, in order, every flit from the named one. -/
theorem nack_resends (seq : Nat) :
    ∃ t, exec (.nack n seq) s = .next t ∧ t = { s with out := t.out } ∧
      t.out = (((s.link n).replay.dropWhile fun e => e.1.toNat != seq % 2 ^ 24).map fun e => Out.resend n e.1.toNat e.2).reverse ++ s.out := by
  have run (es : List (BitVec 24 × BitVec 1920)) (s : State) :
      es.foldl (fun s (e : BitVec 24 × BitVec 1920) => s.emit (.resend n e.1.toNat e.2)) s =
        { s with out := (es.map fun e => Out.resend n e.1.toNat e.2).reverse ++ s.out } := by
    induction es generalizing s with
    | nil => rfl
    | cons e es ih => rw [List.foldl_cons, ih]; simp [State.emit]
  refine ⟨{ s with out := _ }, ?_, rfl, rfl⟩
  show execNack n seq s = _
  rw [execNack, if_neg (by simp [ha, hn, hu]), run]

end Flits

/-- The first nack for an expected flit. -/
theorem State.sendNack_first {s : State} {n : Nat} (h : (s.link n).nackRun = 0) :
    (s.sendNack n).out = .nack n (s.link n).rxNext.toNat :: s.out ∧ (s.sendNack n).link n = { s.link n with nackRun := 1 } := by
  have he : s.sendNack n =
      ((s.setLink n { s.link n with nackRun := 1 }).countFld (aFabLinkErr n) 15 0 1).emit (.nack n (s.link n).rxNext.toNat) := by
    rw [State.sendNack]
    dsimp only
    rw [h, if_neg (by decide)]
  rw [he]
  generalize aFabLinkErr n = o
  exact ⟨rfl, State.link_setLink _ _ _⟩

/-- Settles O58: each event of a link's life from the lemma that says what its row does. -/
theorem linkLife : Obligations.LinkLife := by
  unfold Obligations.LinkLife
  intro s n ha hn
  refine ⟨fun rep hst hen hid hd => ⟨fun hr => ?refused, fun hr hb => ?up, fun hr hb => ?dead⟩, fun hst hen => ?retry,
    fun hu => ⟨fun lane hl hf => ?lane, fun ho => ?down, fun flit hf hc hx => ⟨fun hk hs => ?next, fun hk => ?ack⟩,
      fun flit hf hc hx hr => ?damaged, nack_resends ha hn hu⟩⟩
  case refused =>
    refine ⟨_, linkTrained_refused ha hn hst hen hid hd hr, ?_, State.flag_setFlag_self _ (by decide)⟩
    rw [State.fld_of_rd (State.rd_setFlag_ne _ _ (linkStatus_ne_fabStatus n)), State.fld_setLinkState_self _ _ (by decide)]
  case up =>
    have keep (u : State) (x hi : Nat) {lo : Nat} (h : 3 ≤ lo) :
        ((((u.setFld (aTimeLinkAsym n) 15 0 x).freed.setLink n LinkS.zero).setLinkState n 2).pump).fld (aFabLinkStatus n) hi lo =
          u.fld (aFabLinkStatus n) hi lo := by
      rw [State.fld_of_rd (State.rd_pump _ _), State.fld_setLinkState_above _ _ _ _ h, State.fld_of_rd (State.rd_setLink _ _ _ _),
        State.fld_of_rd (State.rd_freed _ _), State.fld_of_rd (State.rd_setFld_ne _ _ _ _ (linkStatus_ne_linkAsym n hn))]
    refine ⟨_, linkTrained_up ha hn hst hen hid hd hr hb, State.linkUp_of_fld ?_, ?_, ?_⟩
    · rw [State.fld_of_rd (State.rd_pump _ _), State.fld_setLinkState_self _ _ (by decide)]
    · rw [keep _ _ _ (by decide), State.fld_spareUsed _ _ _ _ (by decide), State.peerNamed_pkg]
    · rw [keep _ _ _ (by decide), State.fld_spareUsed _ _ _ _ (by decide), State.peerNamed_link]
  case dead =>
    refine ⟨_, linkTrained_dead ha hn hst hen hid hd hr hb, ?_, ?_⟩
    · rw [State.fld_of_rd (State.rd_setLink _ _ _ _), State.fld_of_rd (State.rd_freed _ _),
        State.fld_of_rd (State.rd_errRecord _ _ (linkStatus_ne_rasStatus hn)), State.fld_setLinkState_self _ _ (by decide)]
    · rw [State.link_setLink]
  case retry =>
    obtain ⟨r, h⟩ := s.regsOnly_setLinkState n 1
    refine ⟨s.setLinkState n 1, ?_, s.fld_setLinkState_self n (by decide), by rw [h]⟩
    show execLinkTrainRetry n s = _
    rw [execLinkTrainRetry, if_pos (by simp [ha, hn, hst, hen])]
  case lane =>
    obtain ⟨h1, h2⟩ := State.laneFails_first hn hl hf
    refine ⟨(s.laneFails n lane).pump, ?_, ?_, ?_⟩
    · show execLaneFail n lane s = _
      rw [execLaneFail, if_pos (by simp [ha, hn, hu]; omega)]
    · rw [State.flag_of_rd (State.rd_pump _ _), h1]
    · rw [State.fld_of_rd (State.rd_pump _ _), h2]
  case down =>
    obtain ⟨h1, h2⟩ := State.linkFails_of_idle hn ho
    have ho' : (s.linkFails n).fab.outst = [] := by rw [h2]; exact ho
    refine ⟨s.linkFails n, ?_, State.not_linkUp_of_fld h1, ?_⟩
    · show execLinkDown n s = _
      rw [execLinkDown, if_pos (by simp [ha, hn, hu]), State.pump_of_idle ho']
    · rw [State.link, h2, ← State.link, State.link_setLink]; rfl
  case next =>
    obtain ⟨l0, l, he, h1, h2⟩ := flitReceive_next ha hn hu hf hc hx hk hs
    refine ⟨_, he, ?_, ?_, rfl⟩
    · rw [State.link_setLink, h1]
    · rw [State.link_setLink, h2]
  case ack =>
    refine ⟨_, flitReceive_ack ha hn hu hf hc hx hk, ?_, ?_⟩ <;> rw [State.link_setLink] <;> rfl
  case damaged =>
    have hl : (s.countFld (aFabLinkErr n) 31 16 1).link n = s.link n := by rw [State.link, State.countFld_fab, State.link]
    obtain ⟨h1, h2⟩ := State.sendNack_first (s := s.countFld (aFabLinkErr n) 31 16 1) (n := n) (by rw [hl, hr])
    refine ⟨_, flitReceive_damaged ha hn hu hf hc hx hr, ?_, ?_, ?_⟩
    · rw [h1, hl, State.countFld_out]
    · rw [h2]
    · rw [h2, hl]

end Sys2Proof.Machine
end

section
/-! SUPPORT. Little-endian bytes and numbers, and accesses that lie within one 64-byte block. -/

namespace Sys2Proof.Machine

/-! ### Bytes and numbers -/

@[simp] theorem length_leBytes (n v : Nat) : (leBytes n v).length = n := by
  induction n generalizing v with
  | zero => rfl
  | succ n ih => simp [leBytes, ih]

theorem leNat_leBytes (n v : Nat) : leNat (leBytes n v) = v % 2 ^ (8 * n) := by
  induction n generalizing v with
  | zero => simp [leBytes, leNat, Nat.mod_one]
  | succ n ih =>
    rw [leBytes, leNat, ih, BitVec.toNat_ofNat, show 8 * (n + 1) = 8 + 8 * n by omega, Nat.pow_add]
    exact (Nat.mod_mul).symm

theorem leBytes_leNat (bs : List Byte) : leBytes bs.length (leNat bs) = bs := by
  induction bs with
  | nil => rfl
  | cons b bs ih =>
    have h1 : (b.toNat + 256 * leNat bs) / 256 = leNat bs := by have := b.isLt; omega
    have h2 : BitVec.ofNat 8 (b.toNat + 256 * leNat bs) = b := by
      apply BitVec.eq_of_toNat_eq
      rw [BitVec.toNat_ofNat]
      have := b.isLt; omega
    rw [List.length_cons, leBytes, leNat, h1, h2, ih]

theorem leNat_lt (bs : List Byte) : leNat bs < 2 ^ (8 * bs.length) := by
  rw [← leBytes_leNat bs, leNat_leBytes, length_leBytes]
  exact Nat.mod_lt _ (Nat.two_pow_pos _)

/-- The bytes of a number that a block of as many bytes holds. -/
theorem leBytes_ofNat_leNat (bs : List Byte) {w : Nat} (h : w = 8 * bs.length) :
    leBytes bs.length (BitVec.ofNat w (leNat bs)).toNat = bs := by
  subst h
  rw [BitVec.toNat_ofNat, Nat.mod_eq_of_lt (leNat_lt bs), leBytes_leNat]

@[simp] theorem length_mread (m : Mem) (a n : Nat) : (mread m a n).length = n := by
  induction n generalizing a with
  | zero => rfl
  | succ n ih => simp [mread, ih]

/-- A part of a read is the read of the part. -/
theorem take_drop_mread (m : Mem) (a n k j : Nat) (h : k + j ≤ n) : ((mread m a n).drop k).take j = mread m (a + k) j := by
  induction k generalizing a n with
  | zero =>
    rw [List.drop_zero, Nat.add_zero]
    induction j generalizing a n with
    | zero => rfl
    | succ j ih =>
      obtain ⟨n, rfl⟩ : ∃ n', n = n' + 1 := ⟨n - 1, by omega⟩
      rw [mread, List.take_succ_cons, ih _ _ (by omega), mread]
  | succ k ih =>
    obtain ⟨n, rfl⟩ : ∃ n', n = n' + 1 := ⟨n - 1, by omega⟩
    rw [mread, List.drop_succ_cons, ih _ _ (by omega), Nat.add_assoc, Nat.add_comm 1 k]

/-! ### Accesses within one 64-byte block -/

theorem spans64_of_oneBlock {a n : Nat} (fuel : Nat) (hn : 0 < n) (h : a % 64 + n ≤ 64) : spans64 (fuel + 2) a n = [(a, n)] := by
  simp [spans64, Nat.min_eq_left (show n ≤ 64 - a % 64 by omega), show n ≠ 0 by omega]

theorem pieces64_of_oneBlock {a : Nat} {bs : List Byte} (fuel : Nat) (hn : bs ≠ []) (h : a % 64 + bs.length ≤ 64) :
    pieces64 (fuel + 2) a bs = [(a, bs)] := by
  simp [pieces64, hn, List.take_of_length_le (show bs.length ≤ 64 - a % 64 by omega),
    List.drop_eq_nil_of_le (show bs.length ≤ 64 - a % 64 by omega)]

/-- A whole block is stored and its poison cleared (R298). -/
theorem HbmS.write_block (h : HbmS) {a : Nat} {bs : List Byte} (ha : a % 64 = 0) (hb : bs.length = 64) :
    h.write a bs = { h with mem := mwrite h.mem a bs, poison := sput false h.poison (a / 64) false } := by
  rw [HbmS.write, pieces64_of_oneBlock _ (by rintro rfl; simp at hb) (by omega)]
  simp [HbmS.writeBlock, ha, hb]

theorem mget_mwrite_getD (m : Mem) (a i : Nat) (bs : List Byte) (h : i < bs.length) :
    mget (mwrite m a bs) (a + i) = bs.getD i 0 := by
  rw [mget_mwrite_in bs m a i h, List.getD_eq_getElem bs 0 h]

end Sys2Proof.Machine
end

section
/-! The proof of TestPortAndHostMemory: the test port and BAR2 (R85, R86, R534), and host accesses through BAR4 (R34, R542). -/

namespace Sys2Proof.Machine

/-! ### The test port -/

theorem testBit_foldr_b2n (l : List Bool) (i : Nat) : (l.foldr (fun b n => b2n b + 2 * n) 0).testBit i = (nth l i).getD false := by
  induction l generalizing i with
  | nil => cases i <;> simp [nth]
  | cons b l ih =>
    cases i with
    | zero => cases b <;> simp [nth, b2n, Nat.testBit_zero]
    | succ i =>
      have : (b2n b + 2 * l.foldr (fun b n => b2n b + 2 * n) 0) / 2 = l.foldr (fun b n => b2n b + 2 * n) 0 := by
        cases b
        · simp [b2n]
        · simp only [b2n, if_true]; omega
      rw [List.foldr_cons, Nat.testBit_succ, this, ih, nth]

/-- LAB_MEM with a reserved bit set or a misaligned address selects its register and does no more. -/
theorem labMem_malformed {s : State} {dr : BitVec 128} (hb : s.boot.labBlown = false) (h : dr.toNat / 2 ^ 49 % 2 ^ 15 ≠ 0 ∨ dr.toNat % 2 ^ 48 % 8 ≠ 0) :
    exec (.labMem dr) s = .next (s.selectIr 0x21) := by
  have h' : (bits dr.toNat 63 49 != 0 || bits dr.toNat 47 0 % 8 != 0) = true := by
    simpa [bits, Nat.shiftRight_eq_div_pow] using h
  show execLabMem dr s = _
  simp only [execLabMem, hb, Bool.false_eq_true, if_false]
  rw [if_pos]
  rw [Bool.or_assoc, h', Bool.or_true]

section LabMem
variable {s : State} {dr : BitVec 128} (hb : s.boot.labBlown = false) (ha : s.boot.alive = true)
  (hz : dr.toNat / 2 ^ 49 % 2 ^ 15 = 0) (h8 : dr.toNat % 2 ^ 48 % 8 = 0)
include hb ha hz h8

/-- LAB_MEM writes. -/
theorem labMem_write (hw : dr.toNat.testBit 48 = true) :
    exec (.labMem dr) s = .next ((s.selectIr 0x21).labWrite (dr.toNat % 2 ^ 48) (dr.toNat / 2 ^ 64)) := by
  have hz' : bits dr.toNat 63 49 = 0 := by simpa [bits, Nat.shiftRight_eq_div_pow] using hz
  have ha' : bits dr.toNat 47 0 = dr.toNat % 2 ^ 48 := by simp [bits]
  have hd : bits dr.toNat 127 64 = dr.toNat / 2 ^ 64 := by
    have := dr.isLt
    rw [bits, Nat.shiftRight_eq_div_pow, Nat.mod_eq_of_lt]
    omega
  show execLabMem dr s = _
  simp only [execLabMem, hb, hz', ha', hd, h8, bit_eq_testBit, hw, Bool.false_eq_true, if_false, if_true]
  rw [if_neg]
  simp [State.selectIr, ha]

/-- LAB_MEM reads. -/
theorem labMem_read (hw : dr.toNat.testBit 48 = false) :
    exec (.labMem dr) s =
      let r := (s.selectIr 0x21).labRead (dr.toNat % 2 ^ 48)
      .next { r.1 with jtag := { r.1.jtag with labData := BitVec.ofNat 64 r.2 } } := by
  have hz' : bits dr.toNat 63 49 = 0 := by simpa [bits, Nat.shiftRight_eq_div_pow] using hz
  have ha' : bits dr.toNat 47 0 = dr.toNat % 2 ^ 48 := by simp [bits]
  show execLabMem dr s = _
  simp only [execLabMem, hb, hz', ha', h8, bit_eq_testBit, hw, Bool.false_eq_true, if_false]
  rw [if_neg]
  simp [State.selectIr, ha]

end LabMem

/-- An address of the control window that is a multiple of eight is one of its registers' offsets. -/
theorem State.region_ctl_aligned {s : State} {a o : Nat} (h : s.region a = .ctl o) (ha : a % 8 = 0) : o % 8 = 0 := by
  unfold State.region at h
  dsimp only at h
  split_ifs at h
  have := Region.ctl.inj h
  omega

theorem State.labWrite_ctl {s : State} {a o : Nat} (v : Nat) (h : s.region a = .ctl o) (ha : a % 8 = 0) :
    s.labWrite a v = s.regWrite o v (2 ^ 64 - 1) := by
  have ho := State.region_ctl_aligned h ha
  simp [State.labWrite, h, State.ctlWrite, accessMask, ho]

theorem State.labWrite_mem {s : State} {a : Nat} (v : Nat) (h : ∀ o, s.region a ≠ .ctl o) :
    s.labWrite a v = (s.writeMem a (leBytes 8 v)).1 := by
  unfold State.labWrite
  split
  · next o ho => exact absurd ho (h o)
  · rfl

theorem State.labRead_mem {s : State} {a : Nat} (h : ∀ o, s.region a ≠ .ctl o) :
    s.labRead a = (s, leNat (s.readMem true a 8).data) := by
  unfold State.labRead
  split
  · next o ho => exact absurd ho (h o)
  · rfl

theorem State.labRead_ctl {s : State} {a o : Nat} (h : s.region a = .ctl o) (ha : a % 8 = 0) :
    BitVec.ofNat 64 (s.labRead a).2 = BitVec.ofNat 64 (s.regRead o) := by
  have ho := State.region_ctl_aligned h ha
  have : (s.labRead a).2 = leNat (leBytes 8 (s.regRead o)) := by simp [State.labRead, h, State.ctlRead, ho]
  rw [this, leNat_leBytes]
  apply BitVec.eq_of_toNat_eq
  simp

/-- LAB_MEM on an unblown lab fuse. -/
theorem labMem_of_unblown {s : State} (dr : BitVec 128) (hb : s.boot.labBlown = false) (ha : s.boot.alive = true) :
    let a := dr.toNat % 2 ^ 48
    let u := s.selectIr 0x21
    (dr.toNat / 2 ^ 49 % 2 ^ 15 ≠ 0 ∨ a % 8 ≠ 0 → exec (.labMem dr) s = .next u) ∧
    (dr.toNat / 2 ^ 49 % 2 ^ 15 = 0 → a % 8 = 0 → (∀ o, u.region a ≠ .ctl o) →
      (dr.toNat.testBit 48 = true → exec (.labMem dr) s = .next (u.writeMem a (leBytes 8 (dr.toNat / 2 ^ 64))).1) ∧
      (dr.toNat.testBit 48 = false → exec (.labMem dr) s =
        .next { u with jtag := { u.jtag with labData := BitVec.ofNat 64 (leNat (u.readMem true a 8).data) } })) ∧
    (∀ o, dr.toNat / 2 ^ 49 % 2 ^ 15 = 0 → a % 8 = 0 → u.region a = .ctl o →
      (dr.toNat.testBit 48 = true → exec (.labMem dr) s = .next (u.regWrite o (dr.toNat / 2 ^ 64) (2 ^ 64 - 1))) ∧
      (dr.toNat.testBit 48 = false → ∃ t, exec (.labMem dr) s = .next t ∧ t.jtag.labData = BitVec.ofNat 64 (u.regRead o))) := by
  refine ⟨labMem_malformed hb, fun hz h8 hm => ⟨fun hw => ?_, fun hw => ?_⟩, fun o hz h8 hm => ⟨fun hw => ?_, fun hw => ?_⟩⟩
  · rw [labMem_write hb ha hz h8 hw, State.labWrite_mem _ hm]
  · rw [labMem_read hb ha hz h8 hw, State.labRead_mem hm]
  · rw [labMem_write hb ha hz h8 hw, State.labWrite_ctl _ hm h8]
  · exact ⟨_, labMem_read hb ha hz h8 hw, State.labRead_ctl hm h8⟩

/-- The test port and BAR2. -/
theorem testPort : Claims.TestPort := by
  intro s
  refine ⟨fun off len ha => ?_, rfl, fun c => rfl, fun cells => rfl, fun sampled preload => ⟨_, rfl, testBit_foldr_b2n sampled⟩,
    fun dr hb => ?_, fun dr hb => ?_, labMem_of_unblown⟩
  · show execPostedWriteBar2 off len s = _
    rw [execPostedWriteBar2, if_pos ha]
  · show execLabCmd dr s = _
    rw [execLabCmd, if_pos hb]; rfl
  · show execLabMem dr s = _
    rw [execLabMem, if_pos hb]; rfl

/-! ### Host accesses through BAR4 -/

theorem State.region_hbm {s : State} {a : Nat} (h : a < hbmEnd) : s.region a = .hbm := by rw [State.region, if_pos h]

theorem State.hbmEnd_le_of_none {s : State} {a : Nat} (h : s.region a = .none) : ¬ a < hbmEnd := by
  intro ha; rw [State.region_hbm ha] at h; cases h

theorem State.lineHeld_of_noDir {s : State} {l : Nat} (h : s.dirOf l = none) : s.lineHeld l = false := by rw [State.lineHeld, h]

theorem isHostLine_of_hbm {a : Nat} (h : a < hbmEnd) : isHostLine (a / 64) = false := by
  refine decide_eq_false ?_
  unfold hbmEnd at h ⊢
  omega

/-- Of a line that the system cache does not hold the home takes HBM's bytes. -/
theorem State.homeData_of_uncached {s : State} {l : Nat} (h : s.findLine 4 (s.slice l) l = none) (hl : isHostLine l = false) :
    s.homeData l = (s, s.lineFromHbm l) := by
  unfold State.homeData
  split
  · next hf => rw [h] at hf; cases hf
  · rw [if_neg (by simp [hl])]

/-- A host read within one block of HBM whose line no cache holds: HBM's bytes, or poison. -/
theorem State.hostReadPiece_hbm {s : State} {a n : Nat} (ha : a < hbmEnd) (h1 : s.findLine 4 (s.slice (a / 64)) (a / 64) = none)
    (h2 : s.dirOf (a / 64) = none) (hn : a % 64 + n ≤ 64) :
    s.hostReadPiece a n = (s, if s.hbm.poisoned a then ⟨zeros n, false, true⟩ else ⟨mread s.hbm.mem a n, false, false⟩) := by
  have hl := isHostLine_of_hbm ha
  have hp : s.hbm.poisoned (64 * (a / 64)) = s.hbm.poisoned a := by simp [HbmS.poisoned]
  have hr : s.homeRequest (a / 64) 99 false = (s, .got (s.lineFromHbm (a / 64)) .e) := by
    have hd := State.homeData_of_uncached h1 hl
    cases hv : s.lineFromHbm (a / 64) <;> simp [State.homeRequest, State.homeServe, reqHolder, h2, hl, hd, hv]
  rw [State.hostReadPiece, if_pos ha, hr, State.lineFromHbm, hp]
  by_cases hq : s.hbm.poisoned a = true
  · simp [hq]
  · have hb : leBytes 64 (BitVec.ofNat 512 (mval s.hbm.mem (64 * (a / 64)) 64)).toNat = mread s.hbm.mem (64 * (a / 64)) 64 := by
      have := leBytes_ofNat_leNat (mread s.hbm.mem (64 * (a / 64)) 64) (w := 512) (by simp)
      rwa [length_mread] at this
    simp only [hq, if_false, hb, Bool.false_eq_true]
    rw [take_drop_mread _ _ _ _ _ hn, Nat.div_add_mod]

/-- A host read within one block, registers apart. -/
theorem hostRead_oneBlock {s u : State} {a n : Nat} {r : LRead} (hup : s.up = true) (hn : 0 < n) (hb : a % 64 + n ≤ 64) (he : a + n ≤ 2 ^ 40)
    (hc : ∀ o, s.region a ≠ .ctl o) (hh : a < hbmEnd → s.lineHeld (a / 64) = false) (hr : s.hostReadPiece a n = (u, r)) :
    exec (.hostBar4Access false a n []) s =
      .next ((u.hostUnpop r.unpop).emit (.data (if r.poison then zeros n else r.data) r.poison)) := by
  have hheld : (decide (a < hbmEnd) && s.lineHeld (a / 64)) = false := by
    by_cases h : a < hbmEnd
    · simp [hh h]
    · simp [h]
  show execHostBar4Access false a n [] s = _
  unfold execHostBar4Access
  dsimp only
  rw [if_neg (by simp [hup]; omega)]
  split
  · next o ho => exact absurd ho (hc o)
  · simp [spans64_of_oneBlock _ hn hb, hheld, hr, LRead.join]

theorem State.invAll_eq (s : State) (line : Nat) (hs : List Nat) : ∃ c, (s.invAll line false hs).1 = { s with cache := c } := by
  induction hs generalizing s with
  | nil => exact ⟨_, rfl⟩
  | cons h hs ih =>
    obtain ⟨c, hc⟩ := ih (s.snoopInv h line).1
    refine ⟨c, ?_⟩
    unfold State.invAll
    dsimp only
    split <;> exact hc

/-- Discarding every copy of a line writes the caches alone. -/
theorem State.discard_eq (s : State) (line : Nat) : ∃ c, (s.discardLine line).discardSc line = { s with cache := c } := by
  obtain ⟨c, hc⟩ := s.invAll_eq line (s.holdersOf line)
  unfold State.discardLine
  dsimp only
  rw [hc]
  split <;> exact ⟨_, rfl⟩

/-- A host write of a whole block of HBM that no directory entry names: the block's bytes, its poison cleared, and of HBM nothing else. -/
theorem hostWrite_block {s : State} {a : Nat} {bs : List Byte} (hup : s.up = true) (h0 : a % 64 = 0) (hb : bs.length = 64) (ha : a < hbmEnd)
    (hd : s.dirOf (a / 64) = none) :
    ∃ c d k, exec (.hostBar4Access true a 0 bs) s = .next { s with cache := c, digRun := d, ckpt := k, hbm := s.hbm.write a bs } := by
  have hne : bs ≠ [] := by rintro rfl; simp at hb
  obtain ⟨c, hc⟩ := s.discard_eq (a / 64)
  have hl : leBytes 64 (BitVec.ofNat 512 (leNat bs)).toNat = bs := by
    have := leBytes_ofNat_leNat bs (w := 512) (by omega)
    rwa [hb] at this
  obtain ⟨d, k, hput⟩ := State.hbmPut_eq { s with cache := c } a bs hne
  refine ⟨c, d, k, ?_⟩
  have hp : s.hostPiece a bs = ({ s with cache := c, digRun := d, ckpt := k, hbm := s.hbm.write a bs }, true) := by
    rw [State.hostPiece, if_pos ha]
    dsimp only
    rw [if_pos hb, hc, State.lineToHbm, isHostLine_of_hbm ha, if_neg (by decide), hl, Nat.mul_div_cancel' (Nat.dvd_of_mod_eq_zero h0), hput]
  have he : a + 64 ≤ 2 ^ 40 := by unfold hbmEnd at ha; omega
  show execHostBar4Access true a 0 bs s = _
  unfold execHostBar4Access
  dsimp only
  rw [if_neg (by simp [hup, hb]; omega), State.region_hbm ha]
  simp [hb, spans64_of_oneBlock 1 (show 0 < 64 by decide) (show a % 64 + 64 ≤ 64 by omega), State.lineHeld_of_noDir hd,
    pieces64_of_oneBlock 1 hne (show a % 64 + bs.length ≤ 64 by omega), hp, State.hostUnpop]

/-- A host write within one block at an address that nothing answers. -/
theorem hostWrite_unpopulated {s : State} {a : Nat} {bs : List Byte} (hup : s.up = true) (hne : bs ≠ []) (hb : a % 64 + bs.length ≤ 64)
    (he : a + bs.length ≤ 2 ^ 40) (hr : s.region a = .none) :
    exec (.hostBar4Access true a 0 bs) s = .next (s.setFlag aDevMode 62) := by
  have ha := State.hbmEnd_le_of_none hr
  have hp : s.hostPiece a bs = (s, false) := by simp [State.hostPiece, ha, State.writePiece, hr]
  show execHostBar4Access true a 0 bs s = _
  unfold execHostBar4Access
  dsimp only
  rw [if_neg (by simp [hup]; omega), hr]
  simp [spans64_of_oneBlock _ (List.length_pos_iff.2 hne) hb, ha, pieces64_of_oneBlock _ hne hb, hp, State.hostUnpop]

section Control
variable {s : State} {a n o : Nat} {bs : List Byte} (hup : s.up = true) (hr : s.region a = .ctl o)
include hup hr

/-- A host read of the control window whose size or alignment R34 does not list. -/
theorem hostRead_ctl_abort (he : a + n ≤ 2 ^ 40) (hc : ctlAligned o n = false) :
    exec (.hostBar4Access false a n []) s = .next (s.emit .abort) := by
  show execHostBar4Access false a n [] s = _
  unfold execHostBar4Access
  dsimp only
  rw [if_neg (by simp [hup]; omega), hr]
  simp [hc]

/-- A host read of a register. -/
theorem hostRead_ctl (he : a + n ≤ 2 ^ 40) (hc : ctlAligned o n = true) :
    exec (.hostBar4Access false a n []) s = .next ((s.ctlRead o n).1.emit (.data (s.ctlRead o n).2 false)) := by
  show execHostBar4Access false a n [] s = _
  unfold execHostBar4Access
  dsimp only
  rw [if_neg (by simp [hup]; omega), hr]
  simp [hc]

/-- A host write of a register. -/
theorem hostWrite_ctl (he : a + bs.length ≤ 2 ^ 40) (hc : ctlAligned o bs.length = true) :
    exec (.hostBar4Access true a 0 bs) s = .next (s.ctlWrite o bs.length (leNat bs)) := by
  show execHostBar4Access true a 0 bs s = _
  unfold execHostBar4Access
  dsimp only
  rw [if_neg (by simp [hup]; omega), hr]
  simp [hc]

end Control

theorem State.ctlRead_out (s : State) (o n : Nat) : (s.ctlRead o n).1.out = s.out := by
  unfold State.ctlRead
  dsimp only
  split
  · exact State.wr_out _ _ _
  · rfl

theorem State.ctlRead_data (s : State) (o n : Nat) :
    (s.ctlRead o n).2 = leBytes n (s.regRead (o - o % 8) / 2 ^ (8 * (o % 8))) := by
  rw [State.ctlRead, ← Nat.shiftRight_eq_div_pow]

/-- Host accesses through BAR4. -/
theorem hostMemory : Claims.HostMemory := by
  intro s hup
  have hbm (a n : Nat) (ha : a < hbmEnd) (hb : a % 64 + n ≤ 64) : a + n ≤ 2 ^ 40 := by unfold hbmEnd at ha; omega
  have noCtl (a : Nat) (ha : a < hbmEnd) : ∀ o, s.region a ≠ .ctl o := by
    intro o; rw [State.region_hbm ha]; exact Region.noConfusion
  refine ⟨fun a n hn hb ha h1 h2 hp => ?read, fun a n hn hb ha h1 h2 hp => ?poisoned, fun a bs h0 hb ha hd => ?block,
    fun a bs hne hb he hr => hostWrite_unpopulated hup hne hb he hr, fun a n he hn hb hr => ?unpopulated,
    fun a n o he hr hc => ⟨_, hostRead_ctl_abort hup hr he hc, rfl⟩, fun a n o he hr hc => ⟨_, hostRead_ctl hup hr he hc, ?register⟩,
    fun a o bs he hr hc => hostWrite_ctl hup hr he hc⟩
  case read =>
    have hr := State.hostReadPiece_hbm ha h1 h2 hb
    rw [if_neg (by simp [hp])] at hr
    exact hostRead_oneBlock hup hn hb (hbm a n ha hb) (noCtl a ha) (fun _ => State.lineHeld_of_noDir h2) hr
  case poisoned =>
    have hr := State.hostReadPiece_hbm ha h1 h2 hb
    rw [if_pos hp] at hr
    exact hostRead_oneBlock hup hn hb (hbm a n ha hb) (noCtl a ha) (fun _ => State.lineHeld_of_noDir h2) hr
  case block =>
    obtain ⟨c, d, k, he⟩ := hostWrite_block hup h0 hb ha hd
    refine ⟨_, he, fun i hi => ?_, fun x hx => s.hbm.mget_write_out a x bs (by rwa [hb]), ?_⟩
    · rw [s.hbm.write_block h0 hb]
      exact mget_mwrite_getD _ _ _ _ (by omega)
    · rw [s.hbm.write_block h0 hb]
      exact sget_sput_self false s.hbm.poison (a / 64) false
  case unpopulated =>
    have ha := State.hbmEnd_le_of_none hr
    have hp : s.hostReadPiece a n = (s, ⟨zeros n, true, false⟩) := by simp [State.hostReadPiece, ha, State.readPiece, hr]
    rw [hostRead_oneBlock hup hn hb he (fun o => by rw [hr]; exact Region.noConfusion) (fun h => absurd h ha) hp, State.hostUnpop,
      if_pos rfl, State.emit, State.setFlag_out]
    rfl
  case register =>
    rw [State.emit, State.ctlRead_out, State.ctlRead_data]

/-- Settles O38: the test port and BAR2, and host accesses through BAR4, each row by the lemma that says what it answers. -/
theorem testPortAndHostMemory : Obligations.TestPortAndHostMemory := ⟨testPort, hostMemory⟩

end Sys2Proof.Machine
end

section
/-! SUPPORT. The start of a command that passes the checks all opcodes share (R84, R96): refused by its own checks, or started. -/

namespace Sys2Proof.Machine

/-- The shared checks are passed: what the command's own checks say decides. -/
theorem startEntry_of_begins {s : State} {q op : Nat} {e : Entry} (h : Begins s q op e) (hp : pointerForm op = false)
    (chk : State → Cmd → Chk) (eff : State → Cmd → State) (fuel : Nat) :
    (∀ st d, chk s (s.cmdOf q e) = .bad st d → startEntry chk eff (fuel + 1) s (s.cmdOf q e) = s.finish q e.seq st 0 d) ∧
      (chk s (s.cmdOf q e) = .ok → startEntry chk eff (fuel + 1) s (s.cmdOf q e) = eff (begun s q e) (s.cmdOf q e)) := by
  obtain ⟨-, -, hop, hbase, hptr, hlen, hat⟩ := h
  have hpc : (s.cmdOf q e).paramChk = .ok := by
    simp [Cmd.paramChk, Cmd.op, State.cmdOf, hop, hp, hptr, hlen, Chk.must, Chk.andThen]
  have hall : ((s.baseChk (s.cmdOf q e).q (s.cmdOf q e).pkt).andThen fun _ => (s.cmdOf q e).paramChk.andThen fun _ => chk s (s.cmdOf q e)) =
      chk s (s.cmdOf q e) := by
    rw [show s.baseChk (s.cmdOf q e).q (s.cmdOf q e).pkt = .ok from hbase, hpc]
    rfl
  refine ⟨fun st d hc => ?_, fun hc => ?_⟩
  · rw [startEntry, hall, hc]
    rfl
  · rw [startEntry, hall, hc]
    exact if_neg (by rw [show pAtFurrow (s.cmdOf q e).pkt = false from hat]; decide)

theorem startCmd_of_begins {s : State} {q op : Nat} {e : Entry} (h : Begins s q op e) :
    startCmd op s q = startEntry cmdChk cmdEff 8 s (s.cmdOf q e) := by
  obtain ⟨hq, hhead, hop, -⟩ := h
  rw [startCmd, startRow, if_neg (by omega), hhead]
  exact if_pos (.inl hop)

/-- A command that its own checks refuse ends with their status. -/
theorem startCmd_refused {s : State} {q op st d : Nat} {e : Entry} (h : Begins s q op e) (hp : pointerForm op = false)
    (hc : cmdChk s (s.cmdOf q e) = .bad st d) : startCmd op s q = s.finish q e.seq st 0 d :=
  (startCmd_of_begins h).trans ((startEntry_of_begins h hp cmdChk cmdEff 7).1 st d hc)

/-- A command that its own checks pass starts and takes effect. -/
theorem startCmd_started {s : State} {q op : Nat} {e : Entry} (h : Begins s q op e) (hp : pointerForm op = false)
    (hc : cmdChk s (s.cmdOf q e) = .ok) : startCmd op s q = cmdEff (begun s q e) (s.cmdOf q e) :=
  (startCmd_of_begins h).trans ((startEntry_of_begins h hp cmdChk cmdEff 7).2 hc)

/-- Parameters that stand in the packet. -/
theorem parm_cmdOf (s : State) (q : Nat) {e : Entry} (h : pPtr e.pkt = false) (off n : Nat) :
    (s.cmdOf q e).parm off n = bytesOf e.pkt off n := by
  simp [Cmd.parm, parmOf, State.cmdOf, h]

@[simp] theorem rd_begun (s : State) (q : Nat) (e : Entry) (j : Nat) : (begun s q e).rd j = s.rd j := State.rd_of_regs rfl j

/-- Three bytes of a packet are 0 together. -/
theorem bytesOf_three_zero (p : W512) (k : Nat) (h0 : bytesOf p k 1 = 0) (h1 : bytesOf p (k + 1) 1 = 0) (h2 : bytesOf p (k + 2) 1 = 0) :
    bytesOf p k 3 = 0 := by
  have e1 : p.toNat >>> (8 * (k + 1)) = p.toNat >>> (8 * k) / 256 := by
    rw [Nat.mul_add, Nat.shiftRight_add, Nat.shiftRight_eq_div_pow _ (8 * 1)]
  have e2 : p.toNat >>> (8 * (k + 2)) = p.toNat >>> (8 * k) / 65536 := by
    rw [Nat.mul_add, Nat.shiftRight_add, Nat.shiftRight_eq_div_pow _ (8 * 2)]
  unfold bytesOf at *
  rw [e1] at h1
  rw [e2] at h2
  omega

end Sys2Proof.Machine
end

section
/-! SUPPORT. Tile faults, spare tiles and the partition that has none left (R467, R469, R471). -/

namespace Sys2Proof.Machine

/-! ### Lists of numbers -/

theorem mem_upFrom (a n x : Nat) : x ∈ upFrom a n ↔ a ≤ x ∧ x < a + n := by
  induction n generalizing a with
  | zero => simp [upFrom]
  | succ n ih => rw [upFrom, List.mem_cons, ih]; omega

theorem mem_below (n x : Nat) : x ∈ below n ↔ x < n := by rw [below, mem_upFrom]; omega

/-! ### What the look-ups read -/

theorem State.logical_congr {s t : State} (h : t.ras.map = s.ras.map) (k : Nat) : t.logical? k = s.logical? k := by
  rw [State.logical?, h, State.logical?]

theorem State.spare_congr {s t : State} (h : t.ras.map = s.ras.map) (ht : t.tiles = s.tiles) (d : Nat) : t.spare? d = s.spare? d := by
  simp only [State.spare?, State.isMapped, State.tile, h, ht]

theorem State.faultOp_congr {s t : State} (h : t.handles = s.handles) (k : Nat) : t.faultOp k = s.faultOp k := by
  simp only [State.faultOp, State.opOfTile, State.hslot, h]

theorem State.faultOp_of_noHandles {s : State} (h : s.handles = []) (k : Nat) : s.faultOp k = none := by
  simp [State.faultOp, State.opOfTile, h]

/-- The spare serves no number, and a tile with a number does: they are not the same tile. -/
theorem State.spare_ne {s : State} {k d l x : Nat} (hl : s.logical? k = some l) (hx : s.spare? d = some x) : k ≠ x := by
  rintro rfl
  have hfree : s.isMapped k = false := by
    have := List.find?_some hx
    simp only [Bool.and_eq_true, Bool.not_eq_true'] at this
    exact this.1
  unfold State.logical? at hl
  obtain ⟨e, he, -⟩ := Option.map_eq_some_iff.1 hl
  have hk := List.find?_some he
  have hmapped : s.isMapped k = true := List.any_eq_true.2 ⟨e, List.mem_of_find?_eq_some he, hk⟩
  rw [hfree] at hmapped
  cases hmapped

/-! ### Retirement, and the spare that takes over -/

theorem State.tile_retireTile (s : State) (k : Nat) : ((s.retireTile k).tile k).retired = true := by
  unfold State.retireTile
  show ((s.setTile k { Tile.zero with retired := true }).tile k).retired = true
  rw [State.tile_setTile]

theorem State.mem_badTiles_retireTile (s : State) (k : Nat) : k ∈ (s.retireTile k).ras.badTiles := by
  simp [State.retireTile]

/-- All that the taking of a spare writes of the record of faults: the map. -/
theorem State.takeSpare_ras (s : State) (p k l x : Nat) :
    (s.takeSpare p k l x).ras = { s.ras with map := sput 0 s.ras.map (156 * (k / 156) + l) (x % 156 + 1) } := by
  unfold State.takeSpare
  dsimp only
  split <;> rfl

/-- Of the tiles it writes the spare alone. -/
theorem State.tile_takeSpare (s : State) {k x : Nat} (p l : Nat) {j : Nat} (h : j ≠ x) : (s.takeSpare p k l x).tile j = s.tile j := by
  have withHandles (u : State) (m : SMap HRec) : ({ u with handles := m } : State).tile j = u.tile j := rfl
  have load (u : State) : (u.loadTile p x).tile j = u.tile j := u.tile_modTile_ne _ h
  unfold State.takeSpare
  dsimp only
  rw [withHandles]
  split
  · exact (load _).trans (State.tile_setTile_ne _ _ h)
  · exact State.tile_setTile_ne _ _ h

/-! ### A partition that ceases -/

theorem tilePart_injective {p d d' : Nat} (h : aTilePart p d = aTilePart p d') : d = d' := by unfold aTilePart at h; omega

theorem State.flag_clearTilePart (p : Nat) {d : Nat} (ds : List Nat) (s : State) (h : d ∈ ds ∨ s.flag (aTilePart p d) 16 = false) :
    (ds.foldl (fun s d => s.setFld (aTilePart p d) 16 16 0) s).flag (aTilePart p d) 16 = false := by
  induction ds generalizing s with
  | nil => exact h.resolve_left List.not_mem_nil
  | cons x ds ih =>
    rw [List.foldl_cons]
    apply ih
    by_cases hx : d = x
    · subst hx
      right
      rw [State.flag_setFld _ (by decide), if_pos (by decide), Nat.zero_testBit]
    · refine h.imp (fun h => (List.mem_cons.1 h).resolve_left hx) fun h => ?_
      rw [State.flag_of_rd (State.rd_setFld_ne _ _ _ _ fun e => hx (tilePart_injective e)), h]

theorem State.flag_dropPart (s : State) (p : Nat) {d : Nat} (h : d < 4) : (s.dropPart p).flag (aTilePart p d) 16 = false := by
  have hrd (u : State) (g : PwrS) (v : Part) : (({ u with pwr := g } : State).setPart p v).rd (aTilePart p d) = u.rd (aTilePart p d) :=
    State.rd_of_regs rfl _
  unfold State.dropPart
  dsimp only
  rw [State.flag_of_rd (hrd _ _ _)]
  exact State.flag_clearTilePart p (below 4) _ (.inl ((mem_below 4 d).2 h))

theorem State.partExists_of_flags {s : State} {p : Nat} (h : ∀ d, d < 4 → s.flag (aTilePart p d) 16 = false) : s.partExists p = false := by
  have : (below 4).any (fun d => (s.partRun p d).isSome) = false := by
    rw [List.any_eq_false]
    intro d hd
    simp [State.partRun, h d ((mem_below 4 d).1 hd)]
  rw [State.partExists, this, Bool.and_false]

/-! ### Tile faults -/

section Fault
variable {s : State} {k : Nat} (hr : (s.tile k).retired = false)
include hr

/-- A fault of a tile that serves no number: it is retired, with an error record. -/
theorem State.tileFault_unmapped (hl : s.logical? k = none) : ∃ e, s.tileFault k = (s.errRecord e).retireTile k := by
  have hp : s.tilePart? k = none := by simp [State.tilePart?, hl]
  unfold State.tileFault
  rw [if_neg (by simp [hr]), hp]
  exact ⟨_, rfl⟩

/-- What a fault of a partition's tile does first when it stops no operation: an error record and a timing event. -/
theorem State.tileFault_spared {p l x : Nat} (hp : s.tilePart? k = some p) (hl : s.logical? k = some l) (ho : s.faultOp k = none)
    (hx : s.spare? (k / 156) = some x) :
    ∃ e, s.tileFault k = (((s.errRecord e).detEvent 7 (some p) 0).retireTile k).takeSpare p k l x := by
  refine ⟨{ event := 2, cls := 1, sev := none, part := some p, loc := locTile s k, addr := 0, data := [] }, ?_⟩
  unfold State.tileFault
  dsimp only
  rw [if_neg (by simp [hr]), hp]
  generalize ({ event := 2, cls := 1, sev := none, part := some p, loc := locTile s k, addr := 0, data := [] } : Err) = e
  have h1 : (s.errRecord e).logical? k = some l := (State.logical_congr (s.errRecord_map e) k).trans hl
  have h2 : (s.errRecord e).faultOp k = none := (State.faultOp_congr (s.errRecord_handles e) k).trans ho
  have h3 (p : Nat) : ((s.errRecord e).detEvent 7 (some p) 0).spare? (k / 156) = some x :=
    (State.spare_congr (by rw [State.detEvent_ras, State.errRecord_map]) (by rw [State.detEvent_tiles, State.errRecord_tiles]) _).trans hx
  -- from the inside out: a reduced outer match would leave the kernel to evaluate the look-ups themselves
  simp only [h2]
  simp only [h3]
  rw [h1]

theorem State.tileFault_unspared {p l : Nat} (hp : s.tilePart? k = some p) (hl : s.logical? k = some l) (hh : s.handles = [])
    (hx : s.spare? (k / 156) = none) :
    ∃ u : State, s.tileFault k = ((u.dropPart p).setPart p Part.zero).retireTile k := by
  unfold State.tileFault
  dsimp only
  rw [if_neg (by simp [hr]), hp]
  generalize ({ event := 2, cls := 1, sev := none, part := some p, loc := locTile s k, addr := 0, data := [] } : Err) = e
  have h1 : (s.errRecord e).logical? k = some l := (State.logical_congr (s.errRecord_map e) k).trans hl
  have h2 : (s.errRecord e).faultOp k = none := State.faultOp_of_noHandles ((s.errRecord_handles e).trans hh) k
  have h3 (p : Nat) : ((s.errRecord e).detEvent 7 (some p) 0).spare? (k / 156) = none :=
    (State.spare_congr (by rw [State.detEvent_ras, State.errRecord_map]) (by rw [State.detEvent_tiles, State.errRecord_tiles]) _).trans hx
  have h4 (p : Nat) (f : HRec → Bool) : ((s.errRecord e).detEvent 7 (some p) 0).liveOps f = [] := by
    rw [State.liveOps, State.detEvent_handles, State.errRecord_handles, hh]
    rfl
  simp only [h2]
  simp only [h3, h4, List.foldl_nil]
  rw [h1]
  exact ⟨_, rfl⟩

end Fault

end Sys2Proof.Machine
end

section
/-! SUPPORT. The row TILE_FAULT (R467, R469, R471). -/

namespace Sys2Proof.Machine

theorem tileFault_retired {s : State} {k : Nat} (h : (s.tile k).retired = true) (b : Bool) : exec (.tileFault k b) s = .next s := by
  show execTileFault k b s = _
  unfold execTileFault
  rw [h, Bool.not_true, Bool.and_false, if_neg Bool.false_ne_true]

section Row
variable {s : State} {k : Nat} (hup : s.up = true) (hk : k < 624) (hr : (s.tile k).retired = false)
include hup hk hr

theorem tileFault_row (b : Bool) : exec (.tileFault k b) s = .next (if b then s.tileCorrected k else s.tileFault k) := by
  show execTileFault k b s = _
  unfold execTileFault
  rw [if_pos (by simp [hup, hk, hr])]

/-- A corrected error is counted; above the threshold it is a fault of the tile. -/
theorem tileFault_corrected :
    let ce := (s.ras.tileCe.filter fun e => decide (s.time.refNs < e.2 + 86400000000000)) ++ [(k, s.time.refNs)]
    let u : State := { s with ras := { s.ras with tileCe := ce } }
    let crossed := s.flag aRasCfg 0 = true ∧ s.fld aRasCfg 31 16 < (ce.filter fun e => e.1 == k).length
    (crossed → exec (.tileFault k true) s = exec (.tileFault k false) u) ∧ (¬ crossed → exec (.tileFault k true) s = .next u) := by
  intro ce u crossed
  have hday : 24 * nsPerHour = 86400000000000 := rfl
  have hfault : exec (.tileFault k false) u = .next (u.tileFault k) := tileFault_row (s := u) hup hk hr false
  have hcrossed : (u.flag aRasCfg 0 && decide (u.fld aRasCfg 31 16 < (ce.filter fun e => e.1 == k).length)) = true ↔ crossed := by
    rw [State.flag_of_rd (State.rd_withRas s _ aRasCfg), State.fld_of_rd (State.rd_withRas s _ aRasCfg), Bool.and_eq_true,
      decide_eq_true_eq]
  rw [hfault, tileFault_row hup hk hr, if_pos rfl, State.tileCorrected, hday]
  exact ⟨fun h => congrArg _ (if_pos (hcrossed.2 h)), fun h => congrArg _ (if_neg (mt hcrossed.1 h))⟩

theorem tileFault_unmapped (hl : s.logical? k = none) :
    ∃ t, exec (.tileFault k false) s = .next t ∧ (t.tile k).retired = true ∧ k ∈ t.ras.badTiles := by
  obtain ⟨e, h⟩ := State.tileFault_unmapped hr hl
  exact ⟨_, tileFault_row hup hk hr false, by rw [if_neg Bool.false_ne_true, h, State.tile_retireTile],
    by rw [if_neg Bool.false_ne_true, h]; exact State.mem_badTiles_retireTile _ _⟩

/-- A spare takes the logical number: the tile is retired and the map names the spare. -/
theorem tileFault_spared {p l x : Nat} (hp : s.tilePart? k = some p) (hl : s.logical? k = some l) (ho : s.faultOp k = none)
    (hx : s.spare? (k / 156) = some x) :
    ∃ t, exec (.tileFault k false) s = .next t ∧ (t.tile k).retired = true ∧ k ∈ t.ras.badTiles ∧
      sget 0 t.ras.map (156 * (k / 156) + l) = x % 156 + 1 := by
  obtain ⟨e, h⟩ := State.tileFault_spared hr hp hl ho hx
  refine ⟨s.tileFault k, tileFault_row hup hk hr false, ?_, ?_, ?_⟩
  · rw [h, State.tile_takeSpare _ p l (State.spare_ne hl hx), State.tile_retireTile]
  · rw [h, State.takeSpare_ras]
    exact State.mem_badTiles_retireTile _ _
  · rw [h, State.takeSpare_ras]
    simp only [sget_sput_self]

/-- No spare: the partition is gone. -/
theorem tileFault_unspared {p l : Nat} (hp : s.tilePart? k = some p) (hl : s.logical? k = some l) (hh : s.handles = [])
    (hx : s.spare? (k / 156) = none) :
    ∃ t, exec (.tileFault k false) s = .next t ∧ (t.tile k).retired = true ∧ t.partExists p = false := by
  obtain ⟨u, h⟩ := State.tileFault_unspared hr hp hl hh hx
  have hrd (v : State) (j : Nat) : ((v.setPart p Part.zero).retireTile k).rd j = v.rd j := State.rd_of_regs rfl j
  refine ⟨s.tileFault k, tileFault_row hup hk hr false, ?_, ?_⟩
  · rw [h, State.tile_retireTile]
  · rw [h]
    exact State.partExists_of_flags fun d hd => (State.flag_of_rd (hrd _ _) 16).trans (u.flag_dropPart p hd)

end Row

end Sys2Proof.Machine
end

section
/-! SUPPORT. Steward pairs (R477 to R479): the state fields of RAS_STEWARD, failover, and the outcomes that retire the pair in service. -/

namespace Sys2Proof.Machine

theorem State.pairState_congr {s t : State} (h : t.rd aRasSteward = s.rd aRasSteward) (n : Nat) : t.pairState n = s.pairState n :=
  State.fld_of_rd h _ _

theorem State.activePair_congr {s t : State} (h : t.rd aRasSteward = s.rd aRasSteward) : t.activePair = s.activePair := by
  simp only [State.activePair, State.pairState_congr h]

theorem State.activePair_eq (s : State) :
    s.activePair = if s.pairState 0 = 1 then some 0 else if s.pairState 1 = 1 then some 1 else none := by
  rw [State.activePair, show below 2 = [0, 1] from rfl]
  by_cases h0 : s.pairState 0 = 1 <;> by_cases h1 : s.pairState 1 = 1 <;> simp [h0, h1]

theorem State.activePair_lt {s : State} {n : Nat} (h : s.activePair = some n) : n < 2 := by
  rw [State.activePair_eq] at h
  split at h
  · obtain rfl := Option.some.inj h
    decide
  · split at h
    · obtain rfl := Option.some.inj h
      decide
    · cases h

/-- A pair in service is the one that is found when the other is not in service. -/
theorem State.activePair_of_states {s : State} {m : Nat} (hm : m < 2) (h : s.pairState m = 1) (h' : s.pairState (1 - m) ≠ 1) :
    s.activePair = some m := by
  rw [State.activePair_eq]
  obtain rfl | rfl : m = 0 ∨ m = 1 := by omega
  · rw [if_pos h]
  · rw [if_neg h', if_pos h]

theorem State.pairState_setFld (s : State) {n m : Nat} (v : Nat) (hn : n < 2) (hm : m < 2) :
    (s.setFld aRasSteward (pairLo m + 1) (pairLo m) v).pairState n = if n = m then v % 4 else s.pairState n := by
  have hlo (k : Nat) : pairLo k + 1 < 64 := by unfold pairLo; split <;> omega
  unfold State.pairState
  split
  · subst n
    rw [State.fld_setFld_self _ (hlo m), show pairLo m + 1 + 1 - pairLo m = 2 by omega, show 2 ^ 2 = 4 from rfl]
  · exact State.fld_setFld_disjoint _ (hlo m) (by unfold pairLo; split <;> split <;> omega)

/-! ### Failover (R479) -/

/-- Pair `n` retired, and the event set. -/
def State.retirePair (s : State) (n : Nat) : State := (s.setFld aRasSteward (pairLo n + 1) (pairLo n) 2).setFlag aRasStatus 60

theorem State.failover_eq (s : State) (n : Nat) :
    s.failover n =
      if (s.retirePair n).pairState (1 - n) = 0 then
        (s.retirePair n).setFld aRasSteward (pairLo (1 - n) + 1) (pairLo (1 - n)) 1
      else s.retirePair n := rfl

theorem State.pairState_retirePair (s : State) {n m : Nat} (hn : n < 2) (hm : m < 2) :
    (s.retirePair n).pairState m = if m = n then 2 else s.pairState m := by
  unfold State.retirePair
  rw [State.pairState_congr (State.rd_setFlag_ne _ 60 (by decide)), State.pairState_setFld _ _ hm hn]

theorem State.pairState_failover (s : State) {n : Nat} (hn : n < 2) : (s.failover n).pairState n = 2 := by
  have h : (s.retirePair n).pairState n = 2 := by rw [State.pairState_retirePair _ hn hn, if_pos rfl]
  rw [State.failover_eq]
  split
  · rw [State.pairState_setFld _ _ hn (by omega), if_neg (by omega), h]
  · exact h

theorem State.activePair_failover (s : State) {n : Nat} (hn : n < 2) (h : s.pairState (1 - n) = 0) :
    (s.failover n).activePair = some (1 - n) := by
  have hm : 1 - n < 2 := by omega
  have h0 : (s.retirePair n).pairState (1 - n) = 0 := by rw [State.pairState_retirePair _ hn hm, if_neg (by omega), h]
  refine State.activePair_of_states hm ?_ ?_
  · rw [State.failover_eq, if_pos h0, State.pairState_setFld _ _ hm hm, if_pos rfl]
  · rw [show 1 - (1 - n) = n by omega, State.pairState_failover s hn]
    decide

/-! ### Outcomes (R478) -/

/-- The pair in service is retired, and a healthy standby takes over. -/
def State.TookOver (s t : State) (n : Nat) : Prop := t.pairState n = 2 ∧ (s.pairState (1 - n) = 0 → t.activePair = some (1 - n))

theorem State.tookOver_of_failover {s t : State} {n : Nat} (hn : n < 2) (h : ∀ m, m < 2 → t.pairState m = s.pairState m) :
    s.TookOver (t.failover n) n :=
  ⟨t.pairState_failover hn, fun h0 => t.activePair_failover hn ((h _ (by omega)).trans h0)⟩

/-- The outcome is noted in a field of its own. -/
theorem State.pairState_setOutcome (s : State) (v n : Nat) : (s.setFld aRasSteward 53 52 v).pairState n = s.pairState n :=
  State.fld_setFld_disjoint _ (by decide) (.inr (by unfold pairLo; split <;> omega))

theorem State.tookOver_stewardFault {s : State} {n : Nat} (o : Nat) (h : s.activePair = some n) :
    s.TookOver (s.stewardFault o) n := by
  unfold State.stewardFault
  rw [h]
  refine State.tookOver_of_failover (State.activePair_lt h) fun m _ => ?_
  rw [State.pairState_congr (State.rd_errRecord _ _ (by decide))]
  split
  · exact State.pairState_setOutcome _ _ _
  · rfl

theorem State.furrow_lt (s : State) : s.furrow < 2 ^ 48 := by
  unfold State.furrow wrapInt
  omega

/-- The furrow of the last comparison is noted, which leaves the pairs as they were. -/
def State.injected (s : State) : State :=
  { s with ras := { s.ras with injectBit := s.ras.injectBit + 1 } }.setFld aRasSteward 47 0 s.furrow

theorem State.pairState_injected (s : State) (n : Nat) : s.injected.pairState n = s.pairState n := by
  unfold State.injected
  exact (State.fld_setFld_disjoint _ (by decide) (.inr (by unfold pairLo; split <;> omega))).trans
    (State.pairState_congr (State.rd_withRas s _ _) n)

theorem State.activePair_injected (s : State) : s.injected.activePair = s.activePair := by
  simp only [State.activePair, State.pairState_injected]

theorem State.fld_injected (s : State) : s.injected.fld aRasSteward 47 0 = s.furrow := by
  unfold State.injected
  rw [State.fld_setFld_self _ (by decide)]
  exact Nat.mod_eq_of_lt s.furrow_lt

section Rows
variable {s : State} {n : Nat} (hup : s.up = true) (ha : s.activePair = some n)
include hup ha

theorem lockstepInjection_row (r : Nat) :
    exec (.lockstepInjection r) s = if r = 2 then .next s.injected else .next (s.injected.stewardFault 2) := by
  show execLockstepInjection r s = _
  unfold execLockstepInjection
  rw [if_pos (by simp [hup, ha])]
  rfl

theorem lockstepInjection_good :
    ∃ t, exec (.lockstepInjection 2) s = .next t ∧ t.activePair = some n ∧ t.fld aRasSteward 47 0 = s.furrow :=
  ⟨_, (lockstepInjection_row hup ha 2).trans (if_pos rfl), s.activePair_injected.trans ha, s.fld_injected⟩

theorem lockstepInjection_bad {r : Nat} (hr : r ≠ 2) : ∃ t, exec (.lockstepInjection r) s = .next t ∧ s.TookOver t n := by
  obtain ⟨h1, h2⟩ := State.tookOver_stewardFault 2 (s.activePair_injected.trans ha)
  exact ⟨_, (lockstepInjection_row hup ha r).trans (if_neg hr), h1, fun h => h2 ((s.pairState_injected _).trans h)⟩

theorem stewardMismatch_takesOver {o : Nat} (h1 : 1 ≤ o) (h4 : o ≤ 4) :
    ∃ t, exec (.stewardMismatch o) s = .next t ∧ s.TookOver t n := by
  refine ⟨s.stewardFault o, ?_, State.tookOver_stewardFault o ha⟩
  show execStewardMismatch o s = _
  unfold execStewardMismatch
  rw [if_pos (by simp [hup, h1, h4])]

end Rows

end Sys2Proof.Machine
end

section
/-! SUPPORT. REPAIR (R485): what each action checks and does. -/

namespace Sys2Proof.Machine

/-! ### Pseudo-channels (R308, R309) -/

theorem hbmStackPc_ne_status (k j : Nat) : aHbmStackPc k ≠ aHbmStackStatus j := by
  unfold aHbmStackPc aHbmStackStatus; omega

/-- With room in its stack the pseudo-channel is retired and the repair record names it. -/
theorem State.askRetire_room {s : State} {k n : Nat} (hk : k < 8) (hn : n < 32) (hr : s.pcRetired k n = false)
    (hroom : s.fld (aHbmStackStatus k) 29 28 < 2) :
    (s.askRetire k n).pcRetired k n = true ∧ 32 * k + n ∈ (s.askRetire k n).ras.badPcs := by
  have he : s.askRetire k n = s.retirePc k n := by
    rw [State.askRetire, if_neg (by simp [hr]), if_neg (by omega)]
  have hst (u : State) (v : StackS) (j : Nat) : (u.setStack k v).rd j = u.rd j := State.rd_of_regs rfl j
  have hne : aHbmStackPc k ≠ aRasStatus := by unfold aHbmStackPc aRasStatus; omega
  rw [he]
  unfold State.retirePc State.pcRetired
  dsimp only
  constructor
  · rw [State.flag_of_rd (State.rd_errRecord _ _ hne), State.flag_of_rd (hst _ _ _), State.flag_of_rd (State.rd_withRas _ _ _),
      State.flag_of_rd (State.rd_setFld_ne _ _ _ _ (hbmStackPc_ne_status k k)), State.flag_setFld _ (by omega), if_pos (by simp),
      Nat.sub_self]
    rfl
  · rw [State.errRecord_badPcs, State.setStack_ras]
    exact List.mem_append_right _ List.mem_cons_self

/-- With a third of the stack to be gone the retirement is refused. -/
theorem State.askRetire_full {s : State} {k n : Nat} (hr : s.pcRetired k n = false)
    (hfull : 2 ≤ s.fld (aHbmStackStatus k) 29 28) :
    (s.askRetire k n).flag (aHbmStackStatus k) 62 = true ∧ (s.askRetire k n).pcRetired k n = false := by
  have he : s.askRetire k n = s.setFlag (aHbmStackStatus k) 62 := by
    rw [State.askRetire, if_neg (by simp [hr]), if_pos hfull]
  rw [he]
  exact ⟨State.flag_setFlag_self _ (by decide),
    (State.flag_of_rd (State.rd_setFlag_ne _ _ (hbmStackPc_ne_status k k)) _).trans hr⟩

/-! ### The command -/

theorem cmdChk_repair {c : Cmd} (h : c.op = 0x0903) (s : State) : cmdChk s c = chkRepair s c := by simp only [cmdChk, h]

theorem cmdEff_repair {c : Cmd} (h : c.op = 0x0903) (s : State) : cmdEff s c = effRepair s c := by simp only [cmdEff, h]

section Command
variable {s : State} {q : Nat} {e : Entry} (h : Begins s q 0x0903 e)

include h

theorem op_repair : (s.cmdOf q e).op = 0x0903 := by
  obtain ⟨-, -, hop, -⟩ := h
  exact hop

theorem parm_repair (off n : Nat) : (s.cmdOf q e).parm off n = bytesOf e.pkt off n := by
  obtain ⟨-, -, -, -, hptr, -⟩ := h
  exact parm_cmdOf s q hptr off n

theorem repair_refused {st : Nat} (hc : chkRepair s (s.cmdOf q e) = .bad st 0) :
    exec (.repair q) s = .next (s.finish q e.seq st 0 0) := by
  show Host.Outcome.next (startCmd 0x0903 s q) = _
  rw [startCmd_refused h rfl ((cmdChk_repair (op_repair h) s).trans hc)]

/-- A REPAIR that its checks pass ends with the status its action gives. -/
theorem repair_done {v : State} {st : Nat} (hc : chkRepair s (s.cmdOf q e) = .ok)
    (he : effRepair (begun s q e) (s.cmdOf q e) = (s.cmdOf q e).done v st 0) : exec (.repair q) s = .next (v.finish q e.seq st 0 0) := by
  show Host.Outcome.next (startCmd 0x0903 s q) = _
  rw [startCmd_started h rfl ((cmdChk_repair (op_repair h) s).trans hc), cmdEff_repair (op_repair h), he]
  rfl

/-- An action that R485 does not list. -/
theorem repair_unlisted (hk : 4 < bytesOf e.pkt 16 1) : exec (.repair q) s = .next (s.finish q e.seq 0x0304 0 0) := by
  refine repair_refused h ?_
  have hp := parm_repair h 16 1
  unfold chkRepair
  dsimp only
  split
  case h_6 => rfl
  all_goals omega

section Tile
variable (hk : bytesOf e.pkt 16 1 = 0)
include hk

theorem chkRepair_tile :
    chkRepair s (s.cmdOf q e) =
      Chk.must (decide (bytesOf e.pkt 17 1 < 4) && decide (bytesOf e.pkt 18 1 < 156) && bytesOf e.pkt 19 1 == 0 &&
        !(s.tile (156 * bytesOf e.pkt 17 1 + bytesOf e.pkt 18 1)).retired) 0x0304 := by
  simp only [chkRepair, parm_repair h, hk]

theorem repair_tile_refused
    (hx : 4 ≤ bytesOf e.pkt 17 1 ∨ 156 ≤ bytesOf e.pkt 18 1 ∨ bytesOf e.pkt 19 1 ≠ 0 ∨
      (s.tile (156 * bytesOf e.pkt 17 1 + bytesOf e.pkt 18 1)).retired = true) :
    exec (.repair q) s = .next (s.finish q e.seq 0x0304 0 0) := by
  refine repair_refused h ((chkRepair_tile h hk).trans (if_neg ?_))
  simp only [Bool.and_eq_true, decide_eq_true_eq, beq_iff_eq, Bool.not_eq_true']
  rintro ⟨⟨⟨h1, h2⟩, h3⟩, h4⟩
  rw [h4] at hx
  rcases hx with hx | hx | hx | hx
  · omega
  · omega
  · exact hx h3
  · cases hx

theorem repair_tile (hx : bytesOf e.pkt 17 1 < 4) (hy : bytesOf e.pkt 18 1 < 156) (hz : bytesOf e.pkt 19 1 = 0)
    (hr : (s.tile (156 * bytesOf e.pkt 17 1 + bytesOf e.pkt 18 1)).retired = false) :
    exec (.repair q) s = .next (((begun s q e).tileFault (156 * bytesOf e.pkt 17 1 + bytesOf e.pkt 18 1)).finish q e.seq 0 0 0) := by
  refine repair_done h ((chkRepair_tile h hk).trans (if_pos (by simp [hx, hy, hz, hr]))) ?_
  simp only [effRepair, parm_repair h, hk]

end Tile

/-- A pseudo-channel: retired where its stack has room, refused with the event set where it has none. -/
theorem repair_pc (hk : bytesOf e.pkt 16 1 = 1) {x y : Nat} (hx : bytesOf e.pkt 17 1 = x) (hy : bytesOf e.pkt 18 1 = y)
    (hx8 : x < 8) (hy32 : y < 32) (hz : bytesOf e.pkt 19 1 = 0) (hr : s.pcRetired x y = false) :
    ∃ v : State, (s.fld (aHbmStackStatus x) 29 28 < 2 → exec (.repair q) s = .next (v.finish q e.seq 0 0 0) ∧ v.pcRetired x y = true ∧
        32 * x + y ∈ v.ras.badPcs) ∧
      (2 ≤ s.fld (aHbmStackStatus x) 29 28 → exec (.repair q) s = .next (v.finish q e.seq 0x0304 0 0) ∧
        v.flag (aHbmStackStatus x) 62 = true ∧ v.pcRetired x y = false) := by
  have hchk : chkRepair s (s.cmdOf q e) = .ok := by
    simp [chkRepair, parm_repair h, hk, hx, hy, hx8, hy32, hz, hr, Chk.must]
  have heff : effRepair (begun s q e) (s.cmdOf q e) =
      if ((begun s q e).askRetire x y).pcRetired x y then (s.cmdOf q e).done ((begun s q e).askRetire x y) 0 0
      else (s.cmdOf q e).done ((begun s q e).askRetire x y) 0x0304 0 := by
    simp only [effRepair, parm_repair h, hk, hx, hy]
  have hr' : (begun s q e).pcRetired x y = false := (State.flag_of_rd (rd_begun s q e _) _).trans hr
  have hfld := State.fld_of_rd (rd_begun s q e (aHbmStackStatus x)) 29 28
  refine ⟨(begun s q e).askRetire x y, fun hroom => ?_, fun hfull => ?_⟩
  · obtain ⟨h1, h2⟩ := State.askRetire_room hx8 hy32 hr' (hfld ▸ hroom)
    exact ⟨repair_done h hchk (heff.trans (if_pos h1)), h1, h2⟩
  · obtain ⟨h1, h2⟩ := State.askRetire_full hr' (hfld ▸ hfull)
    exact ⟨repair_done h hchk (heff.trans (if_neg (by rw [h2]; decide))), h1, h2⟩

/-- A lane of a link that is UP with its spare unused. -/
theorem repair_lane (hk : bytesOf e.pkt 16 1 = 2) {x y : Nat} (hx : bytesOf e.pkt 17 1 = x) (hy : bytesOf e.pkt 18 1 = y)
    (hx64 : x < 64) (hy4 : y < 4) (hz : bytesOf e.pkt 19 1 = 0) (hu : s.linkUp x = true) (hf : s.flag (aFabLinkStatus x) 7 = false) :
    ∃ v : State, exec (.repair q) s = .next (v.finish q e.seq 0 0 0) ∧ v.flag (aFabLinkStatus x) 7 = true ∧
      v.fld (aFabLinkStatus x) 10 8 = y := by
  have hchk : chkRepair s (s.cmdOf q e) = .ok := by
    simp [chkRepair, parm_repair h, hk, hx, hy, hx64, hy4, hz, hu, hf, Chk.must]
  have heff : effRepair (begun s q e) (s.cmdOf q e) = (s.cmdOf q e).done ((begun s q e).laneFails x y) 0 0 := by
    simp only [effRepair, parm_repair h, hk, hx, hy]
  obtain ⟨h1, h2⟩ := State.laneFails_first hx64 hy4 ((State.flag_of_rd (rd_begun s q e _) 7).trans hf)
  exact ⟨_, repair_done h hchk heff, h1, h2⟩

section Rest
variable (hx : bytesOf e.pkt 17 1 = 0) (hy : bytesOf e.pkt 18 1 = 0) (hz : bytesOf e.pkt 19 1 = 0)
include hx hy hz

/-- The L1s are forced on where both cache levels are enabled or clean. -/
theorem repair_caches (hk : bytesOf e.pkt 16 1 = 3) :
    let fine := (s.flag aCacheMode 0 = true ∨ s.flag aCacheStatus 2 = true) ∧ (s.flag aCacheMode 1 = true ∨ s.flag aCacheStatus 4 = true)
    (¬ fine → exec (.repair q) s = .next (s.finish q e.seq 0x0B01 0 0)) ∧
      (fine → ∃ v : State, exec (.repair q) s = .next (v.finish q e.seq 0 0 0) ∧ v.fld aCacheMode 1 0 = 3) := by
  intro fine
  have hchk : chkRepair s (s.cmdOf q e) =
      Chk.must ((s.flag aCacheMode 0 || s.flag aCacheStatus 2) && (s.flag aCacheMode 1 || s.flag aCacheStatus 4)) 0x0B01 := by
    simp only [chkRepair, parm_repair h, hk, bytesOf_three_zero e.pkt 17 hx hy hz]
    rfl
  have hfine : ((s.flag aCacheMode 0 || s.flag aCacheStatus 2) && (s.flag aCacheMode 1 || s.flag aCacheStatus 4)) = true ↔ fine := by
    simp only [Bool.and_eq_true, Bool.or_eq_true, fine]
  have heff : effRepair (begun s q e) (s.cmdOf q e) = (s.cmdOf q e).done ((begun s q e).setFld aCacheMode 1 0 3) 0 0 := by
    simp only [effRepair, parm_repair h, hk]
  refine ⟨fun hf => repair_refused h (hchk.trans (if_neg (mt hfine.1 hf))), fun hf => ?_⟩
  exact ⟨_, repair_done h (hchk.trans (if_pos (hfine.2 hf))) heff, State.fld_setFld_self _ (by decide)⟩

/-- The pair in service is retired, and the standby pair is in service. -/
theorem repair_pair (hk : bytesOf e.pkt 16 1 = 4) {n : Nat} (ha : s.activePair = some n) (h0 : s.pairState (1 - n) = 0) :
    ∃ v : State, exec (.repair q) s = .next (v.finish q e.seq 0 0 0) ∧ v.activePair = some (1 - n) ∧ v.pairState n = 2 := by
  have hn := State.activePair_lt ha
  have hb := rd_begun s q e aRasSteward
  have hany : (below 2).any (fun m => s.pairState m == 0) = true :=
    List.any_eq_true.2 ⟨1 - n, (mem_below 2 _).2 (by omega), by simp [h0]⟩
  have hchk : chkRepair s (s.cmdOf q e) = .ok := by
    simp only [chkRepair, parm_repair h, hk, bytesOf_three_zero e.pkt 17 hx hy hz, ha, hany]
    rfl
  have heff : effRepair (begun s q e) (s.cmdOf q e) = (s.cmdOf q e).done ((begun s q e).failover n) 0 0 := by
    simp only [effRepair, parm_repair h, hk, State.activePair_congr hb, ha]
  exact ⟨_, repair_done h hchk heff, State.activePair_failover _ hn ((State.pairState_congr hb _).trans h0),
    State.pairState_failover _ hn⟩

end Rest
end Command

end Sys2Proof.Machine
end

section
/-! SUPPORT. Die-to-die modules (R22), shares and breaches (R487, R488), the hashing of chunks (R441). O59 is settled here. -/

namespace Sys2Proof.Machine

/-! ### Die-to-die modules -/

/-- The bit of a failed module is set, and stays: the row acts only where it is clear. -/
theorem d2dModuleFail_row {s : State} (ha : s.boot.alive = true) {conn m : Nat} (hc : conn < 14) (hm : m < modulesOf conn)
    (hb : bit (sget 0 s.fab.d2d conn) m = false) :
    ∃ t, exec (.d2dModuleFail conn m) s = .next t ∧ sget 0 t.fab.d2d conn = sget 0 s.fab.d2d conn + 2 ^ m := by
  have he : ∃ e, execD2dModuleFail conn m s =
      .next (({ s with fab := { s.fab with d2d := smod 0 s.fab.d2d conn fun x => x + 2 ^ m } } : State).errRecord e) := by
    unfold execD2dModuleFail
    rw [if_pos (by simp [ha, hc, hm, hb])]
    exact ⟨_, rfl⟩
  obtain ⟨e, he⟩ := he
  refine ⟨_, he, ?_⟩
  rw [State.errRecord_fab]
  simp only [smod, sget_sput_self]

/-! ### Shares -/

theorem State.rd_breachRec (s : State) (p idx j : Nat) : (s.breachRec p idx).rd j = s.rd j := by
  unfold State.breachRec
  split
  · obtain ⟨_, _, _, _, _, _, h⟩ := State.postRec_eq s (s.mkRec _ 0 0x1001 0 idx true)
    rw [h]
    exact State.rd_of_regs rfl j
  · rfl

/-- A new breach entry: the pointer steps and the event is set. -/
theorem State.breach_new {s : State} {c l h : Nat} (place : Nat) (hn : s.breachOf c l h = none) :
    (s.breach c l h place).flag aRasStatus 61 = true ∧
      (s.breach c l h place).fld aRasBreachPtr 31 0 = (s.fld aRasBreachPtr 31 0 + 1) % 2 ^ 32 := by
  have noted (u : State) (k : Nat) {t : State} (ht : ∀ j, t.rd j = ((u.setFld aRasBreachPtr 31 0 k).setFlag aRasStatus 61).rd j) :
      t.flag aRasStatus 61 = true ∧ t.fld aRasBreachPtr 31 0 = k % 2 ^ 32 := by
    rw [State.flag_of_rd (ht _), State.fld_of_rd (ht _), State.flag_setFlag_self _ (by decide),
      State.fld_of_rd (State.rd_setFlag_ne _ 61 (by decide)), State.fld_setFld_self _ (by decide)]
    exact ⟨rfl, rfl⟩
  unfold State.breach
  rw [hn]
  dsimp only
  split
  · exact noted _ _ fun j => State.rd_breachRec _ _ _ j
  · exact noted _ _ fun j => (State.rd_breachRec _ _ _ j).trans (State.rd_breachRec _ _ _ j)

section Share
variable {s : State} {o : ShareObs} (hup : s.up = true)
include hup

theorem shareWindowEnd_one : exec (.shareWindowEnd [o]) s = .next (s.judgeShare o) := by
  show execShareWindowEnd [o] s = _
  unfold execShareWindowEnd
  rw [if_pos hup]
  rfl

theorem shareWindowEnd_none : exec (.shareWindowEnd []) s = .next s := by
  show execShareWindowEnd [] s = _
  unfold execShareWindowEnd
  rw [if_pos hup]
  rfl

/-- Traffic that does not wait, or that has its share, is no breach. -/
theorem shareWindowEnd_kept
    (h : o.waiting = false ∨ (if o.resource < 64 then s.fld (aRasPartShare o.part) 7 0 else s.fld (aRasPartShare o.part) 15 8) ≤ o.percent) :
    exec (.shareWindowEnd [o]) s = .next s := by
  rw [shareWindowEnd_one hup]
  unfold State.judgeShare
  dsimp only
  rw [if_neg]
  simp only [Bool.and_eq_true, decide_eq_true_eq]
  rintro ⟨⟨⟨_, hw⟩, hp⟩, -⟩
  rcases h with h | h
  · rw [h] at hw
    cases hw
  · omega

theorem shareWindowEnd_breach (hp : o.part < 16) (hh : o.holder < 16) (hr : o.resource < 72)
    (hc : o.cause = 2 ∨ o.cause = 4 ∨ o.cause = 5) (hw : o.waiting = true)
    (hs : o.percent < if o.resource < 64 then s.fld (aRasPartShare o.part) 7 0 else s.fld (aRasPartShare o.part) 15 8)
    (hn : s.breachOf o.cause o.part o.holder = none) :
    ∃ t, exec (.shareWindowEnd [o]) s = .next t ∧ t.flag aRasStatus 61 = true ∧
      t.fld aRasBreachPtr 31 0 = (s.fld aRasBreachPtr 31 0 + 1) % 2 ^ 32 := by
  refine ⟨_, shareWindowEnd_one hup, ?_⟩
  unfold State.judgeShare
  dsimp only
  rw [if_pos]
  · exact State.breach_new _ hn
  · simp only [Bool.and_eq_true, Bool.or_eq_true, decide_eq_true_eq, or_assoc]
    exact ⟨⟨⟨⟨⟨hp, hh⟩, hr⟩, hw⟩, hs⟩, hc⟩

end Share

/-! ### Digests -/

/-- The one digest in progress takes the chunk's leaf, unless it has one. -/
theorem State.hashChunk_one {s : State} {w : Nat} {d : DigRun} (hd : s.digRun = [(w, d)]) {chunk : Nat}
    (hin : s.inRegion aDetRegionBase aDetRegionLen d.part chunk = true) :
    ∃ d', s.hashChunk w chunk = { s with digRun := [(w, d')] } ∧
      sfind? d'.leaves chunk = some ((sfind? d.leaves chunk).getD (s.hbm.leaf chunk)) := by
  have hf : sfind? s.digRun w = some d := by rw [hd, sfind?, if_pos rfl]
  unfold State.hashChunk
  rw [hf]
  dsimp only
  rw [hin, Bool.true_and]
  cases hl : sfind? d.leaves chunk with
  | none =>
    refine ⟨{ d with leaves := sins d.leaves chunk (s.hbm.leaf chunk) }, ?_, sfind_sins_self _ _ _⟩
    rw [if_pos Option.isNone_none, hd]
    simp [sins]
  | some v =>
    refine ⟨d, ?_, hl⟩
    rw [if_neg (by simp), ← hd]

theorem digestChunkHash_one {s : State} (hup : s.up = true) {w : Nat} {d : DigRun} (hd : s.digRun = [(w, d)]) {chunk : Nat}
    (hin : s.inRegion aDetRegionBase aDetRegionLen d.part chunk = true) :
    ∃ t, exec (.digestChunkHash d.part chunk) s = .next t ∧ t = { s with digRun := t.digRun } ∧
      ∃ d', t.digRun = [(w, d')] ∧ sfind? d'.leaves chunk = some ((sfind? d.leaves chunk).getD (s.hbm.leaf chunk)) := by
  obtain ⟨d', he, hl⟩ := State.hashChunk_one hd hin
  refine ⟨s.hashChunk w chunk, ?_, by rw [he], d', by rw [he], hl⟩
  show execDigestChunkHash d.part chunk s = _
  unfold execDigestChunkHash
  rw [if_pos hup, hd, List.filter_cons_of_pos (by simp)]
  rfl

/-! ### The parts together -/

/-- Settles O59, from the rows of tile faults, REPAIR, the steward pairs, the die-to-die modules, the shares and the digest engine. -/
theorem faultsAndRepair : Obligations.FaultsAndRepair := by
  intro s hup
  have halive : s.boot.alive = true := by
    rw [State.up, Bool.and_eq_true] at hup
    exact hup.1
  refine ⟨fun k hk => ⟨tileFault_retired, tileFault_corrected hup hk, tileFault_unmapped hup hk, fun p l x hr => tileFault_spared hup hk hr,
    fun p l hr => tileFault_unspared hup hk hr⟩, fun q e h => ?repair, fun n ha => ?pairs, fun conn m => d2dModuleFail_row halive,
    shareWindowEnd_none hup, fun o hp hh hr hc => ⟨shareWindowEnd_kept hup, shareWindowEnd_breach hup hp hh hr hc⟩, ?digest⟩
  case repair =>
    exact ⟨repair_unlisted h, repair_tile_refused h, repair_tile h, fun hk => repair_pc h hk rfl rfl, fun hk => repair_lane h hk rfl rfl,
      fun hk hx hy hz => repair_caches h hx hy hz hk, fun n hk hx hy hz => repair_pair h hx hy hz hk⟩
  case pairs =>
    exact ⟨lockstepInjection_good hup ha, fun r => lockstepInjection_bad hup ha, fun o => stewardMismatch_takesOver hup ha⟩
  case digest =>
    rintro p chunk w d hd rfl hin
    exact digestChunkHash_one hup hd hin

end Sys2Proof.Machine
end

section
/-! SUPPORT. One tile written and nothing else, an exception raised at a tile, a token posted: what each operation leaves, in the words of
the statements about tiles. -/

namespace Sys2Proof.Machine

theorem tileOnly_setTile (s : State) (k : Nat) (x : Tile) : TileOnly s (s.setTile k x) k x :=
  ⟨s.tile_setTile k x, fun _ => s.tile_setTile_ne x, rfl⟩

/-- Of two writes of one tile the later one stands. -/
theorem tileOnly_trans {s v u : State} {k : Nat} {x y : Tile} (h : TileOnly s v k x) (h' : TileOnly v u k y) :
    TileOnly s u k y := by
  obtain ⟨-, hj, hs⟩ := h
  obtain ⟨hk', hj', hs'⟩ := h'
  refine ⟨hk', fun j hne => (hj' j hne).trans (hj j hne), ?_⟩
  rw [hs', hs]

/-- The exception kept in `excPend` is the earlier of the two in program order (R145). -/
theorem excPend_kept (p : Option (Nat × W64)) (me : Nat × W64) :
    (match p with
      | some v => if v.1 ≤ me.1 then v else me
      | none => me) = (p.filter fun v => v.1 ≤ me.1).getD me := by
  cases p with
  | none => rfl
  | some v => by_cases h : v.1 ≤ me.1 <;> simp [Option.filter, h]

theorem tileRaised_tileExc (s : State) (k ord bundle slot cause : Nat) :
    TileRaised s (s.tileExc k ord bundle slot cause) k ord bundle slot cause := by
  have h := tileOnly_setTile s k
  unfold TileRaised
  simp only [← excPend_kept _ (_, _)]
  exact h _

theorem postsThen_tilePost (s : State) (k : Nat) (z : Tile) (tk ord bundle slot : Nat) :
    PostsThen s ((s.setTile k z).tilePost k tk ord bundle slot) k z tk ord bundle slot := by
  have hz := tileOnly_setTile s k z
  unfold PostsThen State.tilePost
  rw [State.tile_setTile]
  split
  · exact hz
  · split
    · exact ⟨_, hz, tileRaised_tileExc _ _ _ _ _ _⟩
    · refine tileOnly_trans hz ?_
      rw [State.modTile, State.tile_setTile]
      exact tileOnly_setTile _ _ _

end Sys2Proof.Machine
end

section
/-! The proof of TileExceptions: the token deadlock (R138) and the entry into EXCEPTION (R143, R144). -/

namespace Sys2Proof.Machine

/-! ### Token deadlock -/

/-- The search for the earliest entry from `m` on ends at the one that lies before all others. -/
theorem foldl_earliest (l : List (Nat × Nat × Nat)) {m st : Nat × Nat × Nat} (hm : st ∈ m :: l)
    (h : ∀ y ∈ m :: l, y ≠ st → st.1 < y.1) : l.foldl (fun m y => if y.1 < m.1 then y else m) m = st := by
  induction l generalizing m with
  | nil => exact (List.mem_singleton.1 hm).symm
  | cons y l ih =>
    have hy : y = st ∨ st.1 < y.1 := or_iff_not_imp_left.2 (h y (by simp))
    have hm' : m = st ∨ st.1 < m.1 := or_iff_not_imp_left.2 (h m (by simp))
    rw [List.foldl_cons]
    split
    · refine ih ?_ fun z hz => h z (List.mem_cons_of_mem _ hz)
      rcases List.mem_cons.1 hm with rfl | hst
      · rcases hy with rfl | hlt
        · exact List.mem_cons_self
        · omega
      · exact hst
    · refine ih ?_ fun z hz => h z (by rcases List.mem_cons.1 hz with rfl | hz <;> simp [*])
      rcases hm' with rfl | hlt
      · exact List.mem_cons_self
      · rcases hy with rfl | hlt'
        · omega
        · have hne : st ≠ m := by rintro rfl; omega
          have hne' : st ≠ y := by rintro rfl; omega
          simpa [hne, hne'] using hm

theorem earliest_of_before_all {l : List (Nat × Nat × Nat)} {st : Nat × Nat × Nat} (hm : st ∈ l) (h : ∀ y ∈ l, y ≠ st → st.1 < y.1) :
    earliest l = some st := by
  cases l with
  | nil => cases hm
  | cons x xs => exact congrArg some (foldl_earliest xs hm h)

theorem tokenDeadlock_names {s : State} {k p : Nat} (hp : s.tilePart? k = some p) (hr : s.tileRuns k = true) (hs : s.tileStuck k p = true)
    {st : Nat × Nat × Nat} (h : earliest (s.tile k).stalled = some st) :
    exec (.tokenDeadlock k) s = .next (s.tileExc k (st.1 / 4) st.2.1 st.2.2 5) := by
  show execTokenDeadlock k s = _
  unfold execTokenDeadlock
  simp only [hp, hr, hs, h, Bool.and_self, if_true]

/-! ### The entry into EXCEPTION -/

/-- A request of tile `k` is nobody's any more. -/
def orphan (k : Nat) (o : Outst) : Outst :=
  match o.isFor with
  | .tile j _ => if j = k then { o with isFor := .nobody } else o
  | _ => o

theorem orphan_isFor_ne (k n : Nat) (o : Outst) : (orphan k o).isFor ≠ .tile k n := by
  unfold orphan
  split
  · rename_i j m h
    split
    · nofun
    · rename_i hj
      rw [h]
      rintro ⟨⟩
      exact hj rfl
  · rename_i h
    exact h k n

/-- What the entry makes of the tile and of its requests, before the operation is told. -/
def State.exceptionEntered (s : State) (k : Nat) (w : W64) : State :=
  { s.setTile k { (s.tile k).discard with run := .exception, exc := w, stopped := true } with
    fab := { s.fab with outst := s.fab.outst.map (orphan k) } }

theorem tileExceptionEntry_eq {s : State} {k : Nat} {v : Nat × W64} (h : (s.tile k).excPend = some v) :
    exec (.tileExceptionEntry k) s =
      match s.opOfTile k with
      | some i => .next ((s.exceptionEntered k v.2).opFault i 0x0401 v.2)
      | none => .next (s.exceptionEntered k v.2) := by
  show execTileExceptionEntry k s = _
  unfold execTileExceptionEntry
  dsimp only
  rw [h]
  rfl

/-- Telling the operation of a fault writes its handle alone. -/
theorem State.opFault_eq (s : State) (i st : Nat) (d : W64) : ∃ hs, s.opFault i st d = { s with handles := hs } := by
  unfold State.opFault State.modHslot
  split
  · exact ⟨_, rfl⟩
  · exact ⟨_, rfl⟩

theorem State.hslot_opFault {s : State} {i : Nat} (st : Nat) (d : W64) {hr : HRec} (h : s.hslot i = some hr) (he : hr.ending = none) :
    (s.opFault i st d).hslot i = some { hr with ending := some (s.nextFurrow, BitVec.ofNat 16 st, d) } := by
  unfold State.opFault State.modHslot
  rw [h]
  dsimp only
  rw [he, if_neg (by decide), State.hslot_setHslot]

/-- The entry writes the tile, its requests and the handle of its operation, which ends unless an end is set already. -/
theorem tileExceptionEntry_handles {s : State} {k : Nat} {v : Nat × W64} (h : (s.tile k).excPend = some v) :
    ∃ hs, exec (.tileExceptionEntry k) s = .next { s.exceptionEntered k v.2 with handles := hs } ∧
      ∀ i hr, s.opOfTile k = some i → s.hslot i = some hr → hr.ending = none →
        sfind? hs i = some { hr with ending := some (s.nextFurrow, 0x0401, v.2) } := by
  rw [tileExceptionEntry_eq h]
  cases ho : s.opOfTile k with
  | none => exact ⟨s.handles, rfl, fun i hr hi => absurd hi (by simp)⟩
  | some j =>
    obtain ⟨hs, hu⟩ := (s.exceptionEntered k v.2).opFault_eq j 0x0401 v.2
    dsimp only
    refine ⟨hs, by rw [hu], fun i hr hi hsl he => ?_⟩
    cases hi
    have hf := State.hslot_opFault (s := s.exceptionEntered k v.2) 0x0401 v.2 hsl he
    rw [hu] at hf
    exact hf

/-- Settles O25: the deadlock from the order of the stalled instructions, the entry from what it writes. -/
theorem tileExceptions : Obligations.TileExceptions := by
  intro s k p x
  refine ⟨fun hp hr hs st hst hmin => ?deadlock, fun v hv => ?entry⟩
  case deadlock =>
    exact ⟨_, tokenDeadlock_names hp hr hs (earliest_of_before_all hst hmin), tileRaised_tileExc _ _ _ _ _ _⟩
  case entry =>
    obtain ⟨hs, he, hop⟩ := tileExceptionEntry_handles hv
    obtain ⟨hk, hj, -⟩ := tileOnly_setTile s k { (s.tile k).discard with run := .exception, exc := v.2, stopped := true }
    refine ⟨_, he, hk, hj, fun o ho n => ?_, rfl, fun i hr hi hsl hn => ⟨_, hop i hr hi hsl hn, rfl⟩⟩
    obtain ⟨o', -, rfl⟩ := List.mem_map.1 ho
    exact orphan_isFor_ne k n o'

end Sys2Proof.Machine
end

section
/-! SUPPORT. The S slot of a bundle (R131, R203): its fields, the ALU, and what each opcode does to the tile. -/

namespace Sys2Proof.Machine

/-! ### Fields of a slot -/

theorem bits_eq (x hi lo : Nat) : bits x hi lo = x / 2 ^ lo % 2 ^ (hi + 1 - lo) := by rw [bits, Nat.shiftRight_eq_div_pow]

theorem bits_zero (x hi : Nat) : bits x hi 0 = x % 2 ^ (hi + 1) := by rw [bits_eq, Nat.pow_zero, Nat.div_one, Nat.sub_zero]

theorem slotLow_rd (w : W32) : bits (slotLow w) 18 14 = slotLow w / 2 ^ 14 := by
  have h : slotLow w < 2 ^ 19 := bits_lt _ 18 0
  rw [bits_eq, Nat.mod_eq_of_lt]
  omega

theorem slotLow_rs (w : W32) : bits (slotLow w) 13 9 = slotLow w / 2 ^ 9 % 32 := bits_eq _ _ _

theorem slotLow_rt (w : W32) : bits (slotLow w) 8 4 = slotLow w / 2 ^ 4 % 32 := bits_eq _ _ _

theorem slotLow_fn (w : W32) : bits (slotLow w) 3 0 = slotLow w % 16 := bits_zero _ _

/-! ### Signed values and the shift that copies the sign -/

theorem sint_bounds {w : Nat} (hw : 0 < w) (a : Nat) : -(2 : Int) ^ (w - 1) ≤ sint w a ∧ sint w a < (2 : Int) ^ (w - 1) := by
  have hm := Nat.mod_lt a (Nat.two_pow_pos w)
  have hp : (2 : Int) ^ w = 2 * 2 ^ (w - 1) := by rw [← pow_succ', Nat.sub_add_cancel hw]
  have hc : ((2 ^ (w - 1) : Nat) : Int) = 2 ^ (w - 1) := by norm_cast
  have hc' : ((2 ^ w : Nat) : Int) = 2 ^ w := by norm_cast
  unfold sint
  dsimp only
  split <;> omega

/-- By the width or more, the quotient is 0 or -1 (R200). -/
theorem sint_ediv_pow {w : Nat} (hw : 0 < w) (a : Nat) : sint w a / 2 ^ w = if sint w a < 0 then -1 else 0 := by
  obtain ⟨hlo, hhi⟩ := sint_bounds hw a
  have hp : (2 : Int) ^ w = 2 * 2 ^ (w - 1) := by rw [← pow_succ', Nat.sub_add_cancel hw]
  have h0 : (0 : Int) < 2 ^ (w - 1) := by positivity
  split
  · rw [Int.ediv_eq_iff_of_pos (by omega)]
    omega
  · exact Int.ediv_eq_zero_of_lt (by omega) (by omega)

theorem neg_one_wrap (w : Nat) : ((-1 : Int) % 2 ^ w).toNat = 2 ^ w - 1 := by
  have h0 : (0 : Int) < 2 ^ w := by positivity
  have hc : ((2 ^ w : Nat) : Int) = 2 ^ w := by norm_cast
  rw [← Int.add_emod_right, Int.emod_eq_of_lt (by omega) (by omega)]
  omega

theorem iSar_eq {w : Nat} (hw : 0 < w) (a c : Nat) :
    (iSar w a c).1 = if w ≤ c then (if sint w a < 0 then 2 ^ w - 1 else 0) else (sint w a / 2 ^ c % 2 ^ w).toNat := by
  simp only [iSar, wrapInt]
  split
  · next h =>
    rw [Nat.min_eq_right h, sint_ediv_pow hw]
    split
    · exact neg_one_wrap w
    · rw [Int.zero_emod, Int.toNat_zero]
  · next h => rw [Nat.min_eq_left (by omega)]

/-! ### The ALU -/

theorem Tile.sreg_lt (t : Tile) (i : Nat) : t.sreg i < 2 ^ 64 := by
  unfold Tile.sreg
  split
  · decide
  · exact BitVec.isLt _

/-- The functions of the ALU as a chain of conditions: a literal function number picks its own without computing any other. -/
theorem sAlu_eq (fn a b : Nat) : sAlu fn a b =
    if fn = 0 then (a + b) % 2 ^ 64 else if fn = 1 then (a + 2 ^ 64 - b) % 2 ^ 64 else if fn = 2 then a &&& b
    else if fn = 3 then a ||| b else if fn = 4 then a ^^^ b else if fn = 5 then (iShl 64 a b).1 else if fn = 6 then (iShr 64 a b).1
    else if fn = 7 then (iSar 64 a b).1 else if fn = 8 then (a * b) % 2 ^ 64 else if fn = 9 then b2n (sint 64 a < sint 64 b)
    else b2n (a < b) := by
  unfold sAlu
  split
  case h_11 => simp_all
  all_goals simp

theorem wrap_sub {a b n : Nat} (hb : b < n) : (a + n - b) % n = (((a : Int) - b) % n).toNat := by
  have h : ((a + n - b : Nat) : Int) % n = ((a : Int) - b) % n := by
    rw [show ((a + n - b : Nat) : Int) = (a : Int) - b + n by omega, Int.add_emod_right]
  rw [← h]
  norm_cast

theorem sAlu_sub {a b : Nat} (hb : b < 2 ^ 64) : sAlu 1 a b = (((a : Int) - b) % 2 ^ 64).toNat := by
  rw [sAlu_eq, if_neg (by decide), if_pos rfl, wrap_sub hb, Nat.cast_pow, Nat.cast_ofNat]

theorem sAlu_shl (a b : Nat) : sAlu 5 a b = if 64 ≤ b then 0 else a * 2 ^ b % 2 ^ 64 := by
  simp [sAlu_eq, iShl, Nat.shiftLeft_eq]

theorem sAlu_shr {a : Nat} (ha : a < 2 ^ 64) (b : Nat) : sAlu 6 a b = if 64 ≤ b then 0 else a / 2 ^ b := by
  simp only [sAlu_eq, iShr, Nat.mod_eq_of_lt ha, Nat.shiftRight_eq_div_pow, OfNat.ofNat_ne_zero, OfNat.ofNat_ne_one, if_false, if_true,
    Nat.reduceEqDiff]

/-! ### What each opcode does to the tile -/

section SAct
variable {s : State} {k p pc : Nat} {t : Tile} {w : W32}

theorem sAct_nop (h : slotOp w = 0) : s.sAct k p t pc w = (t, none) := by simp only [State.sAct, h]

theorem sAct_alu {n : Nat} (h : slotOp w = 0x02) (hn : (slotLow w % 16 == n) = true) :
    s.sAct k p t pc w =
      (t.setSreg (slotLow w / 2 ^ 14) (sAlu n (t.sreg (slotLow w / 2 ^ 9 % 32)) (t.sreg (slotLow w / 2 ^ 4 % 32))), none) := by
  simp only [State.sAct, h, slotLow_rd, slotLow_rs, slotLow_rt, slotLow_fn, eq_of_beq hn]

/-- The rows of scalar results: an added immediate, fourteen bits shifted in, and the functions of the ALU. -/
theorem sAct_scalar {r : Nat × Bool × Nat}
    (hr : r ∈ sRows (slotLow w) (t.sreg (slotLow w / 2 ^ 14)) (t.sreg (slotLow w / 2 ^ 9 % 32)) (t.sreg (slotLow w / 2 ^ 4 % 32)))
    (hop : slotOp w = r.1) (hok : r.2.1 = true) : s.sAct k p t pc w = (t.setSreg (slotLow w / 2 ^ 14) r.2.2, none) := by
  have hlt := t.sreg_lt
  simp only [sRows, List.mem_cons, List.not_mem_nil, or_false] at hr
  rcases hr with rfl | rfl | rfl | rfl | rfl | rfl | rfl | rfl | rfl | rfl | rfl | rfl | rfl
  · simp only [State.sAct, hop, slotLow_rd, slotLow_rs, imm9, wrapInt]
  · simp only [State.sAct, hop, slotLow_rd, bits_zero]
  · simp [sAct_alu hop hok, sAlu_eq]
  · rw [sAct_alu hop hok, sAlu_sub (hlt _)]
  · simp [sAct_alu hop hok, sAlu_eq]
  · simp [sAct_alu hop hok, sAlu_eq]
  · simp [sAct_alu hop hok, sAlu_eq]
  · rw [sAct_alu hop hok, sAlu_shl]
  · rw [sAct_alu hop hok, sAlu_shr (hlt _)]
  · rw [sAct_alu hop hok, sAlu_eq, iSar_eq (by decide)]
    rfl
  · simp [sAct_alu hop hok, sAlu_eq]
  · simp [sAct_alu hop hok, sAlu_eq, b2n]
  · simp [sAct_alu hop hok, sAlu_eq, b2n]

/-- The address of a load or a store: rs and eight times the immediate, modulo 2^64 (R131). -/
def Tile.sAddr (t : Tile) (w : W32) : Nat :=
  (((t.sreg (slotLow w / 2 ^ 9 % 32) : Int) + 8 * sint 9 (slotLow w)) % 2 ^ 64).toNat

/-- The cause that a load or a store raises: past the program area before misaligned. -/
def Tile.sFault (t : Tile) (w : W32) : Option Nat :=
  if progEnd < t.sAddr w + 8 then some 2 else if t.sAddr w % 8 ≠ 0 then some 3 else none

theorem ite_of_sFault {c : Nat} (hc : t.sFault w = some c) (l : Tile × Option Nat) :
    (if (t.sFault w).isSome then (t, t.sFault w) else l) = (t, some c) := by
  rw [hc]
  rfl

theorem ite_of_no_sFault (hc : t.sFault w = none) (l l' : Tile × Option Nat) : (if (t.sFault w).isSome then l else l') = l' := by
  rw [hc]
  rfl

theorem sAct_fault {c : Nat} (h : slotOp w = 0x04 ∨ slotOp w = 0x05) (hc : t.sFault w = some c) : s.sAct k p t pc w = (t, some c) := by
  rcases h with h | h <;> simp only [State.sAct, h, slotLow_rs] <;> exact ite_of_sFault hc _

theorem sAct_load (h : slotOp w = 0x04) (hc : t.sFault w = none) :
    s.sAct k p t pc w = (t.setSreg (slotLow w / 2 ^ 14) (mval t.store (t.sAddr w) 8), none) := by
  simp only [State.sAct, h, slotLow_rd, slotLow_rs]
  exact ite_of_no_sFault hc _ _

theorem sAct_store (h : slotOp w = 0x05) (hc : t.sFault w = none) :
    s.sAct k p t pc w = ({ t with store := mstore t.store (t.sAddr w) 8 (t.sreg (slotLow w / 2 ^ 14)) }, none) := by
  simp only [State.sAct, h, slotLow_rd, slotLow_rs]
  exact ite_of_no_sFault hc _ _

/-- The branches with their conditions (R131). -/
def sBranches (d rs : Nat) : List (Nat × Bool) :=
  [(0x06, d == rs), (0x07, d != rs), (0x08, decide (sint 64 d < sint 64 rs))]

theorem sAct_branch {r : Nat × Bool} (hr : r ∈ sBranches (t.sreg (slotLow w / 2 ^ 14)) (t.sreg (slotLow w / 2 ^ 9 % 32)))
    (hop : slotOp w = r.1) :
    s.sAct k p t pc w = (if r.2 then { t with pc := (((pc : Int) + sint 9 (slotLow w)) % 2 ^ 13).toNat } else t, none) := by
  simp only [sBranches, List.mem_cons, List.not_mem_nil, or_false] at hr
  rcases hr with rfl | rfl | rfl <;> simp only [State.sAct, hop, slotLow_rd, slotLow_rs, imm9, wrapInt]

theorem sAct_jump (h : slotOp w = 0x09) : s.sAct k p t pc w = ({ t with pc := slotLow w % 2 ^ 12 }, none) := by
  simp only [State.sAct, h, bits_zero]

theorem sAct_sys (h : slotOp w = 0x0B) :
    s.sAct k p t pc w = (t.setSreg (slotLow w / 2 ^ 14) (s.sysRead k p (slotLow w % 16)), none) := by
  simp only [State.sAct, h, slotLow_rd, slotLow_fn]

theorem sysRead_die (s : State) (k p : Nat) : s.sysRead k p 1 = k / 156 := by simp only [State.sysRead]

theorem sysRead_furrow (s : State) (k p : Nat) : s.sysRead k p 3 = s.progFurrow (s.tile k) := by simp only [State.sysRead]

theorem sAct_halt (h : slotOp w = 0x0D) : s.sAct k p t pc w = ({ t with stopped := true }, none) := by simp only [State.sAct, h]

theorem sAct_trap (h : slotOp w = 0x0E) : s.sAct k p t pc w = (t, some 10) := by simp only [State.sAct, h]

end SAct
end Sys2Proof.Machine
end

section
/-! The proof of TileBundles: the bundle that issues (R129 to R133, R203), and the bundle that is held or raises at issue (R143, R145). -/

namespace Sys2Proof.Machine

/-! ### What the bundle's slots queue -/

/-- What slot `n` of a bundle adds to its engine's queue. -/
def slotEntries (x : Tile) (e : Engine) (w : W32) (pc : Nat) : List QEnt := if slotQueues w then [x.entry e w pc] else []

theorem enqueue_eq (x : Tile) (e : Engine) (w : W32) (pc : Nat) :
    x.enqueue e w pc = x.setQueued e (x.queued e ++ slotEntries x e w pc) := by
  unfold Tile.enqueue slotEntries
  split
  · rfl
  · rw [List.append_nil]
    cases e <;> rfl

/-- The S slot of the bundle at the pc. -/
def Tile.sSlot (x : Tile) : W32 := bundleSlot (sget 0 x.bundles x.pc) 0

/-- FWAIT has taken its token before (R139); every other S slot takes it as its bundle issues. -/
theorem take_sSlot (x : Tile) :
    (if slotOp x.sSlot = 0x0A then x else x.take (slotTake x.sSlot)) = { x with tok := (issuedTile x).tok } := by
  show _ = { x with
    tok := if slotTake x.sSlot = 0 ∨ slotOp x.sSlot = 0x0A then x.tok else sput 0 x.tok (slotTake x.sSlot) (sget 0 x.tok (slotTake x.sSlot) - 1) }
  unfold Tile.take
  by_cases h : slotOp x.sSlot = 0x0A <;> by_cases h0 : slotTake x.sSlot = 0 <;> simp [h, h0]

/-! ### The bundle that issues -/

section Issue
variable {s : State} {k p : Nat}

/-- What the S slot of tile `k` does as its bundle issues. -/
def State.sEffect (s : State) (k p : Nat) : Tile × Option Nat := s.sAct k p (issuedTile (s.tile k)) (s.tile k).pc (s.tile k).sSlot

/-- The bundle of tile `k` issues. -/
def State.issued (s : State) (k p : Nat) : State := s.issueNow k p (sget 0 (s.tile k).bundles (s.tile k).pc)

theorem State.issued_eq (s : State) (k p : Nat) :
    s.issued k p =
      match (s.sEffect k p).2 with
      | some cause => (s.setTile k (s.sEffect k p).1).tileExc k (s.tile k).issued (s.tile k).pc 0 cause
      | none =>
        (if slotOp (s.tile k).sSlot = 0x0C then (s.setTile k (s.sEffect k p).1).phaseAsk k p (bits (slotLow (s.tile k).sSlot) 13 0)
         else s.setTile k (s.sEffect k p).1).tilePost k (slotPost (s.tile k).sSlot) (s.tile k).issued (s.tile k).pc 0 := by
  have htake := take_sSlot (s.tile k)
  unfold Tile.sSlot at htake
  unfold State.issued State.issueNow
  dsimp only
  rw [htake, enqueue_eq, enqueue_eq, enqueue_eq]
  rfl

/-- A fault of the S slot is raised at the tile as the bundle leaves it. -/
theorem issued_raises {y : Tile} {c : Nat} (h : s.sEffect k p = (y, some c)) :
    ∃ v, TileOnly s v k y ∧ TileRaised v (s.issued k p) k (s.tile k).issued (s.tile k).pc 0 c := by
  rw [State.issued_eq, h]
  exact ⟨_, tileOnly_setTile s k y, tileRaised_tileExc _ _ _ _ _ _⟩

/-- Without a fault the S slot posts; only SAFEPT asks for a power phase. -/
theorem issued_posts {z : Tile} (hC : slotOp (s.tile k).sSlot ≠ 0x0C) (h : s.sEffect k p = (z, none)) :
    PostsThen s (s.issued k p) k z (slotPost (s.tile k).sSlot) (s.tile k).issued (s.tile k).pc 0 := by
  rw [State.issued_eq, h]
  dsimp only
  rw [if_neg hC]
  exact postsThen_tilePost _ _ _ _ _ _ _

end Issue

/-! ### The fetch of a bundle -/

/-- Tile `k` of partition `p` runs, and nothing holds back the fetch of the bundle at its pc. -/
structure Fetches (s : State) (k p : Nat) : Prop where
  part : s.tilePart? k = some p
  runs : s.tileRuns k = true
  going : (s.tile k).stopped = false
  sound : (s.tile k).excPend = none
  moving : (s.tile k).atSafe = false
  window : s.winBusy p false = false

section Fetch
variable {s : State} {k p : Nat} (hf : Fetches s k p)
include hf

theorem bundleIssue_row : exec (.bundleIssue k) s = .next (s.bundleIssue k p) := by
  show execBundleIssue k s = _
  unfold execBundleIssue
  rw [hf.part, hf.runs]
  rfl

theorem fetches_unheld : ((s.tile k).stopped || (s.tile k).excPend.isSome || (s.tile k).atSafe || s.winBusy p false) = false := by
  rw [hf.going, hf.sound, hf.moving, hf.window]
  rfl

theorem bundleIssue_pastEnd (hc : s.imageCount p ≤ (s.tile k).pc) :
    exec (.bundleIssue k) s = .next (s.tileExc k (s.tile k).issued (s.tile k).pc 0 9) := by
  rw [bundleIssue_row hf]
  unfold State.bundleIssue
  dsimp only
  rw [fetches_unheld hf, if_neg (by decide), if_pos hc]

theorem bundleIssue_illegal (hc : (s.tile k).pc < s.imageCount p) {n : Nat} {more : List Nat}
    (hs : (below 4).filter (slotIllegal (sget 0 (s.tile k).bundles (s.tile k).pc)) = n :: more) :
    exec (.bundleIssue k) s =
      .next (if more.isEmpty then s.tileExc k (s.tile k).issued (s.tile k).pc n 1
        else (s.tileExc k (s.tile k).issued (s.tile k).pc n 1).modTile k fun t => { t with excMore := true }) := by
  rw [bundleIssue_row hf]
  unfold State.bundleIssue
  dsimp only
  rw [fetches_unheld hf, if_neg (by decide), if_neg (by omega), hs]

/-- A legal bundle, not of FWAIT, issues as soon as its queues have room and its token is there. -/
theorem bundleIssue_legal (hc : (s.tile k).pc < s.imageCount p)
    (hl : ∀ n, n < 4 → slotIllegal (sget 0 (s.tile k).bundles (s.tile k).pc) n = false) (hA : slotOp (s.tile k).sSlot ≠ 0x0A) :
    exec (.bundleIssue k) s =
      let b := sget 0 (s.tile k).bundles (s.tile k).pc
      .next (if (s.tile k).roomFor .m (bundleSlot b 1) && (s.tile k).roomFor .v (bundleSlot b 2) && (s.tile k).roomFor .x (bundleSlot b 3)
          && (s.tile k).canTake (slotTake (bundleSlot b 0)) then s.issued k p else s) := by
  have hs : (below 4).filter (slotIllegal (sget 0 (s.tile k).bundles (s.tile k).pc)) = [] :=
    List.filter_eq_nil_iff.2 fun n hn => by rw [hl n ((mem_below 4 n).1 hn)]; decide
  rw [bundleIssue_row hf]
  unfold State.bundleIssue
  dsimp only
  rw [fetches_unheld hf, if_neg (by decide), if_neg (by omega), hs]
  dsimp only
  exact congrArg Host.Outcome.next (if_neg hA)

end Fetch

theorem mayIssue_fetches {s : State} {k p : Nat} (h : MayIssue s k p) : Fetches s k p := by
  obtain ⟨hp, hr, hst, he, hs, hw, -⟩ := h
  exact ⟨hp, hr, hst, he, hs, hw⟩

theorem bundleIssue_issues {s : State} {k p : Nat} (h : MayIssue s k p) (hA : slotOp (s.tile k).sSlot ≠ 0x0A) :
    exec (.bundleIssue k) s = .next (s.issued k p) := by
  have hf := mayIssue_fetches h
  obtain ⟨-, -, -, -, -, -, hc, hl, hm, hv, hx, ht⟩ := h
  rw [bundleIssue_legal hf hc hl hA]
  dsimp only
  rw [hm, hv, hx, ht]
  rfl

/-! ### Reserved codes -/

/-- The numbers of a range that satisfy a test, from the lowest one up. -/
theorem filter_upFrom_cons {f : Nat → Bool} {a len n : Nat} (ha : a ≤ n) (hn : n < a + len) (hf : f n = true)
    (hmin : ∀ m, m < n → f m = false) : (upFrom a len).filter f = n :: (upFrom (n + 1) (a + len - n - 1)).filter f := by
  induction len generalizing a with
  | zero => omega
  | succ len ih =>
    rw [upFrom]
    rcases Nat.eq_or_lt_of_le ha with rfl | hlt
    · rw [List.filter_cons_of_pos hf, show a + (len + 1) - a - 1 = len by omega]
    · rw [List.filter_cons_of_neg (by rw [hmin a hlt]; decide), ih hlt (by omega), show a + 1 + len = a + (len + 1) by omega]

/-- With several reserved codes in a bundle, `excMore` tells so (R145). -/
theorem bundleIssue_reserved {s : State} {k p n : Nat} (hf : Fetches s k p) (hc : (s.tile k).pc < s.imageCount p) (hn : n < 4)
    (hi : slotIllegal (sget 0 (s.tile k).bundles (s.tile k).pc) n = true)
    (hmin : ∀ m, m < n → slotIllegal (sget 0 (s.tile k).bundles (s.tile k).pc) m = false) :
    ∃ u v, exec (.bundleIssue k) s = .next u ∧ TileRaised s v k (s.tile k).issued (s.tile k).pc n 1 ∧
      TileOnly v u k { v.tile k with excMore := (u.tile k).excMore } ∧
      ((u.tile k).excMore = true ↔
        (s.tile k).excMore = true ∨ ∃ m, n < m ∧ m < 4 ∧ slotIllegal (sget 0 (s.tile k).bundles (s.tile k).pc) m = true) := by
  have hraised := tileRaised_tileExc s k (s.tile k).issued (s.tile k).pc n 1
  refine ⟨_, _, bundleIssue_illegal hf hc (filter_upFrom_cons (Nat.zero_le n) (by omega) hi hmin), hraised, ?_⟩
  generalize s.tileExc k (s.tile k).issued (s.tile k).pc n 1 = v at hraised ⊢
  obtain ⟨hv, -⟩ := hraised
  have hmore : (v.tile k).excMore = (s.tile k).excMore := by rw [hv, hf.sound]; exact Bool.or_false _
  split
  · next h =>
    refine ⟨⟨rfl, fun _ _ => rfl, rfl⟩, ?_⟩
    rw [hmore]
    refine (or_iff_left ?_).symm
    rintro ⟨m, hnm, hm4, hm⟩
    exact List.filter_eq_nil_iff.1 (List.isEmpty_iff.1 h) m ((mem_upFrom _ _ _).2 (by omega)) hm
  · next h =>
    obtain ⟨m, hm⟩ := List.exists_mem_of_ne_nil _ fun h' => h (List.isEmpty_iff.2 h')
    obtain ⟨hm, hmi⟩ := List.mem_filter.1 hm
    have hr := (mem_upFrom _ _ _).1 hm
    rw [State.tile_modTile]
    refine ⟨tileOnly_setTile _ _ _, iff_of_true rfl (Or.inr ⟨m, by omega, by omega, hmi⟩)⟩

theorem tileBundleHeld : Claims.TileBundleHeld := by
  intro s k p hp hr x b hst he hs hw
  have hf : Fetches s k p := ⟨hp, hr, hst, he, hs, hw⟩
  refine ⟨fun hc => ?pastEnd, fun n hc hn hi hmin => bundleIssue_reserved hf hc hn hi hmin, fun hc hl hA hroom => ?waits⟩
  case pastEnd => exact ⟨_, bundleIssue_pastEnd hf hc, tileRaised_tileExc _ _ _ _ _ _⟩
  case waits =>
    rw [bundleIssue_legal hf hc hl hA]
    dsimp only
    rw [hroom]
    rfl

/-! ### The S slots -/

theorem getElem_leBytes (n v i : Nat) (h : i < (leBytes n v).length) : (leBytes n v)[i] = BitVec.ofNat 8 (v / 2 ^ (8 * i)) := by
  induction n generalizing v i with
  | zero => exact absurd h (Nat.not_lt_zero i)
  | succ n ih =>
    cases i with
    | zero => simp [leBytes]
    | succ i =>
      simp only [leBytes, List.getElem_cons_succ]
      rw [ih, Nat.div_div_eq_div_mul, show 8 * (i + 1) = 8 + 8 * i by omega, pow_add]
      rfl

/-- A stored number lies in its bytes, and every other byte is as before. -/
theorem mget_mstore (m : Mem) (a n v j : Nat) :
    mget (mstore m a n v) j = if a ≤ j ∧ j < a + n then BitVec.ofNat 8 (v / 2 ^ (8 * (j - a))) else mget m j := by
  have hlen := length_leBytes n v
  split
  · next h =>
    have hin := mget_mwrite_in (leBytes n v) m a (j - a) (by omega)
    rw [Nat.add_sub_cancel' h.1] at hin
    exact hin.trans (getElem_leBytes _ _ _ _)
  · next h => exact mget_mwrite_out _ _ _ _ (by omega)

theorem tileBundleIssue : Claims.TileBundleIssue := by
  intro s k p hm x w o rd rs rt ad y posts hA hC
  have hpost {z : Tile} (h : s.sEffect k p = (z, none)) : posts (s.issued k p) z := issued_posts hC h
  have hraise {c : Nat} (h : s.sEffect k p = (y, some c)) :
      ∃ v, TileOnly s v k y ∧ TileRaised v (s.issued k p) k x.issued x.pc 0 c := issued_raises h
  refine ⟨_, bundleIssue_issues hm hA, fun h => hpost (sAct_nop h), fun r hr hop hok => hpost (sAct_scalar hr hop hok), ?outside, ?misaligned,
    ?load, ?store, fun r hr hop => ?branch, fun h => hpost (sAct_jump h), ?die, ?furrow, fun h => hpost (sAct_halt h), fun h => hraise (sAct_trap h)⟩
  case outside =>
    intro h hlt
    exact hraise (sAct_fault h (if_pos hlt))
  case misaligned =>
    intro h hle hne
    exact hraise (sAct_fault h ((if_neg (Nat.not_lt.2 hle)).trans (if_pos hne)))
  case load =>
    intro h hle heq
    exact hpost (sAct_load h ((if_neg (Nat.not_lt.2 hle)).trans (if_neg (not_not.2 heq))))
  case store =>
    intro h hle heq
    exact ⟨_, hpost (sAct_store h ((if_neg (Nat.not_lt.2 hle)).trans (if_neg (not_not.2 heq)))), rfl, fun a => mget_mstore _ _ _ _ _⟩
  case branch => exact hpost (sAct_branch hr hop)
  case die =>
    intro h hsel
    exact hpost ((sAct_sys h).trans (by rw [hsel, sysRead_die]))
  case furrow =>
    intro h hsel
    exact hpost ((sAct_sys h).trans (by rw [hsel, sysRead_furrow]))

/-- Settles O23, from the bundle that issues and the bundle that is held. -/
theorem tileBundles : Obligations.TileBundles := ⟨tileBundleIssue, tileBundleHeld⟩

end Sys2Proof.Machine
end

section
/-! SUPPORT. Ranges of numbers, folds that write one cell after the other, cleared ranges of sparse data, and the bytes of reads, writes and
numbers. -/

namespace Sys2Proof.Machine

/-! ### Ranges and folds -/

theorem upFrom_eq_range' (a n : Nat) : upFrom a n = List.range' a n := by
  induction n generalizing a with
  | zero => rfl
  | succ n ih => rw [upFrom, ih, List.range'_succ]

theorem below_eq_range (n : Nat) : below n = List.range n := by rw [below, upFrom_eq_range', List.range_eq_range']

theorem below_succ (n : Nat) : below (n + 1) = below n ++ [n] := by simp only [below_eq_range, List.range_succ]

/-- A fold over the numbers below `n + 1` ends with `n`. -/
theorem foldl_below_succ {β : Type} (f : β → Nat → β) (b : β) (n : Nat) :
    (below (n + 1)).foldl f b = f ((below n).foldl f b) n := by rw [below_succ, List.foldl_concat]

/-- A fold over rows of 64 columns is a fold over cells. -/
theorem foldl_grid {β : Type} (f : β → Nat → Nat → β) (b : β) (rows : Nat) :
    (below rows).foldl (fun b r => (below 64).foldl (fun b n => f b r n) b) b =
      (below (64 * rows)).foldl (fun b i => f b (i / 64) (i % 64)) b := by
  have hrow (b : β) (r n : Nat) (hn : n ≤ 64) :
      (below (64 * r + n)).foldl (fun b i => f b (i / 64) (i % 64)) b =
        (below n).foldl (fun b n => f b r n) ((below (64 * r)).foldl (fun b i => f b (i / 64) (i % 64)) b) := by
    induction n with
    | zero => rfl
    | succ n ih =>
      rw [← Nat.add_assoc, foldl_below_succ, foldl_below_succ, ih (by omega), show (64 * r + n) / 64 = r by omega,
        show (64 * r + n) % 64 = n by omega]
  induction rows with
  | zero => rfl
  | succ r ih => rw [foldl_below_succ, ih, Nat.mul_succ, hrow b r 64 le_rfl]

/-- A fold over a list that counts as it goes, as a fold over the positions. -/
theorem foldl_counted {β γ : Type} (f : β → Nat → γ → β) (l : List γ) (b : β) (z : γ) :
    (l.foldl (fun (p : β × Nat) x => (f p.1 p.2 x, p.2 + 1)) (b, 0)) =
      ((below l.length).foldl (fun b i => f b i ((l[i]?).getD z)) b, l.length) := by
  induction l using List.reverseRecOn with
  | nil => rfl
  | append_singleton l x ih =>
    rw [List.foldl_concat, ih, List.length_append, List.length_singleton, foldl_below_succ]
    congr 1
    rw [List.getElem?_concat_length, Option.getD_some]
    congr 1
    refine List.foldl_ext _ _ _ fun b i hi => ?_
    rw [List.getElem?_append_left ((mem_below _ _).1 hi)]

section Cells
variable {β γ : Type} {step : β → Nat → β} {get : β → Nat → γ} {base : Nat} {val : Nat → γ → γ}
  (hstep : ∀ b i j, get (step b i) j = if j = base + i then val i (get b j) else get b j)
include hstep

/-- Steps that write one cell each, the `i`-th the cell `base + i`: what a cell holds after `n` of them. -/
theorem get_foldl_cells (n : Nat) (b : β) (j : Nat) :
    get ((below n).foldl step b) j = if base ≤ j ∧ j < base + n then val (j - base) (get b j) else get b j := by
  induction n with
  | zero => rw [if_neg (by omega)]; rfl
  | succ n ih =>
    rw [foldl_below_succ, hstep, ih]
    by_cases hj : j = base + n
    · rw [if_pos hj, if_neg (by omega), if_pos (by omega), hj, Nat.add_sub_cancel_left]
    · rw [if_neg hj]
      exact if_congr (by omega) rfl rfl

/-- A flag that such steps raise, each by what its cell held before. -/
theorem flag_foldl_cells {flag : β → Bool} {c : Nat → γ → Bool} (hflag : ∀ b i, flag (step b i) = (flag b || c i (get b (base + i))))
    (n : Nat) (b : β) :
    flag ((below n).foldl step b) = true ↔ flag b = true ∨ ∃ i, i < n ∧ c i (get b (base + i)) = true := by
  induction n with
  | zero => simp [below, upFrom]
  | succ n ih =>
    rw [foldl_below_succ, hflag, get_foldl_cells hstep, if_neg (by omega), Bool.or_eq_true, ih, or_assoc]
    simp only [Nat.lt_succ_iff_lt_or_eq, or_and_right, exists_or, exists_eq_left]

end Cells

/-! ### Cleared ranges and cleared bits -/

theorem sget_sclear {α : Type} (d : α) (m : SMap α) (lo n i : Nat) :
    sget d (sclear m lo n) i = if lo ≤ i ∧ i < lo + n then d else sget d m i := by
  unfold sclear
  induction m with
  | nil => simp
  | cons e m ih =>
    obtain ⟨k, v⟩ := e
    rw [List.filter_cons]
    by_cases hk : k < lo ∨ lo + n ≤ k
    · rw [if_pos (by simpa using hk), sget, sget, ih]
      by_cases hi : i = k
      · rw [if_pos hi, if_pos hi, if_neg (by omega)]
      · rw [if_neg hi, if_neg hi]
    · rw [if_neg (by simpa using hk), ih, sget]
      split
      · rfl
      · rw [if_neg (by omega)]

/-- A number less its bit `b`. -/
theorem testBit_sub_and_two_pow (x b i : Nat) : (x - (x &&& 2 ^ b)).testBit i = (x.testBit i && i != b) := by
  have h : x - (x &&& 2 ^ b) = setBits x b b 0 := by
    rw [setBits, bits_eq, Nat.zero_mod, Nat.zero_shiftLeft, Nat.add_zero, Nat.and_two_pow, Nat.shiftLeft_eq, Nat.add_sub_cancel_left,
      Nat.testBit_eq_decide_div_mod_eq]
    have := Nat.mod_lt (x / 2 ^ b) (show 0 < 2 by decide)
    rcases (by omega : x / 2 ^ b % 2 = 0 ∨ x / 2 ^ b % 2 = 1) with h | h <;> simp [h]
  rw [h, testBit_setBits]
  by_cases hi : i = b
  · simp [hi]
  · rw [if_neg (by omega)]
    simp [hi]

theorem getLsbD_sub_and_two_pow {w : Nat} (v : BitVec w) {b i : Nat} (hi : i < w) :
    (BitVec.ofNat w (v.toNat - (v.toNat &&& 2 ^ b))).getLsbD i = (v.getLsbD i && i != b) := by
  rw [BitVec.getLsbD_ofNat, decide_eq_true hi, Bool.true_and, testBit_sub_and_two_pow, BitVec.testBit_toNat]

/-! ### Bytes -/

theorem getElem_mread (m : Mem) (a n i : Nat) (h : i < (mread m a n).length) : (mread m a n)[i] = mget m (a + i) := by
  induction n generalizing a i with
  | zero => exact absurd h (Nat.not_lt_zero i)
  | succ n ih =>
    cases i with
    | zero => rfl
    | succ i => simp only [mread, List.getElem_cons_succ, ih, Nat.add_assoc, Nat.add_comm 1 i]

/-- A byte after a store: one of the stored ones, or as before. -/
theorem mget_mwrite (m : Mem) (a j : Nat) (bs : List Byte) :
    mget (mwrite m a bs) j = if a ≤ j ∧ j < a + bs.length then bs.getD (j - a) 0 else mget m j := by
  split
  · next h =>
    have hin := mget_mwrite_getD m a (j - a) bs (by omega)
    rwa [Nat.add_sub_cancel' h.1] at hin
  · next h => exact mget_mwrite_out _ _ _ _ (by omega)

/-- A byte after a copy. -/
theorem mget_mwrite_mread (m m' : Mem) (a b n j : Nat) :
    mget (mwrite m a (mread m' b n)) j = if a ≤ j ∧ j < a + n then mget m' (b + (j - a)) else mget m j := by
  rw [mget_mwrite, length_mread]
  split
  · next h => rw [List.getD_eq_getElem _ _ (by rw [length_mread]; omega), getElem_mread]
  · rfl

/-- A part of what was stored is read back. -/
theorem mread_mwrite (m : Mem) (a k n : Nat) (bs : List Byte) (h : k + n ≤ bs.length) :
    mread (mwrite m a bs) (a + k) n = (bs.drop k).take n := by
  refine List.ext_getElem (by simp; omega) fun i hi _ => ?_
  rw [length_mread] at hi
  rw [getElem_mread, Nat.add_assoc, mget_mwrite_in _ _ _ _ (by omega), List.getElem_take, List.getElem_drop]

/-- The bytes of a number. -/
theorem elemAt_leNat (bs : List Byte) (i : Nat) : elemAt 8 (leNat bs) i = (bs.getD i 0).toNat := by
  rw [elemAt, bits_eq, show 8 * i + 8 - 1 + 1 - 8 * i = 8 by omega]
  induction bs generalizing i with
  | nil => simp [leNat]
  | cons b bs ih =>
    have hb := b.isLt
    cases i with
    | zero => simp only [leNat, Nat.mul_zero, Nat.pow_zero, Nat.div_one, List.getD_cons_zero]; omega
    | succ i =>
      rw [List.getD_cons_succ, ← ih, leNat, show 8 * (i + 1) = 8 + 8 * i by omega, pow_add, ← Nat.div_div_eq_div_mul,
        show (b.toNat + 256 * leNat bs) / 2 ^ 8 = leNat bs by omega]

theorem elemAt_mval (m : Mem) (a n i : Nat) (h : i < n) : elemAt 8 (mval m a n) i = (mget m (a + i)).toNat := by
  rw [mval, elemAt_leNat, List.getD_eq_getElem _ _ (by rwa [length_mread]), getElem_mread]

/-- Pieces of one length put together: the `i`-th piece. -/
theorem take_drop_flatMap {α β : Type} (f : α → List β) {n : Nat} (hf : ∀ x, (f x).length = n) (l : List α) (i : Nat) (h : i < l.length) :
    ((l.flatMap f).drop (n * i)).take n = f l[i] := by
  induction l generalizing i with
  | nil => exact absurd h (Nat.not_lt_zero i)
  | cons x l ih =>
    rw [List.flatMap_cons]
    cases i with
    | zero => rw [Nat.mul_zero, List.drop_zero, List.take_left' (hf x)]; rfl
    | succ i => rw [Nat.mul_succ, Nat.add_comm, ← List.drop_drop, List.drop_left' (hf x)]; exact ih i _

end Sys2Proof.Machine
end

section
/-! SUPPORT. The start of an M instruction (R133, R145, R150): its operand fields, and what the head of the queue comes to. -/

namespace Sys2Proof.Machine

/-! ### Operand fields -/

theorem bits_same (x i : Nat) : bits x i i = x / 2 ^ i % 2 := by rw [bits_eq, Nat.add_sub_cancel_left, Nat.pow_one]

/-- Bits [5:0] of the scalar of a destination count as 0. -/
theorem sub_mod_64 (x : Nat) : x - x % 64 = x / 64 * 64 := by omega

theorem MDesc.rows_le (d : MDesc) {g : Option Geo} {op low : Nat} (h : d.ok g op low = true) : d.rows ≤ 128 := by
  unfold MDesc.ok at h
  dsimp only at h
  obtain ⟨hform, -⟩ := (Bool.and_eq_true _ _).mp h
  unfold MDesc.formOk at hform
  obtain ⟨-, hrows⟩ := (Bool.and_eq_true _ _).mp hform
  exact of_decide_eq_true hrows

/-! ### The start -/

theorem engStart_eq (s : State) (k : Nat) (h : QEnt) : s.engStart k .m h = s.setTile k (startedM (s.tile k) h) := by
  rw [State.engStart, State.modTile, startedM, Tile.take]
  split <;> rfl

section Starts
variable {s : State} {k op : Nat} {h : QEnt} {d : MDesc} (hs : MStarts s k op h d)
include hs

/-- An instruction that can start has at most 128 rows (R152). -/
theorem mStarts_rows_le : d.rows ≤ 128 := by
  obtain ⟨-, -, -, -, hok⟩ := hs
  exact d.rows_le hok

/-- The head of the queue starts and takes effect. -/
theorem mStart_ok {f : State → QEnt → MDesc → Effect} {u : State} (hf : f (s.setTile k (startedM (s.tile k) h)) h d = .ok u) :
    s.mStart k op f = u := by
  obtain ⟨hh, hop, rfl, hw, hok⟩ := hs
  rw [State.mStart, hh]
  dsimp only
  rw [if_neg (by simp [hop, hw]), hok, engStart_eq, hf]
  rfl

/-- The head of the queue faults at its start: its token is taken and the exception raised. -/
theorem mStart_error {f : State → QEnt → MDesc → Effect} {cause : Nat}
    (hf : f (s.setTile k (startedM (s.tile k) h)) h d = .error cause) :
    ∃ v, TileOnly s v k { s.tile k with tok := (startedM (s.tile k) h).tok } ∧
      TileRaised v (s.mStart k op f) k h.ord h.bundle 1 cause := by
  obtain ⟨hh, hop, rfl, hw, hok⟩ := hs
  rw [State.mStart, hh]
  dsimp only
  rw [if_neg (by simp [hop, hw]), hok, engStart_eq, hf]
  refine ⟨_, ?_, tileRaised_tileExc _ k h.ord h.bundle 1 cause⟩
  have htake : (s.tile k).take (slotTake h.word) = { s.tile k with tok := (startedM (s.tile k) h).tok } := by
    unfold Tile.take startedM
    dsimp only
    split <;> rfl
  rw [State.modTile, htake]
  exact tileOnly_setTile _ _ _

end Starts

/-- A tile written at a start and again by the effect holds what the effect wrote. -/
theorem tileOnly_setTile_setTile (s : State) (k : Nat) (x y : Tile) : TileOnly s ((s.setTile k x).setTile k y) k y :=
  tileOnly_trans (tileOnly_setTile s k x) (tileOnly_setTile _ k y)

end Sys2Proof.Machine
end

section
/-! The proof of TileBayLoad: a bay bank is loaded (R159, R209). -/

namespace Sys2Proof.Machine

/-- The M engine after the load of bay bank `b` from the tile store. -/
def Mx.loadBay (m : Mx) (store : Mem) (d : MDesc) (b : Nat) : Mx :=
  { m with
    bay := mwrite m.bay (16384 * b) (mread store d.wtAddr d.loadBytes)
    bayValid := BitVec.ofNat 2 (m.bayValid.toNat - (m.bayValid.toNat &&& 2 ^ b)) }

theorem bayld_row {s : State} {k : Nat} {h : QEnt} {d : MDesc} (hs : MStarts s k 1 h d) :
    ∃ u, exec (.bayld k) s = .next u ∧
      TileOnly s u k
        { startedM (s.tile k) h with mx := (s.tile k).mx.loadBay (s.tile k).store d (slotLow h.word / 8 % 2) } := by
  refine ⟨_, congrArg Host.Outcome.next (mStart_ok hs rfl), ?_⟩
  rw [State.modTile, State.tile_setTile, bits_same]
  exact tileOnly_setTile_setTile _ _ _ _

/-- Settles O26, from the tile that a BAYLD leaves. -/
theorem tileBayLoad : Obligations.TileBayLoad := by
  intro s k h d hs x b n
  obtain ⟨u, hu, htile⟩ := bayld_row hs
  obtain ⟨hk, -⟩ := id htile
  refine ⟨u, hu, ?_, fun a => ?_, fun i hi => ?_⟩
  · rw [hk]
    exact htile
  · rw [hk]
    exact mget_mwrite_mread _ _ _ _ _ _
  · rw [hk]
    exact getLsbD_sub_and_two_pow _ hi

end Sys2Proof.Machine
end

section
/-! SUPPORT. Accumulator banks: what clearing a bank and the products of an instruction leave in it (R154, R157, R161). -/

namespace Sys2Proof.Machine

/-! ### A cleared bank -/

theorem sget_clearBank (m : Mx) (b key : Nat) :
    sget 0 (m.clearBank b).acc key = if key / 8192 = b then 0 else sget 0 m.acc key :=
  (sget_sclear _ _ _ _ _).trans (if_congr (by omega) rfl rfl)

theorem bankEmptied_clearBank (m : Mx) (b : Nat) : BankEmptied m (m.clearBank b) b :=
  ⟨sget_clearBank m b, fun _ hi => getLsbD_sub_and_two_pow _ hi, rfl⟩

/-! ### Cells of a bank -/

/-- One cell of a bank takes a value and notes what came of it. -/
def Mx.enterCell (m : Mx) (key : Nat) (isF : Bool) (v : Nat × Bool) : Mx :=
  { m with
    acc := sput 0 m.acc key (BitVec.ofNat 32 v.1), accSat := m.accSat || v.2, accNonfinite := m.accNonfinite || (isF && nonfinite v.1) }

/-- A bank entered cell after cell, cleared first unless it accumulates: `c` gives a cell's value from its number and what it held. -/
def Mx.enterCells (m : Mx) (bank rows : Nat) (acc isF : Bool) (c : Nat → W32 → Nat × Bool) : Mx :=
  (below (64 * rows)).foldl (fun m i => m.enterCell (bank * 8192 + i) isF (c i (sget 0 m.acc (bank * 8192 + i))))
    (if acc then m else m.clearBank bank)

section EnterCells
variable (m : Mx) (bank rows : Nat) (acc isF : Bool) (c : Nat → W32 → Nat × Bool)

/-- What a bank holds as its rows enter. -/
def Mx.before (key : Nat) : W32 := if acc then sget 0 m.acc key else 0

theorem sget_bankStart (key : Nat) :
    sget 0 (if acc then m else m.clearBank bank).acc key = if key / 8192 = bank then m.before acc key else sget 0 m.acc key := by
  cases acc with
  | true => exact (ite_self _).symm
  | false => exact sget_clearBank m bank key

theorem sget_enterCell (b : Mx) (i j : Nat) :
    sget 0 (b.enterCell (bank * 8192 + i) isF (c i (sget 0 b.acc (bank * 8192 + i)))).acc j =
      if j = bank * 8192 + i then (fun i v => BitVec.ofNat 32 (c i v).1) i (sget 0 b.acc j) else sget 0 b.acc j := by
  rw [Mx.enterCell, sget_sput]
  split
  · next h => rw [h]
  · rfl

theorem sget_enterCells (key : Nat) (hr : rows ≤ 128) :
    sget 0 (m.enterCells bank rows acc isF c).acc key =
      if key / 8192 = bank then
        if key % 8192 < 64 * rows then BitVec.ofNat 32 (c (key % 8192) (m.before acc key)).1 else m.before acc key
      else sget 0 m.acc key := by
  rw [Mx.enterCells, get_foldl_cells (get := fun b : Mx => sget 0 b.acc) (val := fun i v => BitVec.ofNat 32 (c i v).1) (sget_enterCell bank isF c)]
  simp only [sget_bankStart]
  by_cases hb : key / 8192 = bank
  · rw [if_pos hb, if_pos hb, show key - bank * 8192 = key % 8192 by omega]
    exact if_congr (by omega) rfl rfl
  · rw [if_neg hb, if_neg hb, if_neg (by omega)]

theorem accSat_enterCells (hr : rows ≤ 128) :
    (m.enterCells bank rows acc isF c).accSat = true ↔
      m.accSat = true ∨ ∃ i, i < 64 * rows ∧ (c i (m.before acc (bank * 8192 + i))).2 = true := by
  have hstart : (if acc then m else m.clearBank bank).accSat = m.accSat := by cases acc <;> rfl
  rw [Mx.enterCells, flag_foldl_cells (get := fun b : Mx => sget 0 b.acc) (val := fun i v => BitVec.ofNat 32 (c i v).1)
    (sget_enterCell bank isF c) (flag := Mx.accSat) (c := fun i v => (c i v).2) (fun _ _ => rfl), hstart]
  refine or_congr_right (exists_congr fun i => and_congr_right fun hi => ?_)
  rw [sget_bankStart, if_pos (by omega)]

theorem accNonfinite_enterCells (hr : rows ≤ 128) :
    (m.enterCells bank rows acc isF c).accNonfinite = true ↔
      m.accNonfinite = true ∨ ∃ i, i < 64 * rows ∧ (isF && nonfinite (c i (m.before acc (bank * 8192 + i))).1) = true := by
  have hstart : (if acc then m else m.clearBank bank).accNonfinite = m.accNonfinite := by cases acc <;> rfl
  rw [Mx.enterCells, flag_foldl_cells (get := fun b : Mx => sget 0 b.acc) (val := fun i v => BitVec.ofNat 32 (c i v).1)
    (sget_enterCell bank isF c) (flag := Mx.accNonfinite) (c := fun i v => isF && nonfinite (c i v).1) (fun _ _ => rfl), hstart]
  refine or_congr_right (exists_congr fun i => and_congr_right fun hi => ?_)
  rw [sget_bankStart, if_pos (by omega)]

/-- The cells write the bank, its two flags and, cleared first, its live bit. -/
theorem enterCells_frame :
    m.enterCells bank rows acc isF c =
      { m with
        acc := (m.enterCells bank rows acc isF c).acc, accSat := (m.enterCells bank rows acc isF c).accSat
        accNonfinite := (m.enterCells bank rows acc isF c).accNonfinite, accLive := (m.enterCells bank rows acc isF c).accLive } ∧
      (m.enterCells bank rows acc isF c).accLive = (if acc then m else m.clearBank bank).accLive := by
  unfold Mx.enterCells
  induction 64 * rows with
  | zero => cases acc <;> exact ⟨rfl, rfl⟩
  | succ n ih =>
    rw [foldl_below_succ]
    generalize (below n).foldl _ _ = b at ih
    obtain ⟨hb, hlive⟩ := ih
    rw [Mx.enterCell]
    exact ⟨by rw [hb], hlive⟩

end EnterCells

/-- The cells of whole rows, numbered by row and column. -/
theorem exists_cell {rows : Nat} {p : Nat → Prop} :
    (∃ i, i < 64 * rows ∧ p i) ↔ ∃ r n, r < rows ∧ n < 64 ∧ p (r * 64 + n) := by
  constructor
  · rintro ⟨i, hi, hp⟩
    exact ⟨i / 64, i % 64, by omega, by omega, by rwa [Nat.div_add_mod']⟩
  · rintro ⟨r, n, hr, hn, hp⟩
    exact ⟨r * 64 + n, by omega, hp⟩

theorem nonfinite_iff (x : Nat) : nonfinite x = true ↔ x / 2 ^ 23 % 256 = 255 := by
  rw [nonfinite, bits_eq, beq_iff_eq]
  rfl

/-- A bank after its cells were entered, by row and column. -/
theorem bankEntered_enterCells (m : Mx) {bank rows : Nat} (acc isF : Bool) {c : Nat → W32 → Nat × Bool} {val : Nat → Nat → Nat × Bool}
    (hr : rows ≤ 128)
    (hval : ∀ r n, r < rows → n < 64 → c (r * 64 + n) (m.before acc (bank * 8192 + (r * 64 + n))) = val r n) :
    BankEntered m (m.enterCells bank rows acc isF c) bank rows acc isF val := by
  obtain ⟨hframe, hlive⟩ := enterCells_frame m bank rows acc isF c
  refine ⟨fun r n hr' hn => ?_, fun key hk => ?_, ?_, ?_, fun b hb => ?_, hframe⟩
  · rw [sget_enterCells _ _ _ _ _ _ _ hr, if_pos (by omega), show (bank * 8192 + r * 64 + n) % 8192 = r * 64 + n by omega, Nat.add_assoc]
    by_cases h : r < rows
    · rw [if_pos (by omega), if_pos h, hval r n h hn]
    · rw [if_neg (by omega), if_neg h]
      rfl
  · rw [sget_enterCells _ _ _ _ _ _ _ hr, if_neg hk]
  · rw [accSat_enterCells _ _ _ _ _ _ hr, exists_cell]
    refine or_congr_right (exists₂_congr fun r n => and_congr_right fun h => and_congr_right fun hn => ?_)
    rw [hval r n h hn]
  · rw [accNonfinite_enterCells _ _ _ _ _ _ hr, exists_cell]
    simp only [Bool.and_eq_true, nonfinite_iff]
    refine or_congr_right ⟨?_, ?_⟩
    · rintro ⟨r, n, h, hn, hF, hv⟩
      exact ⟨hF, r, n, h, hn, by rwa [← hval r n h hn]⟩
    · rintro ⟨hF, r, n, h, hn, hv⟩
      exact ⟨r, n, h, hn, hF, by rwa [hval r n h hn]⟩
  · rw [hlive]
    cases acc with
    | true => exact (Bool.and_true _).symm
    | false => exact getLsbD_sub_and_two_pow _ hb

/-! ### Products -/

/-- The rows against a bay bank, as cells. -/
theorem multiply_eq_enterCells (m : Mx) (d : MDesc) (trans acc : Bool) (bank : Nat) (rows : List MRow) :
    m.multiply d trans acc bank rows =
      m.enterCells d.bank rows.length acc (d.group != 0 || (mxFloat d.act).isSome) fun i old =>
        columnSum d trans (mval m.bay (16384 * bank) (fmtBlock d.wt)) (mval m.bay (16384 * bank + fmtBlock d.wt) 256)
          ((rows[i / 64]?).getD ⟨none, []⟩) (if acc then some old.toNat else none) (i % 64) := by
  unfold Mx.multiply Mx.enterCells
  dsimp only
  rw [foldl_counted (fun (b : Mx) r row => b.addRow d trans acc _ _ r row) rows _ ⟨none, []⟩]
  unfold Mx.addRow
  rw [foldl_grid]
  simp only [Nat.add_assoc, Nat.div_add_mod']
  rfl

/-- What the products of an instruction leave in its bank; `row` names its rows. -/
theorem bankEntered_multiply (m : Mx) (d : MDesc) (trans acc : Bool) (bank : Nat) {rows : List MRow} {row : Nat → MRow}
    (hr : rows.length ≤ 128) (hrow : ∀ r, r < rows.length → (rows[r]?).getD ⟨none, []⟩ = row r) :
    BankEntered m (m.multiply d trans acc bank rows) d.bank rows.length acc (d.group != 0 || (mxFloat d.act).isSome) fun r n =>
      columnSum d trans (mval m.bay (16384 * bank) (fmtBlock d.wt)) (mval m.bay (16384 * bank + fmtBlock d.wt) 256) (row r)
        (if acc then some (sget 0 m.acc (d.bank * 8192 + r * 64 + n)).toNat else none) n := by
  rw [multiply_eq_enterCells]
  refine bankEntered_enterCells m acc _ hr fun r n hr' hn => ?_
  rw [show (r * 64 + n) / 64 = r by omega, show (r * 64 + n) % 64 = n by omega, ← Nat.add_assoc, hrow r hr']
  cases acc <;> rfl

end Sys2Proof.Machine
end

section
/-! SUPPORT. Result rows in their destination (R161 to R163). -/

namespace Sys2Proof.Machine

/-! ### Runs of bytes written one after the other -/

section Runs
variable (start : Nat → Nat) (bs : Nat → List Byte) (m : Mem)

/-- Runs of bytes stored in their order. -/
def mwriteRuns (rows : Nat) : Mem := (below rows).foldl (fun m r => mwrite m (start r) (bs r)) m

theorem mwriteRuns_succ (rows : Nat) : mwriteRuns start bs m (rows + 1) = mwrite (mwriteRuns start bs m rows) (start rows) (bs rows) :=
  foldl_below_succ _ _ _

theorem mget_mwriteRuns_out {rows a : Nat} (h : ∀ r, r < rows → a < start r ∨ start r + (bs r).length ≤ a) :
    mget (mwriteRuns start bs m rows) a = mget m a := by
  induction rows with
  | zero => rfl
  | succ n ih => rw [mwriteRuns_succ, mget_mwrite_out _ _ _ _ (h n (by omega)), ih fun r hr => h r (by omega)]

/-- A byte of a run that no later run covers. -/
theorem mget_mwriteRuns_in {rows r i : Nat} (hr : r < rows) (hi : i < (bs r).length)
    (h : ∀ e, r < e → e < rows → start r + i < start e ∨ start e + (bs e).length ≤ start r + i) :
    mget (mwriteRuns start bs m rows) (start r + i) = (bs r).getD i 0 := by
  induction rows with
  | zero => exact absurd hr (Nat.not_lt_zero r)
  | succ n ih =>
    rw [mwriteRuns_succ]
    rcases Nat.lt_succ_iff_lt_or_eq.1 hr with hlt | rfl
    · rw [mget_mwrite_out _ _ _ _ (h n hlt (by omega)), ih hlt fun e h1 h2 => h e h1 (by omega)]
    · exact mget_mwrite_getD _ _ _ _ hi

end Runs

/-! ### Result rows -/

@[simp] theorem length_rowBytes (m : Mx) (b r : Nat) : (m.rowBytes b r).length = 256 := by
  simp [Mx.rowBytes, List.length_flatMap, below_eq_range]

theorem getD_rowBytes (m : Mx) (b r : Nat) {i : Nat} (hi : i < 256) :
    (m.rowBytes b r).getD i 0 = BitVec.ofNat 8 ((sget 0 m.acc (b * 8192 + r * 64 + i / 4)).toNat / 2 ^ (8 * (i % 4))) := by
  have hpiece := take_drop_flatMap (fun n => leBytes 4 (sget 0 m.acc (b * 8192 + r * 64 + n)).toNat) (fun _ => length_leBytes 4 _)
    (below 64) (i / 4) (by rw [below_eq_range, List.length_range]; omega)
  simp only [below_eq_range, List.getElem_range] at hpiece
  have hbyte : (m.rowBytes b r).getD i 0 = (((m.rowBytes b r).drop (4 * (i / 4))).take 4).getD (i % 4) 0 := by
    rw [List.getD_eq_getElem?_getD, List.getD_eq_getElem?_getD, List.getElem?_take_of_lt (by omega), List.getElem?_drop, Nat.div_add_mod]
  rw [hbyte, Mx.rowBytes, below_eq_range, hpiece, List.getD_eq_getElem _ _ (by rw [length_leBytes]; omega), getElem_leBytes]

/-- The rows of a bank in one of the two memories. -/
def MDesc.putMem (d : MDesc) (m : Mx) (y rows : Nat) (mem : Mem) : Mem := mwriteRuns (d.dstRow y) (m.rowBytes d.bank) mem rows

theorem putRows_eq (t : Tile) (d : MDesc) (y rows : Nat) :
    t.putRows d y rows =
      if d.toStore then { t with store := d.putMem t.mx y rows t.store } else { t with treg := d.putMem t.mx y rows t.treg } := by
  unfold Tile.putRows MDesc.putMem
  induction rows with
  | zero => exact (ite_self t).symm
  | succ n ih =>
    rw [foldl_below_succ, ih, mwriteRuns_succ, mwriteRuns_succ]
    by_cases hd : d.toStore = true
    · simp only [if_pos hd]
    · simp only [if_neg hd]

theorem putRows_mx (t : Tile) (d : MDesc) (y n : Nat) : (t.putRows d y n).mx = t.mx := by
  rw [putRows_eq]
  split <;> rfl

theorem mget_putMem_out (d : MDesc) (m : Mx) (mem : Mem) {y rows a : Nat}
    (h : ∀ r, r < rows → a < d.dstRow y r ∨ d.dstRow y r + 256 ≤ a) : mget (d.putMem m y rows mem) a = mget mem a :=
  mget_mwriteRuns_out _ _ _ fun r hr => by rw [length_rowBytes]; exact h r hr

theorem mget_putMem_in (d : MDesc) (m : Mx) (mem : Mem) {y rows r i : Nat} (hr : r < rows) (hi : i < 256)
    (h : ∀ e, r < e → e < rows → d.dstRow y r + i < d.dstRow y e ∨ d.dstRow y e + 256 ≤ d.dstRow y r + i) :
    mget (d.putMem m y rows mem) (d.dstRow y r + i) =
      BitVec.ofNat 8 ((sget 0 m.acc (d.bank * 8192 + r * 64 + i / 4)).toNat / 2 ^ (8 * (i % 4))) := by
  rw [MDesc.putMem, mget_mwriteRuns_in _ _ _ hr (by rwa [length_rowBytes]) fun e h1 h2 => by rw [length_rowBytes]; exact h e h1 h2,
    getD_rowBytes _ _ _ hi]

/-- The rows of a bank stand in their destination, each element as `val` gives it modulo 2^32. -/
theorem rowsWritten_putRows (t : Tile) (d : MDesc) (y rows : Nat) {val : Nat → Nat → Nat}
    (hval : ∀ r n, r < rows → n < 64 → sget 0 t.mx.acc (d.bank * 8192 + r * 64 + n) = BitVec.ofNat 32 (val r n)) :
    RowsWritten t (t.putRows d y rows) d y rows val := by
  have hin (mem : Mem) (r i : Nat) (hr : r < rows) (hi : i < 256)
      (h : ∀ e, r < e → e < rows → d.dstRow y r + i < d.dstRow y e ∨ d.dstRow y e + 256 ≤ d.dstRow y r + i) :
      mget (d.putMem t.mx y rows mem) (d.dstRow y r + i) = BitVec.ofNat 8 (val r (i / 4) % 2 ^ 32 / 2 ^ (8 * (i % 4))) := by
    rw [mget_putMem_in d _ _ hr hi h, hval r _ hr (by omega), BitVec.toNat_ofNat]
  rw [putRows_eq]
  unfold RowsWritten
  unfold MDesc.dstRow at hin
  cases hd : d.toStore with
  | true =>
    simp only [hd, if_true] at hin ⊢
    refine ⟨fun a ha => mget_putMem_out d _ _ fun r hr => ?_, hin _, trivial⟩
    rw [MDesc.dstRow, if_pos hd]
    exact ha r hr
  | false =>
    simp only [hd, Bool.false_eq_true, if_false] at hin ⊢
    refine ⟨fun a ha => mget_putMem_out d _ _ fun r hr => ?_, hin _, trivial⟩
    rw [MDesc.dstRow, hd]
    exact ha r hr

theorem rowsWritten_congr {x x' z z' : Tile} {d : MDesc} {y rows : Nat} {val : Nat → Nat → Nat} (h : RowsWritten x z d y rows val)
    (hs : x.store = x'.store) (ht : x.treg = x'.treg) (hs' : z.store = z'.store) (ht' : z.treg = z'.treg) :
    RowsWritten x' z' d y rows val := by
  unfold RowsWritten at h ⊢
  rwa [← hs, ← ht, ← hs', ← ht']

end Sys2Proof.Machine
end

section
/-! The proof of TileMatrixMultiply: the products of MMUL and MMULT (R150, R153, R154, R160 to R162), and one column of a product (R156,
R157). -/

namespace Sys2Proof.Machine

/-! ### The rows that enter -/

theorem length_mAddrs_le (s : State) (k : Nat) (d : MDesc) (x : Nat) : (s.mAddrs k d x).2.length ≤ d.rows := by
  unfold State.mAddrs
  split
  · split
    · simp [MDesc.slots]
    · exact Nat.zero_le _
  · split <;> simp [below_eq_range]

theorem length_mRows_le {s : State} {k x : Nat} {d : MDesc} {rows : List MRow} (h : s.mRows k d x = some rows) : rows.length ≤ d.rows := by
  unfold State.mRows at h
  dsimp only at h
  obtain ⟨-, hrows⟩ := Option.ite_none_left_eq_some.1 h
  rw [← Option.some.inj hrows, List.length_map, List.length_zipIdx]
  exact length_mAddrs_le s k d x

theorem balerBase_setTile (s : State) (k j : Nat) (z : Tile) : (s.setTile k z).balerBase j = s.balerBase j := rfl

theorem mAddrs_started (s : State) (k : Nat) (h : QEnt) (d : MDesc) (x : Nat) :
    (s.setTile k (startedM (s.tile k) h)).mAddrs k d x = s.mAddrs k d x := by
  have hb : (startedM (s.tile k) h).batch? = (s.tile k).batch? := rfl
  simp only [State.mAddrs, State.tile_setTile, balerBase_setTile, hb]

/-- The start of an instruction changes none of the rows that enter. -/
theorem mRows_started (s : State) (k : Nat) (h : QEnt) (d : MDesc) (x : Nat) :
    (s.setTile k (startedM (s.tile k) h)).mRows k d x = s.mRows k d x := by
  have ht : (startedM (s.tile k) h).treg = (s.tile k).treg := rfl
  have hs : (startedM (s.tile k) h).store = (s.tile k).store := rfl
  simp only [State.mRows, mAddrs_started, State.tile_setTile, ht, hs]

/-! ### Rows that come from the Baler -/

/-- The Baler and its rows in the tile store may have changed, and nothing else of a tile. -/
def BalerOnly (t t' : Tile) : Prop := t' = { t with bal := t'.bal, store := t'.store }

theorem BalerOnly.trans {t t' t'' : Tile} (h : BalerOnly t t') (h' : BalerOnly t' t'') : BalerOnly t t'' := by
  unfold BalerOnly at h h' ⊢
  rw [h', h]

theorem BalerOnly.mx_eq {t t' : Tile} (h : BalerOnly t t') : t'.mx = t.mx := by rw [h]

theorem balerOnly_consume (t : Tile) (d : MDesc) : BalerOnly t (t.consume d) := by
  unfold Tile.consume
  split <;> rfl

theorem balerOnly_balerPut (t : Tile) (base furrow : Nat) (row : BitVec 1024) (tag : W64) : BalerOnly t (t.balerPut base furrow row tag) := by
  unfold Tile.balerPut
  split <;> rfl

theorem balerOnly_balerRefill (fuel : Nat) (t : Tile) (base furrow : Nat) : BalerOnly t (Tile.balerRefill fuel t base furrow) := by
  induction fuel generalizing t with
  | zero => rfl
  | succ fuel ih =>
    unfold Tile.balerRefill
    split
    · rfl
    · next row tag more _ =>
      split
      · rfl
      · have hput := balerOnly_balerPut { t with bal := { t.bal with heldRows := more } } base furrow row tag
        exact BalerOnly.trans (BalerOnly.trans (t' := { t with bal := { t.bal with heldRows := more } }) rfl hput) (ih _)

/-- The slots of the rows that entered are free again, and held rows take them. -/
def Tile.rowsTaken (t : Tile) (d : MDesc) (base furrow : Nat) : Tile :=
  if d.baler then Tile.balerRefill (t.consume d).bal.heldRows.length (t.consume d) base furrow else t

theorem balerOnly_rowsTaken (t : Tile) (d : MDesc) (base furrow : Nat) : BalerOnly t (t.rowsTaken d base furrow) := by
  unfold Tile.rowsTaken
  split
  · exact (balerOnly_consume t d).trans (balerOnly_balerRefill _ _ _ _)
  · rfl

theorem rowsTaken_of_not_baler (t : Tile) {d : MDesc} (base furrow : Nat) (h : d.baler = false) : t.rowsTaken d base furrow = t :=
  if_neg (by rw [h]; decide)

/-! ### Posts -/

/-- A write of one tile leaves every other and the rest of the state. -/
theorem tileOnly_self {s u : State} {k : Nat} {x : Tile} (h : TileOnly s u k x) : TileOnly s u k (u.tile k) := by
  rw [h.1]
  exact h

theorem tileOnly_refl (s : State) (k : Nat) : TileOnly s s k (s.tile k) := ⟨rfl, fun _ _ => rfl, rfl⟩

theorem tileOnly_tilePost (s : State) (k tk ord bundle slot : Nat) :
    TileOnly s (s.tilePost k tk ord bundle slot) k ((s.tilePost k tk ord bundle slot).tile k) := by
  unfold State.tilePost
  split
  · exact tileOnly_refl s k
  · split
    · exact tileOnly_self (tileOnly_setTile s k _)
    · exact tileOnly_self (tileOnly_setTile s k _)

theorem tileOnly_tilePostN (n : Nat) (s : State) (k tk slot : Nat) (e : QEnt) :
    TileOnly s (tilePostN n s k tk slot e) k ((tilePostN n s k tk slot e).tile k) := by
  induction n generalizing s with
  | zero => exact tileOnly_refl s k
  | succ n ih => exact tileOnly_trans (tileOnly_tilePost s k tk e.ord e.bundle slot) (ih _)

theorem tileOnly_mFinish (s : State) (k : Nat) (h : QEnt) (d : MDesc) (y n : Nat) :
    TileOnly s (s.mFinish k h d y n) k ((s.mFinish k h d y n).tile k) := by
  unfold State.mFinish
  split
  · exact tileOnly_refl s k
  · unfold State.streamPosts
    dsimp only
    split
    · exact tileOnly_trans (tileOnly_setTile s k _) (tileOnly_tilePostN _ _ _ _ _ _)
    · exact tileOnly_self (tileOnly_setTile s k _)

/-! ### MMUL and MMULT -/

section Mul
variable {s : State} {k : Nat} {h : QEnt} {d : MDesc} {trans : Bool}

/-- The tile after the products of its rows, before any row is written. -/
def mulTile (s : State) (k : Nat) (h : QEnt) (d : MDesc) (trans : Bool) (rows : List MRow) : Tile :=
  { startedM (s.tile k) h with
    mx := (s.tile k).mx.multiply d trans ((slotLow h.word).testBit 1) (slotLow h.word / 8 % 2) rows }

theorem effMul_error (hr : s.mRows k d h.x.toNat = none) : effMul trans k (s.setTile k (startedM (s.tile k) h)) h d = .error 2 := by
  unfold effMul
  dsimp only
  rw [mRows_started, hr]

theorem effMul_ok {rows : List MRow} (hr : s.mRows k d h.x.toNat = some rows)
    (hfit : (slotLow h.word).testBit 0 = true ∨ d.dstFits (h.y.toNat / 64 * 64) rows.length = true) :
    effMul trans k (s.setTile k (startedM (s.tile k) h)) h d =
      .ok (((s.setTile k (startedM (s.tile k) h)).setTile k ((mulTile s k h d trans rows).rowsTaken d (s.balerBase k) s.furrow)).mFinish
        k h d (h.y.toNat / 64 * 64) rows.length) := by
  unfold effMul
  dsimp only
  rw [mRows_started, hr]
  dsimp only
  rw [sub_mod_64, bit_eq_testBit, bit_eq_testBit, bits_same, State.modTile, State.tile_setTile, if_neg (by rcases hfit with h | h <;> simp [h])]
  rfl

theorem mFinish_keep (u : State) (y n : Nat) (hk : (slotLow h.word).testBit 0 = true) : u.mFinish k h d y n = u := by
  rw [State.mFinish, bit_eq_testBit, if_pos hk]

theorem mFinish_write (u : State) (y n : Nat) (hk : (slotLow h.word).testBit 0 = false) (hst : d.stream = false) :
    u.mFinish k h d y n =
      u.setTile k { (u.tile k).putRows d y n with mx := ((u.tile k).putRows d y n).mx.clearBank d.bank } := by
  rw [State.mFinish, bit_eq_testBit, hk, if_neg (by decide)]
  dsimp only
  rw [State.streamPosts, hst]
  rfl

end Mul

theorem mul_row (s : State) (k : Nat) (trans : Bool) :
    exec (if trans then .mmult k else .mmul k) s = .next (s.mStart k (if trans then 3 else 2) (effMul trans k)) := by
  cases trans <;> rfl

/-- MMUL and MMULT take effect: the products, the rows taken from the Baler, and the end with keep or without. -/
theorem mul_next {s : State} {k : Nat} {h : QEnt} {d : MDesc} {trans : Bool} {rows : List MRow}
    (hs : MStarts s k (if trans then 3 else 2) h d) (hr : s.mRows k d h.x.toNat = some rows)
    (hfit : (slotLow h.word).testBit 0 = true ∨ d.dstFits (h.y.toNat / 64 * 64) rows.length = true) :
    exec (if trans then .mmult k else .mmul k) s =
      .next (((s.setTile k (startedM (s.tile k) h)).setTile k ((mulTile s k h d trans rows).rowsTaken d (s.balerBase k) s.furrow)).mFinish
        k h d (h.y.toNat / 64 * 64) rows.length) :=
  (mul_row s k trans).trans (congrArg Host.Outcome.next (mStart_ok hs (effMul_ok hr hfit)))

theorem bankEntered_mulTile {s : State} {k : Nat} {h : QEnt} {d : MDesc} {trans : Bool} {rows : List MRow} (hlen : rows.length ≤ 128) :
    BankEntered (s.tile k).mx (mulTile s k h d trans rows).mx d.bank rows.length ((slotLow h.word).testBit 1)
      (d.group != 0 || (mxFloat d.act).isSome) fun r n =>
        columnSum d trans (mval (s.tile k).mx.bay (16384 * (slotLow h.word / 8 % 2)) (fmtBlock d.wt))
          (mval (s.tile k).mx.bay (16384 * (slotLow h.word / 8 % 2) + fmtBlock d.wt) 256) ((rows[r]?).getD ⟨none, []⟩)
          (if (slotLow h.word).testBit 1 then some (sget 0 (s.tile k).mx.acc (d.bank * 8192 + r * 64 + n)).toNat else none) n :=
  bankEntered_multiply _ d trans _ _ hlen fun _ _ => rfl

theorem tileMatrixMultiply_products : Claims.TileMatrixMultiply := by
  intro s k h d trans hs x o keep acc y i
  refine ⟨fun hnone => ?outside, ?products⟩
  case outside =>
    obtain ⟨v, hv, hraise⟩ := mStart_error hs (effMul_error (trans := trans) hnone)
    exact ⟨_, v, mul_row s k trans, hv, hraise⟩
  case products =>
    intro rows hrows hfit base bay sw val isF
    have hlen : rows.length ≤ 128 := (length_mRows_le hrows).trans (mStarts_rows_le hs)
    have hent : BankEntered x.mx (mulTile s k h d trans rows).mx d.bank rows.length acc isF val :=
      bankEntered_mulTile hlen
    obtain ⟨-, hj, hu⟩ := tileOnly_trans (tileOnly_setTile_setTile s k (startedM x h) _) (tileOnly_mFinish _ k h d y rows.length)
    refine ⟨_, mul_next hs hrows hfit, hj, hu, fun hk => ?kept, fun hk hb hst => ?written⟩
    case kept =>
      have hbal := balerOnly_rowsTaken (mulTile s k h d trans rows) d (s.balerBase k) s.furrow
      rw [mFinish_keep _ _ _ hk, State.tile_setTile]
      rw [hbal.mx_eq]
      refine ⟨hent, hbal, fun hb => ?_⟩
      rw [rowsTaken_of_not_baler _ _ _ hb]
      exact ⟨rfl, rfl⟩
    case written =>
      rw [rowsTaken_of_not_baler _ _ _ hb, mFinish_write _ _ _ hk hst, State.tile_setTile, State.tile_setTile]
      refine ⟨_, hent, ?_, ?_, ?_⟩
      · rw [putRows_mx]
        exact bankEmptied_clearBank _ _
      · obtain ⟨hacc, -⟩ := hent
        refine rowsWritten_congr (rowsWritten_putRows (mulTile s k h d trans rows) d y rows.length fun r n hr hn => ?_) rfl rfl rfl rfl
        rw [hacc r n (by omega) hn, if_pos hr]
      · rw [putRows_eq]
        split <;> rfl

/-! ### One column of a product -/

theorem elemAt_eq {w : Nat} (hw : 0 < w) (x i : Nat) : elemAt w x i = x / 2 ^ (w * i) % 2 ^ w := by
  rw [elemAt, bits_eq, show w * i + w - 1 + 1 - w * i = w by omega]

theorem mxBits_pos (code : Nat) : 0 < mxBits code := by
  unfold mxBits
  split <;> decide

/-- A sum saturated to 32 bits, and whether it did. -/
theorem satInt_32 (v : Int) :
    ((satInt 32 true v).1, (satInt 32 true v).2 != 0) =
      if v < -2 ^ 31 then (2 ^ 31, true) else if 2 ^ 31 ≤ v then (2 ^ 31 - 1, true) else ((v % 2 ^ 32).toNat, false) := by
  have hmin : imin 32 true = -2 ^ 31 := rfl
  have hmax : imax 32 true = 2 ^ 31 - 1 := rfl
  rw [satInt, hmin, hmax]
  by_cases h1 : v < -2 ^ 31
  · rw [if_pos h1, if_pos h1]
    rfl
  · rw [if_neg h1, if_neg h1]
    by_cases h2 : 2 ^ 31 - 1 < v
    · rw [if_pos h2, if_pos (by omega)]
      rfl
    · rw [if_neg h2, if_neg (by omega)]
      rfl

section Column
variable {d : MDesc} (hg : d.group = 0)
include hg

theorem columnSum_integers (hf : mxFloat d.act = none) (trans : Bool) (bay sw : Nat) (row : MRow) (start : Option Nat) (n : Nat) :
    columnSum d trans bay sw row start n =
      let v := sint 32 (start.getD 0) + ((List.range (fmtK d.act)).map fun k =>
        mxInt d.act (elemAt (mxBits d.act) (row.data.getD 0) k) * mxInt d.wt (wtAt d.wt trans bay k n)).sum
      ((satInt 32 true v).1, (satInt 32 true v).2 != 0) := by
  unfold columnSum
  dsimp only
  rw [if_neg (not_not.2 hg), hf, if_neg (by decide), below_eq_range]

theorem columnSum_floats {f : Fmt} (hf : mxFloat d.act = some f) (trans : Bool) (bay sw : Nat) (row : MRow) (start : Option Nat) (n : Nat) :
    columnSum d trans bay sw row start n =
      (sumTerms start ((List.range (fmtK d.act)).map fun k =>
        toFp32 (fmulV (mxVal d.act (elemAt (mxBits d.act) (row.data.getD 0) k)) (mxVal d.wt (wtAt d.wt trans bay k n))).1), false) := by
  unfold columnSum
  dsimp only
  rw [if_neg (not_not.2 hg), hf, if_pos (by rfl), below_eq_range]

end Column

/-- A sum that starts from a value adds the terms in their order. -/
theorem sumTerms_some (x : Nat) (ts : List Nat) : sumTerms (some x) ts = ts.foldl (fun r t => (fadd fp32 0 r t).1) x := by
  unfold sumTerms
  induction ts generalizing x with
  | nil => rfl
  | cons t ts ih => exact ih _

theorem mxVal_float {code : Nat} {f : Fmt} (hf : mxFloat code = some f) (x : Nat) : mxVal code x = fdecode f x := by rw [mxVal, hf]

theorem matrixColumnOrder : Claims.MatrixColumnOrder := by
  intro d bay sw a sc n hg _ el num
  have hel (code x i : Nat) : elemAt (mxBits code) x i = el code x i := elemAt_eq (mxBits_pos code) x i
  refine ⟨?integers, fun x f g hf hgw => ?floats⟩
  case integers =>
    intro start hact v
    have hf : mxFloat d.act = none := by rcases hact with h | h | h <;> rw [h] <;> rfl
    rw [columnSum_integers hg hf]
    simp only [wtAt, hel]
    exact satInt_32 v
  case floats =>
    rw [columnSum_floats hg hf]
    simp only [wtAt, hel, sumTerms_some, List.foldl_map, mxVal_float hf, mxVal_float hgw]
    rfl

/-- Settles O27, from the products of MMUL and MMULT and the order of one column. -/
theorem tileMatrixMultiply : Obligations.TileMatrixMultiply := ⟨tileMatrixMultiply_products, matrixColumnOrder⟩

end Sys2Proof.Machine
end

section
/-! The proof of TileConvolution: the rows that CONV reads under a tap, and their products (R166, R167). -/

namespace Sys2Proof.Machine

/-! ### The input position of a row -/

/-- One input coordinate (R167): of output coordinate `q` along axis `i` under a tap. -/
def Geo.coord (g : Geo) (tap q i : Nat) : Int := ((q * g.stride i + tap / 2 ^ (8 * i) % 256 * g.dil i : Nat) : Int) - g.pad i

theorem inputPos_eq (g : Geo) (tap p : Nat) :
    g.inputPos tap p =
      let ix := g.coord tap (p % g.outW) 0
      let iy := g.coord tap (p / g.outW % g.outH) 1
      let iz := g.coord tap (p / g.outW / g.outH) 2
      if 0 ≤ ix ∧ ix < g.inW ∧ 0 ≤ iy ∧ iy < g.inH ∧ 0 ≤ iz ∧ iz < g.inD then some (((iz * g.inH + iy) * g.inW + ix).toNat)
      else none := by
  have hcoord (q i : Nat) :
      ((q : Int) * (g.stride i : Int) + (bits tap (8 * i + 7) (8 * i) : Int) * (g.dil i : Int)) - g.pad i = g.coord tap q i := by
    rw [bits_eq, show 8 * i + 7 + 1 - 8 * i = 8 by omega, Geo.coord]
    push_cast
    rfl
  unfold Geo.inputPos
  simp only [hcoord, Bool.and_eq_true, decide_eq_true_eq, and_assoc]

/-! ### The rows that enter -/

section ConvRow
variable {t : Tile} {d : MDesc} {g : Geo} {tap p : Nat}

theorem convRow_outside (h : g.inputPos tap p = none) : convRow t d g tap p = some ⟨none, []⟩ := by
  unfold convRow
  simp only [h]

/-- A row read from the tile store without group scales. -/
theorem convRow_inside {q : Nat} (h : g.inputPos tap p = some q) (hr : d.inReg = false) (hg : d.group = 0)
    (ha : d.actAddr + (q * g.posStride + tap / 2 ^ 24 % 2 ^ 16 * fmtRowBytes d.act) + fmtRowBytes d.act ≤ progEnd) :
    convRow t d g tap p =
      some ⟨some (mval t.store (d.actAddr + (q * g.posStride + tap / 2 ^ 24 % 2 ^ 16 * fmtRowBytes d.act)) (fmtRowBytes d.act)), []⟩ := by
  have hbits : bits tap 39 24 = tap / 2 ^ 24 % 2 ^ 16 := bits_eq _ _ _
  have hin : beyond (d.actAddr + (q * g.posStride + tap / 2 ^ 24 % 2 ^ 16 * fmtRowBytes d.act)) (fmtRowBytes d.act) = false :=
    decide_eq_false (Nat.not_lt.2 ha)
  unfold convRow
  simp only [h, hr, hg, hbits, hin, Bool.false_eq_true, if_false, if_true, bne_self_eq_false, Bool.false_and, Bool.or_false]

end ConvRow

theorem mapM_eq_some {α β : Type} {f : α → Option β} {g : α → β} (l : List α) (h : ∀ x ∈ l, f x = some (g x)) :
    l.mapM f = some (l.map g) := by
  induction l with
  | nil => rfl
  | cons x l ih =>
    rw [List.mapM_cons, h x List.mem_cons_self, ih fun y hy => h y (List.mem_cons_of_mem _ hy)]
    rfl

/-- CONV that keeps its results: its rows enter the bank, and nothing else happens to the tile. -/
theorem conv_next {s : State} {k : Nat} {h : QEnt} {d : MDesc} {g : Geo} {row : Nat → MRow} (hs : MStarts s k 4 h d)
    (hg : (s.tile k).geo h.word = some g) (hk : (slotLow h.word).testBit 0 = true)
    (hrow : ∀ r, r < d.rows → convRow (startedM (s.tile k) h) d g h.x.toNat (h.y.toNat + r) = some (row r)) :
    exec (.conv k) s =
      .next ((s.setTile k (startedM (s.tile k) h)).setTile k
        { startedM (s.tile k) h with
          mx := (s.tile k).mx.multiply d false ((slotLow h.word).testBit 1) (slotLow h.word / 8 % 2) ((below d.rows).map row) }) := by
  refine congrArg Host.Outcome.next (mStart_ok hs ?_)
  have hgeo : (startedM (s.tile k) h).geo h.word = some g := hg
  unfold effConv
  dsimp only
  rw [State.tile_setTile, hgeo]
  dsimp only
  rw [mapM_eq_some _ fun r hr => hrow r ((mem_below _ _).1 hr)]
  dsimp only
  rw [bit_eq_testBit, bit_eq_testBit, bits_same, hk, if_neg (by simp), mFinish_keep _ _ _ hk, State.modTile, State.tile_setTile]
  rfl

/-- Settles O28, from the rows that CONV reads and the products of an instruction. -/
theorem tileConvolution : Obligations.TileConvolution := by
  intro s k h d g row hs x o tap hg hk hrows base bay sw
  have hlen : ((below d.rows).map row).length = d.rows := by rw [below_eq_range, List.length_map, List.length_range]
  have hconv (r : Nat) (hr : r < d.rows) : convRow (startedM x h) d g tap (h.y.toNat + r) = some (row r) := by
    have hpos := inputPos_eq g tap (h.y.toNat + r)
    have h1 := hrows r hr
    dsimp only at hpos h1
    unfold Geo.coord at hpos
    split at h1
    · next hc =>
      obtain ⟨hreg, hgrp, haddr, hval⟩ := h1
      rw [if_pos hc] at hpos
      rw [hval]
      exact convRow_inside hpos hreg hgrp haddr
    · next hc =>
      rw [if_neg hc] at hpos
      rw [h1]
      exact convRow_outside hpos
  have hent := bankEntered_multiply x.mx d false (o.testBit 1) (o / 8 % 2) (rows := (below d.rows).map row) (row := row)
    (hlen.trans_le (mStarts_rows_le hs)) fun r hr => by
      rw [List.getElem?_eq_getElem hr, Option.getD_some]
      simp [below_eq_range]
  rw [hlen] at hent
  refine ⟨_, conv_next hs hg hk hconv, ?_⟩
  rw [State.tile_setTile]
  exact ⟨hent, tileOnly_setTile_setTile _ _ _ _⟩

end Sys2Proof.Machine
end

section
/-! SUPPORT. The diagonal banks cleared (R169), and one pass of a limb product (R168). -/

namespace Sys2Proof.Machine

/-! ### Cleared diagonal banks -/

theorem foldl_clearBank (m : Mx) (n : Nat) :
    (below n).foldl Mx.clearBank m =
      { m with acc := ((below n).foldl Mx.clearBank m).acc, accLive := ((below n).foldl Mx.clearBank m).accLive } := by
  induction n with
  | zero => rfl
  | succ n ih =>
    rw [foldl_below_succ]
    generalize (below n).foldl Mx.clearBank m = b at ih
    rw [Mx.clearBank, ih]

theorem clearDiag_frame (m : Mx) (planes : Nat) :
    m.clearDiag planes = { m with acc := (m.clearDiag planes).acc, accLive := (m.clearDiag planes).accLive, limbCount := [] } := by
  unfold Mx.clearDiag
  rw [foldl_clearBank]

theorem sget_clearDiag (m : Mx) (planes key : Nat) :
    sget 0 (m.clearDiag planes).acc key = if key / 8192 < planes then 0 else sget 0 m.acc key := by
  unfold Mx.clearDiag
  dsimp only
  induction planes with
  | zero => rfl
  | succ n ih =>
    rw [foldl_below_succ, sget_clearBank, ih]
    by_cases h : key / 8192 = n
    · rw [if_pos h, if_pos (by omega)]
    · rw [if_neg h]
      exact if_congr (by omega) rfl rfl

theorem sget_map_upFrom {α : Type} (d : α) (f : Nat → α) (a n i : Nat) :
    sget d ((upFrom a n).map fun j => (j, f j)) i = if a ≤ i ∧ i < a + n then f i else d := by
  induction n generalizing a with
  | zero => rw [if_neg (by omega)]; rfl
  | succ n ih =>
    rw [upFrom, List.map_cons, sget, ih]
    by_cases h : i = a
    · rw [if_pos h, if_pos (by omega), h]
    · rw [if_neg h]
      exact if_congr (by omega) rfl rfl

/-! ### One pass -/

/-- The products of one row of activation plane `i` with one column of weight plane `j`, summed. -/
def passSum (planes i j : Nat) (act : Nat → Nat → Nat) (wt r n : Nat) : Int :=
  ((below 64).map fun k => limbByte planes i (elemAt 8 (act i r) k) * limbByte planes j (elemAt 8 wt (64 * k + n))).sum

/-- A value added to every cell of a bank's rows. -/
def addBank (acc : SMap W32) (bank rows : Nat) (x : Nat → Nat → Int) : SMap W32 :=
  (below rows).foldl
    (fun m r => (below 64).foldl (fun m n => smod 0 m (bank * 8192 + r * 64 + n) fun v => BitVec.ofInt 32 (v.toInt + x r n)) m) acc

theorem sget_smod {α : Type} [DecidableEq α] (d : α) (m : SMap α) (i j : Nat) (f : α → α) :
    sget d (smod d m i f) j = if j = i then f (sget d m j) else sget d m j := by
  rw [smod, sget_sput]
  split
  · next h => rw [h]
  · rfl

theorem sget_addBank (acc : SMap W32) {b bank rows r n : Nat} (x : Nat → Nat → Int) (hrows : rows ≤ 128) (hr : r < rows) (hn : n < 64) :
    sget 0 (addBank acc bank rows x) (b * 8192 + r * 64 + n) =
      if bank = b then BitVec.ofInt 32 ((sget 0 acc (b * 8192 + r * 64 + n)).toInt + x r n) else sget 0 acc (b * 8192 + r * 64 + n) := by
  rw [addBank, foldl_grid]
  simp only [Nat.add_assoc, Nat.div_add_mod']
  rw [get_foldl_cells (get := fun m : SMap W32 => sget 0 m) (base := bank * 8192)
    (val := fun i v => BitVec.ofInt 32 (v.toInt + x (i / 64) (i % 64))) fun m i j => sget_smod 0 m _ j _]
  by_cases h : bank = b
  · subst h
    rw [if_pos (by omega), if_pos rfl, Nat.add_sub_cancel_left, show (r * 64 + n) / 64 = r by omega, show (r * 64 + n) % 64 = n by omega]
  · rw [if_neg (by omega), if_neg h]

/-- A pass that needs no spill adds its sums to the diagonal bank of its planes and counts its products. -/
theorem limbPass_eq {t : Tile} {planes rows i j : Nat} {act : Nat → Nat → Nat} {wt : Nat}
    (h : sget 0 t.mx.limbCount (i + j + 1 - planes) + 64 ≤ 32768) :
    t.limbPass planes rows i j act wt =
      { t with
        mx := { t.mx with
          acc := addBank t.mx.acc (i + j + 1 - planes) rows (passSum planes i j act wt)
          limbCount := smod 0 t.mx.limbCount (i + j + 1 - planes) fun v => v + 64 } } := by
  unfold Tile.limbPass
  dsimp only
  rw [if_neg (by omega)]
  rfl

/-! ### Passes one after the other -/

theorem ofInt_toInt_add (v : W32) (x y : Int) :
    BitVec.ofInt 32 ((BitVec.ofInt 32 (v.toInt + x)).toInt + y) = BitVec.ofInt 32 (v.toInt + (x + y)) := by
  rw [BitVec.ofInt_add, BitVec.ofInt_toInt, ← BitVec.ofInt_add, add_assoc]

/-- Passes that cannot need a spill leave in each diagonal bank the sum of what went to it, modulo 2^32. -/
theorem foldl_limbPass {planes rows : Nat} {act : Nat → Nat → Nat} {wt : Nat → Nat} (hrows : rows ≤ 128) (l : List (Nat × Nat)) {t : Tile}
    {bound : Nat} (hcount : ∀ b, sget 0 t.mx.limbCount b ≤ bound) (hbound : bound + 64 * l.length ≤ 32768) :
    ∃ acc count,
      l.foldl (fun t e => t.limbPass planes rows e.1 e.2 act (wt e.2)) t = { t with mx := { t.mx with acc := acc, limbCount := count } } ∧
      ∀ b r n, r < rows → n < 64 → sget 0 acc (b * 8192 + r * 64 + n) =
        BitVec.ofInt 32 ((sget 0 t.mx.acc (b * 8192 + r * 64 + n)).toInt +
          ((l.filter fun e => e.1 + e.2 + 1 - planes == b).map fun e => passSum planes e.1 e.2 act (wt e.2) r n).sum) := by
  induction l generalizing t bound with
  | nil => exact ⟨_, _, rfl, fun b r n _ _ => by rw [List.filter_nil, List.map_nil, List.sum_nil, add_zero, BitVec.ofInt_toInt]⟩
  | cons e l ih =>
    rw [List.length_cons] at hbound
    have hpass := limbPass_eq (t := t) (rows := rows) (act := act) (wt := wt e.2)
      (by have := hcount (e.1 + e.2 + 1 - planes); omega : sget 0 t.mx.limbCount (e.1 + e.2 + 1 - planes) + 64 ≤ 32768)
    have hcount' (b : Nat) : sget 0 (smod 0 t.mx.limbCount (e.1 + e.2 + 1 - planes) fun v => v + 64) b ≤ bound + 64 := by
      have := hcount b
      rw [sget_smod]
      split <;> omega
    obtain ⟨acc, count, hl, hacc⟩ := ih (t := t.limbPass planes rows e.1 e.2 act (wt e.2)) (fun b => by rw [hpass]; exact hcount' b)
      (by omega : bound + 64 + 64 * l.length ≤ 32768)
    rw [hpass] at hl hacc
    rw [List.foldl_cons, hpass]
    refine ⟨acc, count, hl, fun b r n hr hn => ?_⟩
    rw [hacc b r n hr hn, sget_addBank _ _ hrows hr hn, List.filter_cons]
    by_cases hb : e.1 + e.2 + 1 - planes = b
    · rw [if_pos hb, if_pos (beq_iff_eq.2 hb), ofInt_toInt_add, List.map_cons, List.sum_cons]
    · rw [if_neg hb, if_neg (mt beq_iff_eq.1 hb)]

end Sys2Proof.Machine
end

section
/-! The proof of TileLimbProducts: the passes of a limb product in the diagonal banks (R168, R169). -/

namespace Sys2Proof.Machine

/-! ### The passes of LIMB -/

/-- Every pair of planes, the weight planes ascending and for each the activation planes. -/
def planePairs (planes : Nat) : List (Nat × Nat) := (List.range planes).flatMap fun j => (List.range planes).map fun i => (i, j)

theorem limbPairs_eq_filter (planes : Nat) : limbPairs planes = (planePairs planes).filter fun e => planes ≤ e.1 + e.2 + 1 := by
  unfold limbPairs planePairs
  simp only [below_eq_range, List.filter_flatMap, List.filter_map]
  rfl

/-- The passes of diagonal bank `b`. -/
theorem filter_limbPairs (planes b : Nat) :
    ((limbPairs planes).filter fun e => e.1 + e.2 + 1 - planes == b) = (planePairs planes).filter fun e => e.1 + e.2 + 1 = b + planes := by
  rw [limbPairs_eq_filter, List.filter_filter]
  refine List.filter_congr fun e _ => ?_
  rw [Bool.eq_iff_iff, Bool.and_eq_true, beq_iff_eq, decide_eq_true_eq, decide_eq_true_eq]
  omega

theorem length_limbPairs_le (code : Nat) : (limbPairs (limbPlanes code)).length ≤ 36 := by
  unfold limbPlanes
  split <;> decide

/-! ### The instruction -/

/-- The M engine as a LIMB that clears begins its passes, its last two weight planes in the bay banks. -/
def Mx.limbStart (m : Mx) (bay : Mem) (planes : Nat) (q64 : Bool) : Mx :=
  { ({ m with bay := bay, bayValid := 0, combQ64 := q64 } : Mx).clearDiag planes with combFresh := (below 128).map fun r => (r, true) }

theorem limbStart_frame (m : Mx) (bay : Mem) (planes : Nat) (q64 : Bool) :
    (m.limbStart bay planes q64).comb = m.comb ∧ (m.limbStart bay planes q64).bayValid = 0 ∧
      (m.limbStart bay planes q64).combQ64 = q64 := by
  rw [Mx.limbStart, clearDiag_frame]
  exact ⟨rfl, rfl, rfl⟩

/-- The bay banks as a LIMB leaves them: the last two weight planes, the first plane of all in bank `first`. -/
def Tile.limbBay (t : Tile) (d : MDesc) (planes first : Nat) : Mem :=
  [planes - 2, planes - 1].foldl (fun m j => mwrite m (16384 * ((first + j) % 2)) (mread t.store (d.wtAddr + 4096 * j) 4096)) t.mx.bay

/-- The 64 bytes of an activation row of a plane. -/
def Tile.limbRow (t : Tile) (d : MDesc) (x i r : Nat) : Nat := mval (if d.inReg then t.treg else t.store) (d.limbAt x i r) 64

/-- A weight plane. -/
def Tile.limbPlane (t : Tile) (d : MDesc) (j : Nat) : Nat := mval t.store (d.wtAddr + 4096 * j) 4096

section Limb
variable {s : State} {k : Nat} {h : QEnt} {d : MDesc}

theorem limbAt_eq (d : MDesc) (x i r : Nat) :
    d.limbAt x i r =
      if d.inReg then 4096 * (d.actAddr % 16) + 8192 * i + 64 * r else (d.actAddr + x / 64 * 64) % 2 ^ 64 + 8192 * i + r * d.actStride := by
  rw [MDesc.limbAt, offAdd, sub_mod_64]

/-- The tile as a LIMB that clears begins its passes. -/
def limbBegun (s : State) (k : Nat) (h : QEnt) (d : MDesc) : Tile :=
  { startedM (s.tile k) h with
    mx := (s.tile k).mx.limbStart ((s.tile k).limbBay d (limbPlanes d.act) (s.free1 % 2)) (limbPlanes d.act) (d.act == 10) }

/-- LIMB that clears and keeps: its passes from cleared banks, and a free value for the bay bank of its first plane. -/
theorem limb_next (hs : MStarts s k 5 h d) (hkeep : (slotLow h.word).testBit 0 = true) (hacc : (slotLow h.word).testBit 1 = false)
    (hin : ∀ i r, i < limbPlanes d.act → r < d.rows → d.limbAt h.x.toNat i r + 64 ≤ if d.inReg then 65536 else progEnd) :
    exec (.limb k) s =
      .next (((s.setTile k (startedM (s.tile k) h)).setTile k
        ((limbPairs (limbPlanes d.act)).foldl
          (fun t e => t.limbPass (limbPlanes d.act) d.rows e.1 e.2 ((s.tile k).limbRow d h.x.toNat) ((s.tile k).limbPlane d e.2))
          (limbBegun s k h d))).freed) := by
  have hbad : ((below (limbPlanes d.act)).any fun i => (below d.rows).any fun r =>
      if d.inReg then decide (65536 < d.limbAt h.x.toNat i r + 64) else beyond (d.limbAt h.x.toNat i r) 64) = false := by
    refine List.any_eq_false.2 fun i hi => Bool.eq_false_iff.1 (List.any_eq_false.2 fun r hr => ?_)
    have hle := hin i r ((mem_below _ _).1 hi) ((mem_below _ _).1 hr)
    cases hreg : d.inReg <;> simp only [hreg, Bool.false_eq_true, if_false, if_true] at hle ⊢ <;>
      simpa [beyond] using hle
  refine congrArg Host.Outcome.next (mStart_ok hs ?_)
  unfold effLimb
  dsimp only
  rw [hbad, bit_eq_testBit, bit_eq_testBit, hkeep, hacc, State.tile_setTile]
  rfl

/-- What a LIMB that clears and keeps leaves: the cells of its diagonal banks, their counts, and its bay banks. -/
theorem limb_sums (hs : MStarts s k 5 h d) (hkeep : (slotLow h.word).testBit 0 = true) (hacc : (slotLow h.word).testBit 1 = false)
    (hin : ∀ i r, i < limbPlanes d.act → r < d.rows → d.limbAt h.x.toNat i r + 64 ≤ if d.inReg then 65536 else progEnd) :
    ∃ u acc count, exec (.limb k) s = .next u.freed ∧ u.free = s.free ∧
      TileOnly s u k { limbBegun s k h d with mx := { (limbBegun s k h d).mx with acc := acc, limbCount := count } } ∧
      ∀ b r n, b < limbPlanes d.act → r < d.rows → n < 64 → sget 0 acc (b * 8192 + r * 64 + n) =
        BitVec.ofInt 32 (((planePairs (limbPlanes d.act)).filter fun e => e.1 + e.2 + 1 = b + limbPlanes d.act).map fun e =>
          passSum (limbPlanes d.act) e.1 e.2 ((s.tile k).limbRow d h.x.toNat) ((s.tile k).limbPlane d e.2) r n).sum := by
  have hrows := mStarts_rows_le hs
  have hlen := length_limbPairs_le d.act
  have hcount (b : Nat) : sget 0 (limbBegun s k h d).mx.limbCount b ≤ 0 := Nat.le_refl 0
  obtain ⟨acc, count, hfold, hsum⟩ := foldl_limbPass (act := (s.tile k).limbRow d h.x.toNat) (wt := (s.tile k).limbPlane d) hrows
    (limbPairs (limbPlanes d.act)) hcount (by omega)
  refine ⟨(s.setTile k (startedM (s.tile k) h)).setTile k
    { limbBegun s k h d with mx := { (limbBegun s k h d).mx with acc := acc, limbCount := count } }, acc, count, ?_, rfl,
    tileOnly_setTile_setTile _ _ _ _, fun b r n hb hr hn => ?_⟩
  · rw [limb_next hs hkeep hacc hin, hfold]
  · have hzero : sget 0 (limbBegun s k h d).mx.acc (b * 8192 + r * 64 + n) = 0 := (sget_clearDiag _ _ _).trans (if_pos (by omega))
    rw [hsum b r n hr hn, hzero, filter_limbPairs, show (0 : W32).toInt = 0 from rfl, zero_add]

end Limb

/-- Settles O29, from the passes into the cleared diagonal banks. -/
theorem tileLimbProducts : Obligations.TileLimbProducts := by
  intro s k h d hs x o ps at_ plane act wt hkeep hacc hin
  have hrow (i r c : Nat) (hc : c < 64) :
      elemAt 8 (x.limbRow d h.x.toNat i r) c = (mget (if d.inReg then x.treg else x.store) (at_ i r + c)).toNat := by
    rw [Tile.limbRow, elemAt_mval _ _ _ _ hc, limbAt_eq]
  have hplane (j c n : Nat) (hc : c < 64) (hn : n < 64) :
      elemAt 8 (x.limbPlane d j) (64 * c + n) = (mget x.store (d.wtAddr + 4096 * j + 64 * c + n)).toNat := by
    rw [Tile.limbPlane, elemAt_mval _ _ _ _ (by omega), Nat.add_assoc _ (64 * c)]
  have hpass (e : Nat × Nat) (r n : Nat) (hn : n < 64) :
      passSum ps e.1 e.2 (x.limbRow d h.x.toNat) (x.limbPlane d e.2) r n = ((List.range 64).map fun c => act e.1 r c * wt e.2 c n).sum := by
    rw [passSum, below_eq_range]
    refine congrArg List.sum (List.map_congr_left fun c hc => ?_)
    rw [hrow _ _ _ (List.mem_range.1 hc), hplane _ _ _ (List.mem_range.1 hc) hn]
    rfl
  obtain ⟨u, acc, count, hnext, hfree, htile, hsum⟩ := limb_sums hs hkeep hacc fun i r hi hr => by rw [limbAt_eq]; exact hin i r hi hr
  obtain ⟨hk, hj, hu⟩ := htile
  obtain ⟨hcomb, hvalid, hq⟩ := limbStart_frame x.mx (x.limbBay d ps (s.free1 % 2)) ps (d.act == 10)
  refine ⟨u.freed, hnext, hj, by rw [State.freed, hfree, hu], ?_⟩
  rw [show u.freed.tile k = u.tile k from rfl, hk]
  refine ⟨rfl, fun b r n hb hr hn => ?_, hcomb, hvalid, hq, fun r hr => (sget_map_upFrom _ _ _ _ _).trans (if_pos (by omega))⟩
  exact (hsum b r n hb hr hn).trans (congrArg (fun l => BitVec.ofInt 32 (List.sum l)) (List.map_congr_left fun e _ => hpass e r n hn))

end Sys2Proof.Machine
end

section
/-! SUPPORT. Rows of the diagonal banks land in the combiner (R170, R238, R239). -/

namespace Sys2Proof.Machine

/-! ### Exact sums of 128 bits -/

theorem sint_toNat (v : W32) : sint 32 v.toNat = v.toInt := by
  have := v.isLt
  rw [BitVec.toInt_eq_toNat_cond, sint, Nat.mod_eq_of_lt v.isLt]
  split <;> split <;> omega

/-- A sum that stays within 128 bits is exact. -/
theorem comb128_exact {c : BitVec 128} {x : Int} (hlo : -2 ^ 127 ≤ c.toInt + x) (hhi : c.toInt + x < 2 ^ 127) :
    (comb128 c x).1.toInt = c.toInt + x ∧ (comb128 c x).2 = false := by
  have hmin : imin 128 true = -2 ^ 127 := rfl
  have hmax : imax 128 true = 2 ^ 127 - 1 := rfl
  rw [comb128, satInt, hmin, hmax, if_neg (by omega), if_neg (by omega)]
  refine ⟨?_, rfl⟩
  have hof : BitVec.ofNat 128 (wrapInt 128 (c.toInt + x)) = BitVec.ofInt 128 (c.toInt + x) := by
    apply BitVec.eq_of_toNat_eq
    rw [BitVec.toNat_ofNat, BitVec.toNat_ofInt, wrapInt]
    omega
  rw [hof, BitVec.toInt_ofInt_eq_self (by decide) hlo hhi]

/-- The weighted sum of the first `n` diagonal banks at one cell. -/
def diagSum (acc : SMap W32) (key n : Nat) : Int := ((List.range n).map fun b => (sget 0 acc (b * 8192 + key)).toInt * 2 ^ (8 * b)).sum

theorem diagSum_succ (acc : SMap W32) (key n : Nat) :
    diagSum acc key (n + 1) = diagSum acc key n + (sget 0 acc (n * 8192 + key)).toInt * 2 ^ (8 * n) := by
  rw [diagSum, List.range_succ, List.map_append, List.sum_append, List.map_singleton, List.sum_singleton, diagSum]

theorem abs_diagSum_le (acc : SMap W32) (key n : Nat) : |diagSum acc key n| ≤ 2 ^ (8 * n + 24) := by
  induction n with
  | zero => simp [diagSum]
  | succ n ih =>
    have hv : |(sget 0 acc (n * 8192 + key)).toInt| ≤ 2 ^ 31 := by
      have h1 := (sget 0 acc (n * 8192 + key)).le_toInt
      have h2 := (sget 0 acc (n * 8192 + key)).toInt_lt
      exact abs_le.2 ⟨by simpa using h1, by omega⟩
    calc |diagSum acc key (n + 1)|
        ≤ |diagSum acc key n| + |(sget 0 acc (n * 8192 + key)).toInt| * 2 ^ (8 * n) := by
          rw [diagSum_succ]
          exact (abs_add_le _ _).trans (by rw [abs_mul, abs_of_pos (by positivity : (0 : Int) < 2 ^ (8 * n))])
      _ ≤ 2 ^ (8 * n + 24) + 2 ^ 31 * 2 ^ (8 * n) := add_le_add ih (by gcongr)
      _ ≤ 2 ^ (8 * (n + 1) + 24) := by
          rw [show 8 * (n + 1) + 24 = 8 * n + 32 by omega, pow_add, pow_add]
          have : (0 : Int) < 2 ^ (8 * n) := by positivity
          omega

/-- The banks of one cell added to the combiner in their order, from zero; the second part tells whether a sum saturated. -/
def diagFold (acc : SMap W32) (planes key : Nat) : BitVec 128 × Bool :=
  (below planes).foldl
    (fun (a : BitVec 128 × Bool) b =>
      let w := comb128 a.1 (sint 32 (sget 0 acc (b * 8192 + key)).toNat * (2 : Int) ^ (8 * b))
      (w.1, a.2 || w.2)) (0, false)

theorem diagFold_exact (acc : SMap W32) {planes : Nat} (hp : planes ≤ 8) (key : Nat) :
    (diagFold acc planes key).1.toInt = diagSum acc key planes ∧ (diagFold acc planes key).2 = false := by
  induction planes with
  | zero => exact ⟨rfl, rfl⟩
  | succ n ih =>
    obtain ⟨hsum, hsat⟩ := ih (by omega)
    have hb := abs_le.1 (abs_diagSum_le acc key (n + 1))
    have hpow : (2 : Int) ^ (8 * (n + 1) + 24) ≤ 2 ^ 126 := pow_le_pow_right₀ (by decide) (by omega)
    rw [diagSum_succ, ← hsum] at hb
    obtain ⟨h1, h2⟩ := comb128_exact (c := (diagFold acc n key).1) (x := (sget 0 acc (n * 8192 + key)).toInt * 2 ^ (8 * n))
      (by omega) (by omega)
    unfold diagFold at h1 h2 hsum hsat ⊢
    rw [foldl_below_succ, diagSum_succ, ← hsum]
    dsimp only
    rw [sint_toNat, h1, h2, hsat]
    exact ⟨rfl, rfl⟩

/-! ### Landed rows -/

/-- A tile with other sums in its combiner. -/
def Tile.withComb (t : Tile) (c : SMap (BitVec 128)) : Tile := { t with mx := { t.mx with comb := c } }

/-- Steps that each replace one sum by that of its diagonal banks. -/
theorem foldl_withComb {f : Tile → Nat → Tile} {planes base : Nat}
    (hf : ∀ t n, f t n = t.withComb (sput 0 t.mx.comb (base + n) (diagFold t.mx.acc planes (base + n)).1)) (n : Nat) (t : Tile) :
    (below n).foldl f t = t.withComb ((below n).foldl (fun m n => sput 0 m (base + n) (diagFold t.mx.acc planes (base + n)).1) t.mx.comb) := by
  induction n with
  | zero => rfl
  | succ n ih =>
    rw [foldl_below_succ, foldl_below_succ, ih, hf]
    rfl

/-- A fresh row lands: its sums are replaced, and nothing saturates. -/
theorem landRow_fresh {t : Tile} {planes r : Nat} (hp : planes ≤ 8) (h : sget false t.mx.combFresh r = true) :
    t.landRow planes r =
      { t with
        mx := { t.mx with
          combFresh := sput false t.mx.combFresh r false, combLive := true
          comb := (below 64).foldl (fun m n => sput 0 m (r * 64 + n) (diagFold t.mx.acc planes (r * 64 + n)).1) t.mx.comb } } := by
  unfold Tile.landRow
  dsimp only
  rw [h]
  refine (foldl_withComb (planes := planes) (base := r * 64) (fun t n => ?_) 64 _).trans rfl
  obtain ⟨-, hsat⟩ := diagFold_exact t.mx.acc hp (r * 64 + n)
  unfold diagFold at hsat
  dsimp only at hsat
  rw [if_pos rfl, hsat, if_neg (by decide)]
  rfl

/-- `rows` fresh rows have landed: their sums, and nothing else of the tile but what is fresh and live of the combiner. -/
def Landed (t t' : Tile) (planes rows : Nat) : Prop :=
  t' = { t with mx := { t.mx with comb := t'.mx.comb, combFresh := t'.mx.combFresh, combLive := t'.mx.combLive } } ∧
  (∀ r, rows ≤ r → sget false t'.mx.combFresh r = sget false t.mx.combFresh r) ∧
  ∀ key, sget 0 t'.mx.comb key = if key < 64 * rows then (diagFold t.mx.acc planes key).1 else sget 0 t.mx.comb key

theorem landed_foldl {t : Tile} {planes rows : Nat} (hp : planes ≤ 8) (hfresh : ∀ r, r < rows → sget false t.mx.combFresh r = true) :
    Landed t ((below rows).foldl (fun t r => t.landRow planes r) t) planes rows := by
  induction rows with
  | zero => exact ⟨rfl, fun _ _ => rfl, fun key => (if_neg (by omega)).symm⟩
  | succ n ih =>
    rw [foldl_below_succ]
    generalize hv : (below n).foldl (fun t r => t.landRow planes r) t = v at ih
    obtain ⟨hframe, hfr, hcomb⟩ := ih fun r hr => hfresh r (by omega)
    rw [landRow_fresh hp ((hfr n le_rfl).trans (hfresh n (by omega)))]
    refine ⟨by rw [hframe], fun r hr => ?_, fun key => ?_⟩
    · exact (sget_sput_ne _ _ false (by omega : r ≠ n)).trans (hfr r (by omega))
    · have hacc : v.mx.acc = t.mx.acc := by rw [hframe]
      have hcell := get_foldl_cells (get := fun m : SMap (BitVec 128) => sget 0 m) (base := n * 64)
        (val := fun i _ => (diagFold t.mx.acc planes (n * 64 + i)).1) (fun m i j => sget_sput 0 m (n * 64 + i) j _) 64 v.mx.comb key
      dsimp only at hcell ⊢
      rw [hacc, hcell, hcomb]
      by_cases h1 : n * 64 ≤ key ∧ key < n * 64 + 64
      · rw [if_pos h1, if_pos (by omega), Nat.add_sub_cancel' h1.1]
      · rw [if_neg h1]
        exact if_congr (by omega) rfl rfl

end Sys2Proof.Machine
end

section
/-! The proof of TileDrain: a bank in its destination, and the diagonal banks in the combiner (R163, R170). -/

namespace Sys2Proof.Machine

section Drain
variable {s : State} {k : Nat} {h : QEnt} {d : MDesc} (hs : MStarts s k 6 h d)
include hs

/-- DRAIN of a bank: its rows in the destination, and the bank emptied unless it is kept. -/
theorem drain_next (hl : d.limb = false) (hfit : d.dstFits (h.y.toNat / 64 * 64) d.rows = true) (hst : d.stream = false) :
    exec (.drain k) s =
      .next ((s.setTile k (startedM (s.tile k) h)).setTile k
        { (startedM (s.tile k) h).putRows d (h.y.toNat / 64 * 64) d.rows with
          mx := if (slotLow h.word).testBit 0 then (s.tile k).mx else (s.tile k).mx.clearBank d.bank }) := by
  refine congrArg Host.Outcome.next (mStart_ok hs ?_)
  have hmx := putRows_mx (startedM (s.tile k) h) d (h.y.toNat / 64 * 64) d.rows
  unfold effDrain
  dsimp only
  rw [hl, if_neg (by decide), sub_mod_64, hfit, if_neg (by decide), State.streamPosts, hst, if_neg (by decide), State.modTile, State.tile_setTile,
    bit_eq_testBit]
  rw [show (s.tile k).mx = _ from hmx.symm]
  cases (slotLow h.word).testBit 0 <;> rfl

/-- DRAIN of the diagonal banks. -/
theorem drainLimb_next (hl : d.limb = true) :
    exec (.drain k) s =
      .next ((s.setTile k (startedM (s.tile k) h)).setTile k
        ((startedM (s.tile k) h).drainLimb (limbPlanes d.act) d.rows ((slotLow h.word).testBit 0))) := by
  refine congrArg Host.Outcome.next (mStart_ok hs ?_)
  unfold effDrain
  dsimp only
  rw [hl, if_pos rfl, State.modTile, State.tile_setTile, bit_eq_testBit]

end Drain

theorem limb_iff (d : MDesc) : d.limb = true ↔ d.act = 10 ∨ d.act = 11 := by
  rw [MDesc.limb, Bool.or_eq_true, beq_iff_eq, beq_iff_eq]

theorem limbPlanes_le (code : Nat) : limbPlanes code ≤ 8 := by
  unfold limbPlanes
  split <;> decide

/-- Fresh rows drained: their sums, and the banks cleared unless they are kept. -/
theorem drainLimb_fresh {t : Tile} {planes rows : Nat} (keep : Bool) (hp : planes ≤ 8)
    (hfresh : ∀ r, r < rows → sget false t.mx.combFresh r = true) :
    t.drainLimb planes rows keep = { t with mx := (t.drainLimb planes rows keep).mx } ∧
      (∀ key, sget 0 (t.drainLimb planes rows keep).mx.comb key =
        if key < 64 * rows then (diagFold t.mx.acc planes key).1 else sget 0 t.mx.comb key) ∧
      ∀ key, sget 0 (t.drainLimb planes rows keep).mx.acc key =
        if keep = false ∧ key / 8192 < planes then 0 else sget 0 t.mx.acc key := by
  have hl := landed_foldl hp hfresh
  unfold Tile.drainLimb
  dsimp only
  generalize (below rows).foldl (fun t r => t.landRow planes r) t = v at hl
  obtain ⟨hframe, -, hcomb⟩ := hl
  have hacc : v.mx.acc = t.mx.acc := by rw [hframe]
  cases keep with
  | true => exact ⟨by rw [if_pos rfl, hframe], hcomb, fun key => by rw [if_pos rfl, hacc, if_neg (by simp)]⟩
  | false =>
    refine ⟨by rw [if_neg (by decide), hframe], fun key => ?_, fun key => ?_⟩
    · rw [if_neg (by decide), clearDiag_frame]
      exact hcomb key
    · rw [if_neg (by decide)]
      refine (sget_clearDiag _ _ _).trans ?_
      rw [hacc]
      exact if_congr (by simp) rfl rfl

theorem tileDrain : Claims.TileDrain := by
  intro s k h d hs x keep y
  refine ⟨fun h10 h11 hfit hst => ?bank, ?diagonal⟩
  case bank =>
    have hl : d.limb = false := Bool.eq_false_iff.2 fun hl => ((limb_iff d).1 hl).elim h10 h11
    obtain ⟨hk, hj, hu⟩ := tileOnly_setTile_setTile s k (startedM x h)
      { (startedM x h).putRows d y d.rows with mx := if keep then x.mx else x.mx.clearBank d.bank }
    refine ⟨_, drain_next hs hl hfit hst, hj, hu, ?_⟩
    rw [hk]
    refine ⟨?_, ?_, ?_⟩
    · refine rowsWritten_congr (rowsWritten_putRows (startedM x h) d y d.rows fun r n _ _ => ?_) rfl rfl rfl rfl
      rw [BitVec.ofNat_toNat, BitVec.setWidth_eq]
      rfl
    · cases keep with
      | false => exact bankEmptied_clearBank _ _
      | true => rfl
    · rw [putRows_eq]
      split <;> rfl
  case diagonal =>
    intro hlimb ps hfresh
    have hp : ps ≤ 8 := limbPlanes_le d.act
    have hrows := mStarts_rows_le hs
    obtain ⟨hframe, hcomb, hacc⟩ := drainLimb_fresh (t := startedM x h) keep hp hfresh
    obtain ⟨hk, hj, hu⟩ := tileOnly_setTile_setTile s k (startedM x h) ((startedM x h).drainLimb ps d.rows keep)
    refine ⟨_, drainLimb_next hs ((limb_iff d).2 hlimb), hj, hu, ?_⟩
    rw [show ((s.setTile k (startedM (s.tile k) h)).setTile k
      ((startedM (s.tile k) h).drainLimb (limbPlanes d.act) d.rows ((slotLow h.word).testBit 0))).tile k = _ from hk]
    refine ⟨fun r n hr hn => ?_, fun r n hr hn => ?_, fun b r n hb hr hn => ?_, hframe⟩
    · obtain ⟨hsum, -⟩ := diagFold_exact (startedM x h).mx.acc hp (r * 64 + n)
      rw [hcomb, if_pos (by omega), hsum, diagSum]
      simp only [Nat.add_assoc]
      rfl
    · rw [hcomb, if_neg (by omega)]
      rfl
    · rw [hacc]
      exact if_congr (and_congr_right fun _ => by rw [show (b * 8192 + r * 64 + n) / 8192 = b by omega]) rfl rfl

end Sys2Proof.Machine
end

section
/-! The proof of TileBaler: a row that arrives, a batch that is released, and its record (R172 to R176). -/

namespace Sys2Proof.Machine

/-! ### A row that arrives -/

section Arrive
variable {s : State} {k p : Nat}

theorem find_free_slot {used : List Nat} {n : Nat} (hn : n < 256) (hfree : n ∉ used) (hmin : ∀ m, m < n → m ∈ used) :
    ((below 256).find? fun n => !(used.contains n)) = some n := by
  rw [← List.head?_filter, below, filter_upFrom_cons (Nat.zero_le n) (by omega) (by simpa using hfree) fun m hm => by simpa using hmin m hm]
  rfl

theorem find_no_free_slot {used : List Nat} (hfull : ∀ n, n < 256 → n ∈ used) :
    ((below 256).find? fun n => !(used.contains n)) = none :=
  List.find?_eq_none.2 fun n hn => by simpa using hfull n ((mem_below _ _).1 hn)

theorem balerBase_eq (hp : s.tilePart? k = some p) : s.balerBase k = 4096 * s.fld (aBayBalerCfg p) 21 12 := by
  rw [State.balerBase, hp]
  rfl

theorem balerRowArrival_next (hp : s.tilePart? k = some p) (hup : s.up = true) (hon : s.flag (aBayBalerCfg p) 63 = true)
    (hr : (s.tile k).retired = false) (row : BitVec 1024) (tag : W64) :
    exec (.balerRowArrival k row tag) s = .next (s.setTile k ((s.tile k).balerPut (s.balerBase k) s.furrow row tag)) := by
  show execBalerRowArrival k row tag s = _
  unfold execBalerRowArrival State.balerArrive
  rw [hp]
  dsimp only
  rw [hup, hon, hr]
  rfl

/-- A row and its tag in a slot of the Baler area (R172). -/
theorem mget_slot (m : Mem) (at_ a v w : Nat) :
    mget (mwrite (mwrite m at_ (leBytes 128 v)) (at_ + 128) (leBytes 8 w)) a =
      if at_ ≤ a ∧ a < at_ + 128 then BitVec.ofNat 8 (v / 2 ^ (8 * (a - at_)))
      else if at_ + 128 ≤ a ∧ a < at_ + 136 then BitVec.ofNat 8 (w / 2 ^ (8 * (a - (at_ + 128)))) else mget m a := by
  show mget (mstore (mstore m at_ 128 v) (at_ + 128) 8 w) a = _
  rw [mget_mstore, mget_mstore]
  by_cases h : at_ ≤ a ∧ a < at_ + 128
  · rw [if_pos h, if_pos h, if_neg (by omega)]
  · rw [if_neg h, if_neg h]

end Arrive

/-! ### The record of a batch -/

section Record
variable (tags slots : List Nat) (furrow : Nat)

/-- The tags of a record, and the bytes that follow them. -/
theorem balerRecord_eq :
    balerRecord tags slots furrow =
      leBytes 2 slots.length ++ (leBytes 6 furrow ++ (tags.flatMap (leBytes 8) ++ (zeros (8 * (64 - slots.length)) ++
        (slots.map (BitVec.ofNat 8) ++ zeros (64 - slots.length))))) := by
  simp only [balerRecord, List.append_assoc]

theorem length_flatMap_leBytes : (tags.flatMap (leBytes 8)).length = 8 * tags.length := by
  rw [List.length_flatMap, List.map_congr_left fun x _ => length_leBytes 8 x, List.map_const', List.sum_replicate, smul_eq_mul, Nat.mul_comm]

theorem balerRecord_count : ((balerRecord tags slots furrow).drop 0).take 2 = leBytes 2 slots.length := by
  rw [balerRecord_eq, List.drop_zero, List.take_left' (length_leBytes _ _)]

theorem balerRecord_furrow : ((balerRecord tags slots furrow).drop 2).take 6 = leBytes 6 furrow := by
  rw [balerRecord_eq, List.drop_left' (length_leBytes _ _), List.take_left' (length_leBytes _ _)]

theorem balerRecord_tag {i : Nat} (hi : i < tags.length) : ((balerRecord tags slots furrow).drop (8 + 8 * i)).take 8 = leBytes 8 tags[i] := by
  have hflat := length_flatMap_leBytes tags
  rw [balerRecord_eq, ← List.append_assoc, ← List.drop_drop, List.drop_left' (by simp), List.drop_append_of_le_length (by omega),
    List.take_append_of_le_length (by rw [List.length_drop]; omega), take_drop_flatMap _ (length_leBytes 8) _ _ hi]

variable (hlen : tags.length = slots.length) (hmax : slots.length ≤ 64)
include hlen hmax

theorem length_balerRecord : (balerRecord tags slots furrow).length = 584 := by
  rw [balerRecord_eq]
  simp only [List.length_append, length_leBytes, length_flatMap_leBytes, zeros, List.length_replicate, List.length_map]
  omega

theorem balerRecord_slot {i : Nat} (hi : i < slots.length) :
    ((balerRecord tags slots furrow).drop (520 + i)).take 1 = [BitVec.ofNat 8 slots[i]] := by
  have hflat := length_flatMap_leBytes tags
  have hassoc : balerRecord tags slots furrow =
      (leBytes 2 slots.length ++ leBytes 6 furrow ++ tags.flatMap (leBytes 8) ++ zeros (8 * (64 - slots.length))) ++
        (slots.map (BitVec.ofNat 8) ++ zeros (64 - slots.length)) := by simp only [balerRecord_eq, List.append_assoc]
  have hhead : (leBytes 2 slots.length ++ leBytes 6 furrow ++ tags.flatMap (leBytes 8) ++ zeros (8 * (64 - slots.length))).length = 520 := by
    simp only [List.length_append, length_leBytes, hflat, zeros, List.length_replicate]
    omega
  rw [hassoc, ← List.drop_drop, List.drop_left' hhead, List.drop_append_of_le_length (by rw [List.length_map]; omega),
    List.take_append_of_le_length (by rw [List.length_drop, List.length_map]; omega), List.take_one_drop_eq_of_lt_length (by rwa [List.length_map]),
    List.get_eq_getElem, List.getElem_map]

end Record

/-! ### A release -/

section Release
variable {s : State} {k p : Nat}

theorem balerRelease_next (hp : s.tilePart? k = some p) (hup : s.up = true) (hon : s.flag (aBayBalerCfg p) 63 = true) :
    exec (.balerRelease k) s = .next (s.balerTry k p) := by
  show execBalerRelease k s = _
  unfold execBalerRelease
  rw [hp]
  dsimp only
  rw [hup, hon]
  rfl

/-- With no batch formed nothing is released. -/
theorem balerFlush_of_none {u : State} (h : (u.tile k).bal.formed = []) (fuel : Nat) : balerFlush fuel u k p = u := by
  cases fuel with
  | zero => rfl
  | succ n =>
    unfold balerFlush
    dsimp only
    rw [h]

/-- In deterministic mode a release outside a boundary only takes what was formed at one. -/
theorem balerTry_det (hd : s.globalDet = true) (hf : (s.tile k).bal.formed = []) : s.balerTry k p = s.setTile k (s.tile k) := by
  unfold State.balerTry
  dsimp only
  rw [hd, if_neg (by simp)]
  exact balerFlush_of_none (by rwa [State.tile_setTile]) _

/-- The tile with its one formed batch released: the record and the batch (R172, R176). -/
def Tile.released (t : Tile) (base furrow : Nat) (slots : List Nat) : Tile :=
  { t with
    store := mwrite t.store (base + 65536 + 1024 * (t.bal.released % 16))
      (balerRecord (slots.map fun n => mval t.store (base + 256 * n + 128) 8) slots furrow)
    bal := { t.bal with
      formed := [], released := t.bal.released + 1
      batches := t.bal.batches ++ [{ num := t.bal.released, slots := slots, taken := 0 }] } }

theorem balerFlush_one {u : State} {slots : List Nat} (hp : u.tilePart? k = some p) (hf : (u.tile k).bal.formed = [slots])
    (hroom : ∀ b ∈ (u.tile k).bal.batches, (u.tile k).bal.released < b.num + 16) (fuel : Nat) :
    balerFlush (fuel + 1) u k p =
      balerFlush fuel ((u.setTile k ((u.tile k).released (4096 * u.fld (aBayBalerCfg p) 21 12) u.furrow slots)).balerPost k p) k p := by
  have hover : ((u.tile k).bal.batches.any fun b => b.num + 16 ≤ (u.tile k).bal.released) = false :=
    List.any_eq_false.2 fun b hb => by simpa using hroom b hb
  rw [balerFlush]
  dsimp only
  rw [hf]
  dsimp only
  rw [hover, if_neg (by decide), balerBase_eq hp]
  rfl

/-- The token of a release, at a tile that runs and has room for it. -/
theorem tileOnly_balerPost (u : State) {z : Tile} (hrun : z.run = .running) (htok : sget 0 z.tok (u.fld (aBayBalerCfg p) 47 44) < 255) :
    TileOnly u ((u.setTile k z).balerPost k p) k
      { z with
        tok := if u.fld (aBayBalerCfg p) 47 44 = 0 then z.tok
          else sput 0 z.tok (u.fld (aBayBalerCfg p) 47 44) (sget 0 z.tok (u.fld (aBayBalerCfg p) 47 44) + 1) } := by
  have hpost := postsThen_tilePost u k z (u.fld (aBayBalerCfg p) 47 44) z.issued z.pc 1
  have heq : (u.setTile k z).balerPost k p = (u.setTile k z).tilePost k (u.fld (aBayBalerCfg p) 47 44) z.issued z.pc 1 := by
    unfold State.balerPost
    dsimp only
    rw [State.tile_setTile, if_pos (Or.inl hrun)]
    rfl
  rw [heq]
  unfold PostsThen at hpost
  by_cases h0 : u.fld (aBayBalerCfg p) 47 44 = 0
  · rwa [if_pos h0] at hpost ⊢
  · rw [if_neg h0, if_neg (by omega)] at hpost
    rwa [if_neg h0]

/-- The one formed batch is released with its record and the partition's token (R176). -/
theorem tileOnly_balerFlush {u : State} {slots : List Nat} {z : Tile} (hp : u.tilePart? k = some p) (hf : (u.tile k).bal.formed = [slots])
    (hroom : ∀ b ∈ (u.tile k).bal.batches, (u.tile k).bal.released < b.num + 16) (hrun : (u.tile k).run = .running)
    (htok : sget 0 (u.tile k).tok (u.fld (aBayBalerCfg p) 47 44) < 255)
    (hz : (u.tile k).released (4096 * u.fld (aBayBalerCfg p) 21 12) u.furrow slots = z) :
    TileOnly u (balerFlush 2 u k p) k
      { z with
        tok := if u.fld (aBayBalerCfg p) 47 44 = 0 then z.tok
          else sput 0 z.tok (u.fld (aBayBalerCfg p) 47 44) (sget 0 z.tok (u.fld (aBayBalerCfg p) 47 44) + 1) } := by
  subst hz
  have hpost := tileOnly_balerPost (k := k) u (z := (u.tile k).released (4096 * u.fld (aBayBalerCfg p) 21 12) u.furrow slots) hrun htok
  rw [balerFlush_one hp hf hroom 1, balerFlush_of_none (by rw [hpost.1]; rfl)]
  exact hpost

/-- The state as the oldest `batch_max` unassigned rows fall due at tile `k`. -/
def State.balerFormed (s : State) (k p : Nat) : State := s.setTile k ((s.tile k).balerForm (s.fld (aBayBalerCfg p) 43 37))

/-- A full batch falls due outside deterministic mode (R174). -/
theorem balerTry_full (hd : s.globalDet = false) (hf : (s.tile k).bal.formed = [])
    (hdue : s.fld (aBayBalerCfg p) 43 37 ≤ (s.tile k).bal.waiting.length) :
    s.balerTry k p = balerFlush 2 (s.balerFormed k p) k p := by
  have hlen : ((s.tile k).balerForm (s.fld (aBayBalerCfg p) 43 37)).bal.formed.length = 1 := by
    show ((s.tile k).bal.formed ++ _).length = 1
    rw [hf]
    rfl
  unfold State.balerTry
  dsimp only
  rw [hd, State.balerDue, decide_eq_true hdue, if_pos (by rfl), hlen]
  rfl

end Release

/-! ### The statement -/

/-- What the record of a full batch reads (R172): its length, the furrow, and each row's tag and slot. -/
theorem released_reads (t : Tile) {base furrow : Nat} {slots : List Nat} (hmax : slots.length ≤ 64) (hfur : furrow < 2 ^ 48) :
    let m := (t.released base furrow slots).store
    let r := base + 65536 + 1024 * (t.bal.released % 16)
    leNat (mread m r 2) = slots.length ∧ leNat (mread m (r + 2) 6) = furrow ∧
      (∀ i, i < slots.length → leNat (mread m (r + 8 + 8 * i) 8) = leNat (mread t.store (base + 256 * ((slots[i]?).getD 0) + 128) 8)) ∧
      ∀ i, i < slots.length → mget m (r + 520 + i) = BitVec.ofNat 8 ((slots[i]?).getD 0) := by
  intro m r
  have hlen : (slots.map fun n => mval t.store (base + 256 * n + 128) 8).length = slots.length := List.length_map _
  have hread (a off n : Nat) (ha : a = r + off) (hn : off + n ≤ 584) :
      mread m a n = ((balerRecord (slots.map fun n => mval t.store (base + 256 * n + 128) 8) slots furrow).drop off).take n := by
    rw [ha]
    exact mread_mwrite _ _ _ _ _ (by rwa [length_balerRecord _ _ _ hlen hmax])
  refine ⟨?_, ?_, fun i hi => ?_, fun i hi => ?_⟩
  · rw [hread r 0 2 rfl (by decide), balerRecord_count, leNat_leBytes, Nat.mod_eq_of_lt (by omega)]
  · rw [hread (r + 2) 2 6 rfl (by decide), balerRecord_furrow, leNat_leBytes, Nat.mod_eq_of_lt hfur]
  · rw [hread (r + 8 + 8 * i) (8 + 8 * i) 8 (Nat.add_assoc _ _ _) (by omega), balerRecord_tag _ _ _ (by rwa [hlen]), leNat_leBytes,
      List.getElem_map, List.getElem?_eq_getElem hi, Option.getD_some]
    refine Nat.mod_eq_of_lt ((leNat_lt _).trans_le ?_)
    rw [length_mread]
  · have hbyte := hread (r + 520 + i) (520 + i) 1 (Nat.add_assoc _ _ _) (by omega)
    rw [balerRecord_slot _ _ _ hlen hmax hi] at hbyte
    rw [List.getElem?_eq_getElem hi, Option.getD_some]
    exact (List.cons.inj hbyte).1

theorem tileBaler : Claims.TileBaler := by
  intro s k p hp hup hon x base most
  have hbase := balerBase_eq hp
  refine ⟨fun row tag n hr hn hfree hmin => ?slot, fun row tag hr hfull => ?held, fun hd hf => ?det, ?full⟩
  case slot =>
    have hput : x.balerPut (s.balerBase k) s.furrow row tag =
        { x with
          store := mwrite (mwrite x.store (base + 256 * n) (leBytes 128 row.toNat)) (base + 256 * n + 128) (leBytes 8 tag.toNat)
          bal := { x.bal with used := x.bal.used ++ [n], waiting := x.bal.waiting ++ [(n, s.furrow)] } } := by
      rw [Tile.balerPut, find_free_slot hn hfree hmin, hbase]
    obtain ⟨hk, hj, hu⟩ := tileOnly_setTile s k (x.balerPut (s.balerBase k) s.furrow row tag)
    refine ⟨_, balerRowArrival_next hp hup hon hr row tag, ?_⟩
    rw [hk, hput]
    exact ⟨tileOnly_setTile _ _ _, fun a => mget_slot _ _ _ _ _⟩
  case held =>
    refine ⟨_, balerRowArrival_next hp hup hon hr row tag, ?_⟩
    have hput : x.balerPut (s.balerBase k) s.furrow row tag =
        { x with bal := { x.bal with
          heldRows := x.bal.heldRows ++ [(row, tag)], fullStalls := Nat.min (x.bal.fullStalls + 1) 65535 } } := by
      rw [Tile.balerPut, find_no_free_slot hfull]
      rfl
    rw [hput]
    exact tileOnly_setTile _ _ _
  case det =>
    refine ⟨_, balerRelease_next hp hup hon, ?_⟩
    rw [balerTry_det hd hf]
    exact tileOnly_setTile _ _ _
  case full =>
    intro hd hf _ hdue hmost hroom hrun htok
    have hformed : (s.balerFormed k p).tile k = x.balerForm most := State.tile_setTile _ _ _
    have hone : ((s.balerFormed k p).tile k).bal.formed = [(x.bal.waiting.take most).map fun e => e.1] := by
      rw [hformed]
      show x.bal.formed ++ _ = _
      rw [hf, List.nil_append]
    have hlen : ((x.bal.waiting.take most).map fun e => e.1).length = most := by rw [List.length_map, List.length_take, Nat.min_eq_left hdue]
    obtain ⟨z, hz⟩ : ∃ z, (x.balerForm most).released base s.furrow ((x.bal.waiting.take most).map fun e => e.1) = z := ⟨_, rfl⟩
    have hflush := tileOnly_trans (tileOnly_setTile s k (x.balerForm most))
      (tileOnly_balerFlush (z := z) (u := s.balerFormed k p) hp hone (by rw [hformed]; exact hroom) (by rw [hformed]; exact hrun)
        (by rw [hformed]; exact htok) (by rw [hformed]; exact hz))
    rw [← balerTry_full hd hf hdue] at hflush
    obtain ⟨hk, hj, hu⟩ := hflush
    refine ⟨_, balerRelease_next hp hup hon, ?_⟩
    obtain ⟨hcount, hfur, htags, hslots⟩ := released_reads (x.balerForm most) (base := base)
      (slots := (x.bal.waiting.take most).map fun e => e.1) (hlen.trans_le hmost) s.furrow_lt
    rw [hz, hlen] at hcount htags hslots
    rw [hz] at hfur
    dsimp only
    rw [hk]
    refine ⟨⟨hk.trans ?_, hj, hu⟩, hcount, hfur, htags, hslots⟩
    rw [← hz]
    unfold Tile.released Tile.balerForm
    simp only [hf]
    rfl

/-- Settles O30, from the drain of a bank and of the diagonal banks, and from the Baler's rows and batches. -/
theorem tileDrainsAndBalers : Obligations.TileDrainsAndBalers := ⟨tileDrain, tileBaler⟩

end Sys2Proof.Machine
end
